-- ==== Sys2Proof/Word.lean ====
section
/-! DEFINITION. The word types of the model (R6: multi-byte values are little-endian; bit 0 is the least significant bit). -/

namespace Sys2Proof

/-- One byte of any memory of the chip. -/
abbrev Byte := BitVec 8

/-- One 32-bit register, counter half or FP32 pattern. -/
abbrev Word := BitVec 32

/-- A 64-bit quantity: a device address, an identifier, a wide counter. -/
abbrev Dword := BitVec 64

/-- A 64-byte flit of a link (R353). -/
abbrev Flit := BitVec 512

end Sys2Proof
end

