-- ==== Sys2Proof/Syntax.lean ====
section
/-! DEFINITION. The commands of the block: one constructor of `Instr` per row of spec/opcode_table.json.
The operands are what the rules give the step: the core, engine, queue, port or lace that takes the step, and the
contents of what arrives from outside. What the chip itself already holds (a queue head, a record in T1) is no operand. -/

namespace Sys2Proof

/-- The four engines of a core (R91, field ENGINE). -/
inductive Engine where
  | fetch | plane | vector | put
  deriving DecidableEq, Repr

/-- Direction 0 runs toward NEXT, direction 1 toward PREV (chapter 10). -/
inductive Dir where
  | next | prev
  deriving DecidableEq, Repr

/-- Who makes a register access: the requester classes of R488 and the access rules of R462 and R497. -/
inductive Requester where
  | rwp
  | control (core : Fin 4)
  | security
  | remote
  deriving DecidableEq, Repr

/-- The header fields of a message on VCs 0 and 1 (R357), with the link word's DST, SRC and HOPS. -/
structure Msg where
  port : Fin 18
  src  : BitVec 20
  dst  : BitVec 20
  hops : Nat
  tag  : Word
  addr : Dword
  len  : Nat
  aux  : Word
  deriving DecidableEq, Repr

/-- The message types of R357, and the merge exchange of virtual channel 3 (R356). -/
inductive MsgType where
  | write | read | signal | awl | fanout | ack | readData | refuse | merge
  deriving DecidableEq, Repr

/-- The fan-out bytes of a FANOUT header (R30, R357). -/
structure FanHdr where
  group : BitVec 20
  epoch : Word
  level : Nat
  deriving DecidableEq, Repr

/-- A link frame (R355): the tag's fields and the flits in use. -/
structure Frame where
  seq   : Byte
  vc    : BitVec 4
  fill  : Nat
  ctrl  : Bool
  crc   : BitVec 16
  flits : List Flit
  deriving DecidableEq, Repr

/-- What the FEC decoder makes of a frame (R354, R375): codewords that it could not correct, and the symbols that it corrected on each
lane. -/
structure FecReport where
  bad   : Nat
  lanes : List Nat
  deriving DecidableEq, Repr

/-- The identity word of R361. -/
structure Identity where
  serial : Dword
  chip   : BitVec 20
  port   : BitVec 5
  ver    : BitVec 2
  deriving DecidableEq, Repr

/-- What IDENTITY_WORD reports: the peer's identity word, or the STATE of the peer's own plan check (R369). -/
inductive IdReport where
  | word (w : Identity)
  | state (n : Fin 8)
  deriving DecidableEq, Repr

/-- The lanes a port trained on (R362 step 3). -/
inductive Width where
  | full | lower | upper
  deriving DecidableEq, Repr

/-- The circulation header of R283. -/
structure CircHdr where
  tag        : Word
  seqno      : Word
  origin     : BitVec 20
  hopsLeft   : Word
  layer      : BitVec 16
  group      : Byte
  pages      : Byte
  firstIndex : Word
  payload    : Word
  epoch      : Word
  pass       : BitVec 16
  deriving DecidableEq, Repr

/-- The chunk header of R322. -/
structure ChunkHdr where
  sig     : Dword
  seq     : Word
  chunk   : Word
  lap     : Byte
  level   : Byte
  sender  : BitVec 20
  payload : Word
  epoch   : Word
  deriving DecidableEq, Repr

/-- What a merge exchange carries (R299, R300): the pre-fold node, a half range at level `j`, or invariant leaf `u`. -/
inductive MergeKind where
  | prefold
  | level (j : Nat)
  | leaf (u : Nat)
  deriving DecidableEq, Repr

/-- The aborts of the collective engine: a mismatch with the lace where it was found (R324), or another class 1 error with its originator
(R325). -/
inductive CollAbort where
  | mismatch (lace : Fin 6) (det : BitVec 20) (sig : Dword) (sender : BitVec 20)
  | error (code : BitVec 16) (pos : BitVec 20) (chip : BitVec 20)
  deriving DecidableEq, Repr

/-- The census flit of R324. `closing` is the second round that sends FIRST on. -/
structure CensusFlit where
  sig     : Dword
  first   : Option (BitVec 20 × BitVec 20)
  closing : Bool
  deriving DecidableEq, Repr

/-- A class 2 event that starts a device discard on its own (R443). -/
inductive DiscardCause where
  | t1Ue (word : BitVec 32)
  | coreParity (c : Fin 8)
  | sfuParity (c : Fin 8)
  | syncParity
  | linkParity (p : Fin 18)
  deriving DecidableEq, Repr

/-- The class 3 errors of R409, R434 and R484. -/
inductive FatalCause where
  | firmware
  | thermtrip
  | pmbusFail
  | voltageTable
  | bootFail
  | otpBad
  deriving DecidableEq, Repr

/-- What the ECC of one T1 code word shows when it is read (R190). -/
inductive EccResult where
  | ok | corrected | uncorrectable
  deriving DecidableEq, Repr

/-- What the Ethernet and IP headers of a packet say to the host port (R379, R380): the frame's bytes, its IEEE 802.1Q tags, the IP
address that it is sent to (an IPv4 one as ::ffff:a.b.c.d) and its ECN mark. -/
structure Packet where
  size : Nat
  tags : Nat
  dst  : BitVec 128
  ecn  : Bool
  deriving DecidableEq, Repr

/-- The header of a net-boot frame, before the fields of its type (R387). -/
structure NbHdr where
  etherType : BitVec 16
  magic     : BitVec 16
  image     : Byte
  serial    : Dword
  deriving DecidableEq, Repr

/-- An RWP request: its packet and UDP port, its source address (R385), and the header of R384. -/
structure RwpHdr where
  packet   : Packet
  udp      : BitVec 16
  src      : BitVec 128
  magic    : BitVec 16
  ver      : Byte
  op       : Byte
  seq      : Word
  addr     : Word
  count    : Nat
  status   : Byte
  reserved : Byte
  deriving DecidableEq, Repr

/-- What answers a record write of the chip (R380, R381): an ACK, a NAK for a sequence error, or a NAK for an error such as remote access. -/
inductive RoceReply where
  | ack | nakSequence | nakError
  deriving DecidableEq, Repr

/-- The SMBus Address Resolution Protocol commands the target serves (R511): the general ones, and the two directed to an address. -/
inductive ArpOp where
  | prepare
  | resetDevice
  | getUdid
  | resetDeviceAt (address : BitVec 7)
  | getUdidAt (address : BitVec 7)
  | assign (udidMatches : Bool) (address : BitVec 7)
  deriving DecidableEq, Repr

/-- The instructions a debugger shifts into the TAP (R483): the mandatory ones of IEEE 1149.1, and the chip's private ones. -/
inductive TapOp where
  | bypass | extest | samplePreload
  | privateDebug (code : Byte)
  deriving DecidableEq, Repr

/-- The completion a member reports up the fan-out tree (R32). -/
structure MemberReport where
  error    : BitVec 16
  advisory : BitVec 16
  unit     : Word
  detail   : Word
  result   : Dword
  position : Nat
  deriving DecidableEq, Repr

/-- A barrier error as it comes down the tree of a group: its code, the offending member's position, and the level of the fan-out at which
this chip passes it on (R30, R127). -/
structure BarrierReport where
  code  : BitVec 16
  pos   : Nat
  level : Nat
  deriving DecidableEq, Repr

/-- The commands, in the order of spec/opcode_table.json. -/
inductive Instr where
  | dispatch (c : Fin 8)
  | phaseEnter (c : Fin 8)
  | nop (c : Fin 8) (e : Engine)
  | ctrAdd (c : Fin 8) (e : Engine)
  | halt (c : Fin 8) (e : Engine)
  | setOutstanding (c : Fin 8) (e : Engine)
  | fetch (c : Fin 8)
  | put (c : Fin 8)
  | blockIssue (c : Fin 8) (e : Engine)
  | loadW (c : Fin 8)
  | matmul (c : Fin 8)
  | attnCfg (c : Fin 8)
  | attnKv (c : Fin 8)
  | attnEnd (c : Fin 8)
  | scan (c : Fin 8)
  | ringSend (c : Fin 8)
  | awlPut (c : Fin 8)
  | fence (c : Fin 8)
  | sigRemote (c : Fin 8)
  | circDone (c : Fin 8)
  | vcfg (c : Fin 8)
  | vop (c : Fin 8)
  | rstat (c : Fin 8)
  | sfu (c : Fin 8)
  | uprog (c : Fin 8)
  | tallyClr (c : Fin 8)
  | instructionComplete (c : Fin 8) (e : Engine)
  | coreHang (c : Fin 8)
  | corePowerGate (c : Fin 8)
  | coreWake (c : Fin 8)
  | coreReset (c : Fin 8)
  | coreResetEnd (c : Fin 8)
  | coreResume (c : Fin 8)
  | sfuSwap (c : Fin 8)
  | cmdMatmul (q : Fin 64)
  | norm (q : Fin 64)
  | sfuApply (q : Fin 64)
  | coreProgram (q : Fin 64)
  | attnPrefill (q : Fin 64)
  | attnDecode (q : Fin 64)
  | circulate (q : Fin 64)
  | kvAppend (q : Fin 64)
  | trim (q : Fin 64)
  | prefixMatch (q : Fin 64)
  | prefixInsert (q : Fin 64)
  | prefixFork (q : Fin 64)
  | prefixRelease (q : Fin 64)
  | prefixEvict (q : Fin 64)
  | almanacSelect (q : Fin 64)
  | walkRun (q : Fin 64)
  | allreduce (q : Fin 64)
  | reduceScatter (q : Fin 64)
  | allgather (q : Fin 64)
  | topkMerge (q : Fin 64)
  | query (q : Fin 64)
  | publish (q : Fin 64)
  | switchView (q : Fin 64)
  | move (q : Fin 64)
  | barrier (q : Fin 64)
  | signal (q : Fin 64)
  | wait (q : Fin 64)
  | hint (q : Fin 64)
  | cmdBadOpcode (q : Fin 64)
  | commandStart (q : Fin 64)
  | commandComplete (q : Fin 64)
  | cmdWaitTimeout (q : Fin 64)
  | doorbell (qp : Fin 256) (psn : BitVec 24) (rkey : Word) (addr : Dword) (data : List Byte) (imm : Word) (p : Packet)
  | restart (q : Fin 64)
  | drop (q : Fin 64)
  | queueControlNotice (q : Fin 64) (isDrop : Bool) (group : BitVec 20) (level : Nat)
  | barrierArrival (group : BitVec 20) (sub : BitVec 20) (round : Nat) (epoch : Word) (pos : Nat)
  | barrierRelease (group : BitVec 20) (round : Nat) (error : Option BarrierReport)
  | barrierTimeout (q : Fin 64)
  | fanoutCompletion (tag : Word) (r : MemberReport)
  | deviceDiscard (ev : DiscardCause)
  | discardComplete
  | discardNotice (group : BitVec 20) (level : Nat) (code : BitVec 16)
  | fatalError (ev : FatalCause)
  | fatalNotice (chip : BitVec 20)
  | handSet (hi : Word)
  | ctlFence (bits : Word)
  | msgWrite (m : Msg) (data : List Byte)
  | msgRead (m : Msg)
  | msgSignal (m : Msg)
  | msgAwl (m : Msg) (data : List Byte)
  | msgFanout (m : Msg) (f : FanHdr) (data : List Byte)
  | msgAck (m : Msg)
  | msgReadData (m : Msg) (data : List Byte)
  | msgRefuse (m : Msg)
  | messageForward (t : MsgType) (m : Msg) (flits : List Flit)
  | frameReceive (p : Fin 18) (f : Frame) (fec : FecReport)
  | frameAck (p : Fin 18) (seq : Byte)
  | nak (p : Fin 18) (seq : Byte)
  | linkCredit (p : Fin 18) (vc : Fin 16) (total : Nat)
  | controlFrameSend (p : Fin 18)
  | identityWord (p : Fin 18) (r : IdReport)
  | linkLoss (p : Fin 18)
  | linkTrained (p : Fin 18) (w : Width) (peer : Identity)
  | linkTrainFail (p : Fin 18)
  | linkTrainRestart (p : Fin 18)
  | retrain (p : Fin 18)
  | resume (p : Fin 18)
  | circBlock (l : Fin 6) (d : Dir) (h : CircHdr) (payload : List Byte) (crc : Word)
  | blockLanded (l : Fin 6) (d : Dir)
  | blockSend (l : Fin 6) (d : Dir)
  | circAck (l : Fin 6) (d : Dir) (seqno : Word)
  | circCredit (l : Fin 6) (d : Dir) (tag : Word)
  | circAbort (l : Fin 6) (code : BitVec 16) (pos : BitVec 20)
  | circTimeout (l : Fin 6) (d : Dir)
  | mergeStart
  | mergeExchange (tag : Word) (k : MergeKind) (sender : Nat) (rowLo : Nat) (data : List Byte)
  | mergeEndMarker (tag : Word) (sender : Nat)
  | mergeComplete
  | collChunk (l : Fin 6) (h : ChunkHdr) (payload : List Byte) (crc : Word)
  | chunkSend (l : Fin 6)
  | collCredit (l : Fin 6)
  | collAbort (l : Fin 6) (a : CollAbort)
  | census (l : Fin 6) (f : CensusFlit)
  | collTimeout (l : Fin 6)
  | create (index : BitVec 16)
  | free (index : BitVec 16)
  | flush (index : BitVec 16)
  | prefetch (index : BitVec 16)
  | ptOpBad (v : Word)
  | pageIn (index : BitVec 16) (item : Nat)
  | rdData (r : Fin 2) (tag : Fin 1024) (data : List Byte)
  | wrAck (r : Fin 2) (tag : Fin 1024)
  | resErr (r : Fin 2) (tag : Fin 1024) (status : Byte)
  | helloAck (r : Fin 2) (capacity : Dword) (maxTags : BitVec 12)
  | t2Timeout (r : Fin 2) (tag : Fin 1024)
  | t1Wipe
  | t1WipeEnd
  | patrolScrub (word : BitVec 32) (r : EccResult)
  | powerTick
  | pointDecision
  | frequencySwitch
  | pwrFreqAbandon
  | droopDetect (d : Fin 32)
  | clampRelease
  | holdoffEnd
  | calStart
  | calComplete (means : List Nat)
  | hintPhaseStart
  | hintPhaseEnd
  | pmbAlert
  | alertRelease
  | sensorRead (readings : List Int)
  | thermtrip (sensor : Fin 64)
  | pmbusTimeout
  | coldReset
  | warmReset
  | softReset (v : Word)
  | softResetEnd
  | boot (bootSel : BitVec 2) (programmed : List (Nat × Byte))
  | nbAnnounce
  | nbOffer (h : NbHdr) (length : Word) (mac : BitVec 48)
  | nbData (h : NbHdr) (index : Word) (length : Word) (crc : Word) (payload : List Byte)
  | nbReadRetry (image : Byte) (index : Word)
  | nbTimeout (image : Byte)
  | nbAbort (h : NbHdr)
  | attest
  | debugToken
  | lcTransition (target : Fin 8)
  | provisionId
  | getPubkey
  | mailboxComplete
  | rwpRead (h : RwpHdr) (data : List Word)
  | rwpWrite (h : RwpHdr) (data : List Word)
  | rdmaWrite (qp : Fin 256) (psn : BitVec 24) (rkey : Word) (addr : Dword) (data : List Byte) (p : Packet)
  | rdmaRead (qp : Fin 256) (psn : BitVec 24) (rkey : Word) (addr : Dword) (len : Nat) (p : Packet)
  | roceAck (qp : Fin 256) (psn : BitVec 24) (r : RoceReply) (p : Packet)
  | qpTimeout (qp : Fin 256)
  | cnp (qp : Fin 256) (p : Packet)
  | modify (qp : Fin 256)
  | qpQuery (qp : Fin 256)
  | hpLinkDown
  | hostRetrain
  | commit
  | commitApply
  | discard
  | quietTimeout
  | registerWrite (who : Requester) (off : Word) (v : Word)
  | smbStatus
  | smbTempMax
  | smbPwrEst
  | smbPwrAvg
  | smbFatalCode
  | smbLcState
  | smbChipId
  | smbSerial
  | smbDevice
  | smbEnergy
  | smbArp (op : ArpOp)
  | smbTimeout
  | jtagTapReset
  | hostPortTrained (partnerMax : BitVec 2)
  | pfcPause (prio : Fin 8) (on : Bool)
  | unsupportedRocePacket (qp : Fin 256) (psn : BitVec 24) (p : Packet)
  | censusWaitTimeout (l : Fin 6)
  | smbUnlistedCommand (code : Byte) (isWrite : Bool)
  | tapInstruction (op : TapOp)
  deriving DecidableEq, Repr

end Sys2Proof
end

