-- ==== Sys2Proof/Machine/Num.lean ====
section
/-! DEFINITION. Element formats, exact values, and the one rounding of the chip (R38 to R45, R94). -/

namespace Sys2Proof.Machine

/-- The formats of R94, by code. `mx16` is MX-FP4/16. -/
inductive Fmt where
  | fp32 | bf16 | fp16 | e4m3 | e5m2 | mxE3m2 | mxE2m3 | mxE2m1 | int8 | int32 | mx16
  deriving DecidableEq, Repr

/-- The format codes of R94; 0xB to 0xF are reserved. -/
def Fmt.ofCode : Nat → Option Fmt
  | 0 => some .fp32 | 1 => some .bf16 | 2 => some .fp16 | 3 => some .e4m3 | 4 => some .e5m2
  | 5 => some .mxE3m2 | 6 => some .mxE2m3 | 7 => some .mxE2m1 | 8 => some .int8 | 9 => some .int32
  | 10 => some .mx16 | _ => none

/-- Width of one element in bits (R38). -/
def Fmt.bits : Fmt → Nat
  | .fp32 | .int32 => 32
  | .bf16 | .fp16 => 16
  | .e4m3 | .e5m2 | .int8 => 8
  | .mxE3m2 | .mxE2m3 => 6
  | .mxE2m1 | .mx16 => 4

/-- The formats that carry block scales (R40). -/
def Fmt.isMx : Fmt → Bool
  | .mxE3m2 | .mxE2m3 | .mxE2m1 | .mx16 => true
  | _ => false

/-- Elements that share one scale (R40): 16 in MX-FP4/16, else 32. -/
def Fmt.block : Fmt → Nat
  | .mx16 => 16
  | _ => 32

def Fmt.isFp8 : Fmt → Bool
  | .e4m3 | .e5m2 => true
  | _ => false

def Fmt.isInt : Fmt → Bool
  | .int8 | .int32 => true
  | _ => false

/-- How a floating-point format encodes infinities and NaN (R38). -/
inductive Special where
  | ieee | e4m3 | finiteOnly
  deriving DecidableEq, Repr

/-- The parameters of a floating-point format (R38). -/
structure FloatFmt where
  expBits : Nat
  manBits : Nat
  bias    : Nat
  special : Special
  deriving DecidableEq, Repr

/-- Parameters of each format's elements; the integer formats have none. -/
def Fmt.float : Fmt → FloatFmt
  | .fp32 => ⟨8, 23, 127, .ieee⟩
  | .bf16 => ⟨8, 7, 127, .ieee⟩
  | .fp16 => ⟨5, 10, 15, .ieee⟩
  | .e4m3 => ⟨4, 3, 7, .e4m3⟩
  | .e5m2 => ⟨5, 2, 15, .ieee⟩
  | .mxE3m2 => ⟨3, 2, 3, .finiteOnly⟩
  | .mxE2m3 => ⟨2, 3, 1, .finiteOnly⟩
  | .mxE2m1 | .mx16 => ⟨2, 1, 1, .finiteOnly⟩
  | .int8 | .int32 => ⟨0, 0, 0, .finiteOnly⟩

/-- An exact value: NaN, an infinity, or the signed dyadic number ±m·2^e (m = 0 is a signed zero). -/
inductive Val where
  | nan
  | inf (neg : Bool)
  | num (neg : Bool) (m : Nat) (e : Int)
  deriving DecidableEq, Repr

namespace Val

def zero : Val := .num false 0 0
def negZero : Val := .num true 0 0

/-- Positive and negative parts: 2^k for k at or above 0, else 1. -/
def pow2 (k : Int) : Nat := 2 ^ k.toNat

/-- The signed integer m·2^(e − base), for base at or below e. -/
def mant (neg : Bool) (m : Nat) (e base : Int) : Int :=
  let v : Int := ((m * pow2 (e - base) : Nat) : Int)
  if neg then -v else v

def ofInt (i : Int) (e : Int) : Val := .num (decide (i < 0)) i.natAbs e

def isNan : Val → Bool
  | .nan => true
  | _ => false

def isFinite : Val → Bool
  | .num _ _ _ => true
  | _ => false

def isZero : Val → Bool
  | .num _ 0 _ => true
  | _ => false

def isNeg : Val → Bool
  | .nan => false
  | .inf n => n
  | .num n _ _ => n

def negate : Val → Val
  | .nan => .nan
  | .inf n => .inf (!n)
  | .num n m e => .num (!n) m e

def abs : Val → Val
  | .nan => .nan
  | .inf _ => .inf false
  | .num _ m e => .num false m e

/-- Exact sum, with the special operands and the zero signs of IEEE 754 under round-to-nearest (R45). -/
def add : Val → Val → Val
  | .nan, _ => .nan
  | _, .nan => .nan
  | .inf a, .inf b => if a = b then .inf a else .nan
  | .inf a, _ => .inf a
  | _, .inf b => .inf b
  | .num a m e, .num b n f =>
    let base := min e f
    let i := mant a m e base + mant b n f base
    if i = 0 then .num (a && b) 0 0 else ofInt i base

def sub (a b : Val) : Val := add a b.negate

/-- Exact product (R45: infinity times zero is NaN). -/
def mul : Val → Val → Val
  | .nan, _ => .nan
  | _, .nan => .nan
  | .inf a, .inf b => .inf (a != b)
  | .inf a, .num b m _ => if m = 0 then .nan else .inf (a != b)
  | .num a m _, .inf b => if m = 0 then .nan else .inf (a != b)
  | .num a m e, .num b n f => .num (a != b) (m * n) (e + f)

/-- Multiply by 2^k. -/
def scale (k : Int) : Val → Val
  | .num a m e => .num a m (e + k)
  | v => v

/-- Exact sum of a list, from the left. The empty sum is +0. -/
def sum : List Val → Val
  | [] => zero
  | v :: vs => vs.foldl add v

/-- Strict order of values that are not NaN; +0 and −0 are equal. -/
def lt : Val → Val → Bool
  | .nan, _ => false
  | _, .nan => false
  | .inf a, .inf b => a && !b
  | .inf a, .num _ _ _ => a
  | .num _ _ _, .inf b => !b
  | .num a m e, .num b n f => decide (mant a m e (min e f) < mant b n f (min e f))

/-- R139: NaN if either is NaN; max(−0, +0) is +0. -/
def max (a b : Val) : Val :=
  if a.isNan || b.isNan then .nan
  else if a.isZero && b.isZero then .num (a.isNeg && b.isNeg) 0 0
  else if lt a b then b else a

/-- R139: NaN if either is NaN; min(−0, +0) is −0. -/
def min' (a b : Val) : Val :=
  if a.isNan || b.isNan then .nan
  else if a.isZero && b.isZero then .num (a.isNeg || b.isNeg) 0 0
  else if lt b a then b else a

end Val

/-- The value an element's bits stand for (R38). -/
def decodeFloat (p : FloatFmt) (bits : Nat) : Val :=
  let man := bits % 2 ^ p.manBits
  let ex := bits / 2 ^ p.manBits % 2 ^ p.expBits
  let neg := decide (bits / 2 ^ (p.manBits + p.expBits) % 2 = 1)
  let top := 2 ^ p.expBits - 1
  let low : Int := 1 - (p.bias : Int) - (p.manBits : Int)
  let finite : Val :=
    if ex = 0 then .num neg man low else .num neg (man + 2 ^ p.manBits) (low + (ex : Int) - 1)
  match p.special with
  | .ieee => if ex = top then (if man = 0 then .inf neg else .nan) else finite
  | .e4m3 => if ex = top ∧ man = 2 ^ p.manBits - 1 then .nan else finite
  | .finiteOnly => finite

/-- A two's complement integer of `w` bits. -/
def decodeInt (w : Nat) (bits : Nat) : Int :=
  let b := bits % 2 ^ w
  if b < 2 ^ (w - 1) then (b : Int) else (b : Int) - (2 ^ w : Nat)

/-- The value of one element's bits, its block scale apart. -/
def Fmt.value (f : Fmt) (bits : Nat) : Val :=
  match f with
  | .int8 => Val.ofInt (decodeInt 8 bits) 0
  | .int32 => Val.ofInt (decodeInt 32 bits) 0
  | _ => decodeFloat f.float bits

/-- The value of an MX element with its E8M0 scale (R40): a scale of 0xFF makes it NaN. -/
def scaled (scaleByte : Nat) (v : Val) : Val :=
  if scaleByte = 255 then .nan else v.scale ((scaleByte : Int) - 127)

/-- ⌊log₂(n/d)⌋ for positive n and d. -/
def floorLog2 (n d : Nat) : Int :=
  let a : Int := (Nat.log2 n : Int) - (Nat.log2 d : Int)
  if n * Val.pow2 (-a) ≥ d * Val.pow2 a then a else a - 1

/-- n/d rounded to the nearest integer, ties to even. -/
def roundDiv (n d : Nat) : Nat :=
  let q := n / d
  let r := n % d
  if 2 * r > d ∨ (2 * r = d ∧ q % 2 = 1) then q + 1 else q

/-- The magnitude code of n/d in a format, rounded once to nearest even with subnormals (R39, R43). Codes rise with the
value, so a code above the largest finite one is an overflow. -/
def roundCode (p : FloatFmt) (n d : Nat) : Nat :=
  if n = 0 then 0 else
  let emin : Int := 1 - (p.bias : Int)
  let k := floorLog2 n d
  let q := (if k < emin then emin else k) - (p.manBits : Int)
  let m := roundDiv (n * Val.pow2 (-q)) (d * Val.pow2 q)
  (q - (emin - (p.manBits : Int))).toNat * 2 ^ p.manBits + m

/-- The largest finite magnitude code. -/
def maxCode (p : FloatFmt) : Nat :=
  match p.special with
  | .ieee => (2 ^ p.expBits - 1) * 2 ^ p.manBits - 1
  | .e4m3 => 2 ^ (p.expBits + p.manBits) - 2
  | .finiteOnly => 2 ^ (p.expBits + p.manBits) - 1

/-- Formats whose overflow is the infinity of the sign (R44). -/
def Fmt.overflowsToInf : Fmt → Bool
  | .fp32 | .bf16 | .fp16 => true
  | _ => false

/-- The canonical NaN of a format (R45); the formats without one have none to give. -/
def Fmt.nanBits : Fmt → Nat
  | .fp32 => 0x7FC00000
  | .bf16 => 0x7FC0
  | .fp16 => 0x7E00
  | .e5m2 => 0x7E
  | .e4m3 => 0x7F
  | _ => 0

/-- Bits of one converted element, and whether the conversion saturated (R44). -/
structure Conv where
  bits : Nat
  sat  : Bool
  deriving DecidableEq, Repr

def signBit (f : Fmt) (neg : Bool) : Nat :=
  if neg then 2 ^ (f.float.expBits + f.float.manBits) else 0

/-- Convert the signed rational ±n/d to a floating-point format: one rounding, then R44. -/
def convRat (f : Fmt) (neg : Bool) (n d : Nat) : Conv :=
  let c := roundCode f.float n d
  let s := signBit f neg
  if c ≤ maxCode f.float then ⟨s + c, false⟩
  else if f.overflowsToInf then ⟨s + (maxCode f.float + 1), false⟩
  else ⟨s + maxCode f.float, true⟩

/-- Convert ±n/d to a two's complement integer format of `w` bits: nearest even, saturating (R44). -/
def convInt (w : Nat) (neg : Bool) (n d : Nat) : Conv :=
  let q := roundDiv n d
  let lim := 2 ^ (w - 1)
  if neg then (if q ≤ lim then ⟨(2 ^ w - q) % 2 ^ w, false⟩ else ⟨lim, true⟩)
  else if q < lim then ⟨q, false⟩ else ⟨lim - 1, true⟩

def Fmt.intBits : Fmt → Nat
  | .int8 => 8
  | _ => 32

/-- Round an exact value to a format (R43, R44, R45). An infinity saturates where the format has none. -/
def convert (f : Fmt) (v : Val) : Conv :=
  match v with
  | .nan => if f.isInt then ⟨0, true⟩ else ⟨f.nanBits, false⟩
  | .inf neg =>
    if f.isInt then ⟨if neg then 2 ^ (f.intBits - 1) else 2 ^ (f.intBits - 1) - 1, true⟩
    else match f.float.special with
      | .ieee => ⟨signBit f neg + (maxCode f.float + 1), false⟩
      | _ => ⟨signBit f neg + maxCode f.float, true⟩
  | .num neg m e =>
    if f.isInt then convInt f.intBits neg (m * Val.pow2 e) (Val.pow2 (-e))
    else convRat f neg (m * Val.pow2 e) (Val.pow2 (-e))

/-- The FP32 value of a word. -/
def f32 (w : Word) : Val := decodeFloat Fmt.fp32.float w.toNat

/-- Round to FP32 (R43): the word. -/
def toF32 (v : Val) : Word := BitVec.ofNat 32 (convert .fp32 v).bits

/-- Round to FP32: the value. -/
def rne (v : Val) : Val := f32 (toF32 v)

/-- The quotient a/b rounded once to a format (IEEE 754 for zeros, infinities and invalid operations). -/
def divTo (f : Fmt) (a b : Val) : Conv :=
  match a, b with
  | .nan, _ => convert f .nan
  | _, .nan => convert f .nan
  | .inf _, .inf _ => convert f .nan
  | .inf s, .num t _ _ => convert f (.inf (s != t))
  | .num s _ _, .inf t => convert f (.num (s != t) 0 0)
  | .num s m e, .num t n g =>
    if n = 0 then (if m = 0 then convert f .nan else convert f (.inf (s != t)))
    else if f.isInt then convInt f.intBits (s != t) (m * Val.pow2 (e - g)) (n * Val.pow2 (g - e))
    else convRat f (s != t) (m * Val.pow2 (e - g)) (n * Val.pow2 (g - e))

/-- The quotient of two integers, times 2^e, rounded once to FP32. -/
def ratF32 (i : Int) (d : Nat) (e : Int) : Word :=
  BitVec.ofNat 32 (convRat .fp32 (decide (i < 0)) (i.natAbs * Val.pow2 e) (d * Val.pow2 (-e))).bits

/-- The canonical FP32 NaN. -/
def nan32 : Word := 0x7FC00000#32

/-- −∞ and +∞ in FP32. -/
def negInf32 : Word := 0xFF800000#32
def posInf32 : Word := 0x7F800000#32

/-- ⌊log₂|v|⌋ of a finite non-zero value. -/
def Val.exponent : Val → Int
  | .num _ m e => (Nat.log2 m : Int) + e
  | _ => 0

/-- The MX scale and element codes of one block (R42): 0x00 for an all-zero block, 0xFF for one that holds a NaN or an
infinity; also how many elements saturated. -/
def quantiseBlock (f : Fmt) (vs : List Val) : Nat × List Nat × Nat :=
  if vs.any (fun v => !v.isFinite) then (255, vs.map fun _ => 0, 0)
  else if vs.all Val.isZero then (0, vs.map fun _ => 0, 0)
  else
    let e : Int := match f with
      | .mxE3m2 => 4
      | _ => 2
    let top := (vs.filter fun v => !v.isZero).foldl (fun a v => max a v.exponent) (-100000)
    let x := max (-127) (min 127 (top - e))
    let cs := vs.map fun v => convert f (v.scale (-x))
    ((x + 127).toNat, cs.map Conv.bits, (cs.filter Conv.sat).length)

end Sys2Proof.Machine
end

