-- ==== Sys2Proof/Machine/Fn.lean ====
section
/-! DEFINITION. The transcendental functions whose results the spec rounds exactly (R146, R148, R230), by fixed-point
interval arithmetic: every function gives integers lo ≤ hi with lo/2^prec ≤ value ≤ hi/2^prec. -/

namespace Sys2Proof.Machine

/-- Fraction bits of the fixed-point intervals. DEDUCED: wide enough for every rounding the rules ask for. -/
def prec : Nat := 1400

/-- ⌊ln 2 · 2^1600⌋. -/
def ln2Bits : Nat := 0xb17217f7d1cf79abc9e3b39803f2f6af40f343267298b62d8a0d175b8baafa2be7b876206debac98559552fb4afa1b10ed2eae35c138214427573b291169b8253e96ca16224ae8c51acbda11317c387eb9ea9bc3b136603b256fa0ec7657f74b72ce87b19d6548caf5dfa6bd38303248655fa1872f20e3a2da2d97c50f3fd5c607f4ca11fb5bfb90610d30f88fe551a2ee569d6dfc1efa157d2e23de1400b39617460775db8990e5c943e732b479cd33cccc4e659393514c4c1a1e0bd1d6095d25669b333564a337

/-- ⌊π · 2^1600⌋. -/
def piBits : Nat := 0x3243f6a8885a308d313198a2e03707344a4093822299f31d0082efa98ec4e6c89452821e638d01377be5466cf34e90c6cc0ac29b7c97c50dd3f84d5b5b54709179216d5d98979fb1bd1310ba698dfb5ac2ffd72dbd01adfb7b8e1afed6a267e96ba7c9045f12c7f9924a19947b3916cf70801f2e2858efc16636920d871574e69a458fea3f4933d7e0d95748f728eb658718bcd5882154aee7b54a41dc25a59b59c30d5392af26013c5d1b023286085f0ca417918b8db38ef8e79dcb0603a180e6c9e0e8bb01e8a3e

/-- An enclosure in units of 2^−prec. -/
structure Itv where
  lo : Int
  hi : Int
  deriving DecidableEq, Repr

namespace Itv

def one : Int := ((2 ^ prec : Nat) : Int)

def exact (i : Int) : Itv := ⟨i, i⟩

/-- Floor division by 2^k. -/
def shr (i : Int) (k : Nat) : Int := i / ((2 ^ k : Nat) : Int)

def add (a b : Itv) : Itv := ⟨a.lo + b.lo, a.hi + b.hi⟩
def neg (a : Itv) : Itv := ⟨-a.hi, -a.lo⟩
def sub (a b : Itv) : Itv := a.add b.neg

def mul (a b : Itv) : Itv :=
  let p1 := a.lo * b.lo
  let p2 := a.lo * b.hi
  let p3 := a.hi * b.lo
  let p4 := a.hi * b.hi
  ⟨shr (min (min p1 p2) (min p3 p4)) prec, shr (max (max p1 p2) (max p3 p4)) prec + 1⟩

/-- Quotient by a positive enclosure. -/
def divPos (a b : Itv) : Itv :=
  let n1 := a.lo * one
  let n2 := a.hi * one
  let bl := max b.lo 1
  let bh := max b.hi 1
  ⟨if a.lo < 0 then n1 / bl else n1 / bh, (if a.hi < 0 then n2 / bh else n2 / bl) + 1⟩

/-- Scale by 2^k, rounding outward. -/
def shift (a : Itv) (k : Int) : Itv :=
  if 0 ≤ k then ⟨a.lo * (Val.pow2 k : Nat), a.hi * (Val.pow2 k : Nat)⟩
  else ⟨shr a.lo (-k).toNat, shr a.hi (-k).toNat + 1⟩

def ln2 : Itv := ⟨((ln2Bits / 2 ^ 200 : Nat) : Int), ((ln2Bits / 2 ^ 200 + 1 : Nat) : Int)⟩
def pi : Itv := ⟨((piBits / 2 ^ 200 : Nat) : Int), ((piBits / 2 ^ 200 + 1 : Nat) : Int)⟩

/-- The enclosure of a rational n/d. -/
def ofRat (n : Int) (d : Nat) : Itv :=
  ⟨n * one / (d : Int), n * one / (d : Int) + 1⟩

/-- The enclosure of ±m·2^e. -/
def ofDyadic (neg : Bool) (m : Nat) (e : Int) : Itv :=
  let k := e + prec
  let i : Itv := if 0 ≤ k then exact ((m * Val.pow2 k : Nat) : Int)
    else ⟨((m / Val.pow2 (-k) : Nat) : Int), ((m / Val.pow2 (-k) + 1 : Nat) : Int)⟩
  if neg then i.neg else i

/-- Σ term·x^i/(k·(k+1)·…), the exponential series from term k. -/
def expSum (x : Int) : Nat → Nat → Int → Int → Int
  | 0, _, _, acc => acc
  | f + 1, k, term, acc =>
    if term = 0 ∨ term = -1 then acc else expSum x f (k + 1) (shr (term * x) prec / (k : Int)) (acc + term)

/-- Enclosure of e^x for a point |x| ≤ 1/2. -/
def expPoint (x : Int) : Itv :=
  let s := expSum x 400 1 one 0
  ⟨s - 900, s + 900⟩

/-- Enclosure of e^x. -/
def exp (x : Itv) : Itv :=
  let k := (x.lo + x.hi) / (2 * ln2.lo)
  let r := x.sub ⟨min (k * ln2.lo) (k * ln2.hi), max (k * ln2.lo) (k * ln2.hi)⟩
  let e : Itv := ⟨max (expPoint r.lo).lo 0, (expPoint r.hi).hi⟩
  e.shift k

/-- Σ z^(2i+1)/(2i+1), alternating when `alt`. -/
def oddSum (z2 : Int) (alt : Bool) : Nat → Nat → Int → Int → Int
  | 0, _, _, acc => acc
  | f + 1, k, pw, acc =>
    if pw = 0 ∨ pw = -1 then acc
    else oddSum z2 alt f (k + 2) (if alt then -shr (pw * z2) prec else shr (pw * z2) prec) (acc + pw / (k : Int))

/-- Enclosure of the natural logarithm of a point y > 0, as mantissa m in [3/4, 3/2] and exponent k. -/
def logPoint (y : Int) : Itv :=
  let k : Int := (Nat.log2 y.toNat : Int) - prec
  let m0 := if 0 ≤ k then y / ((Val.pow2 k : Nat) : Int) else y * (Val.pow2 (-k) : Nat)
  let big := decide (m0 * 2 > 3 * one)
  let k' := if big then k + 1 else k
  -- ln(m) = 2·atanh((m − 1)/(m + 1)) with m = y·2^(−k')
  let num := if 0 ≤ k' then y - one * (Val.pow2 k' : Nat) else y * (Val.pow2 (-k') : Nat) - one
  let den := if 0 ≤ k' then y + one * (Val.pow2 k' : Nat) else y * (Val.pow2 (-k') : Nat) + one
  let z := num * one / den
  let s := 2 * oddSum (shr (z * z) prec) false 700 1 z 0
  (⟨s - 4000, s + 4000⟩ : Itv).add ⟨min (k' * ln2.lo) (k' * ln2.hi), max (k' * ln2.lo) (k' * ln2.hi)⟩

/-- Enclosure of ln y for y > 0. -/
def log (y : Itv) : Itv := ⟨(logPoint (max y.lo 1)).lo, (logPoint (max y.hi 1)).hi⟩

/-- The error-function series Σ (−1)^i x^(2i+1)/(i!(2i+1)). -/
def erfSum (x2 : Int) : Nat → Nat → Int → Int → Int
  | 0, _, _, acc => acc
  | f + 1, i, pw, acc =>
    if pw = 0 ∨ pw = -1 then acc
    else erfSum x2 f (i + 1) (-shr (pw * x2) prec / ((i + 1 : Nat) : Int)) (acc + pw / ((2 * i + 1 : Nat) : Int))

/-- Integer square root of a natural number, by bisection of its bits. -/
def isqrtGo (n : Nat) : Nat → Nat → Nat
  | 0, r => r
  | b + 1, r => let t := r + 2 ^ b; isqrtGo n b (if t * t ≤ n then t else r)

def isqrt (n : Nat) : Nat := isqrtGo n (Nat.log2 n / 2 + 1) 0

/-- Enclosure of √y for y ≥ 0. -/
def sqrt (y : Itv) : Itv :=
  ⟨(isqrt (y.lo.toNat * 2 ^ prec) : Int), (isqrt (y.hi.toNat * 2 ^ prec) : Int) + 1⟩

/-- Enclosure of erf x for |x| ≤ 16: the terms reach e^256, so the sum is exact to about 2^−1000. -/
def erf (x : Itv) : Itv :=
  let pt (a : Int) : Int := erfSum (shr (a * a) prec) 1800 0 a 0
  let err : Int := ((2 ^ 400 : Nat) : Int)
  let s : Itv := ⟨pt x.lo - err, pt x.hi + err⟩
  (s.add s).divPos (sqrt pi)

/-- Σ of the sine (from k = 1) or cosine (from k = 0) series of a reduced point. -/
def trigSum (x2 : Int) : Nat → Nat → Int → Int → Int
  | 0, _, _, acc => acc
  | f + 1, k, term, acc =>
    if term = 0 ∨ term = -1 then acc
    else trigSum x2 f (k + 2) (-shr (term * x2) prec / (((k + 1) * (k + 2) : Nat) : Int)) (acc + term)

def sinPoint (r : Int) : Itv := let s := trigSum (shr (r * r) prec) 400 1 r 0; ⟨s - 900, s + 900⟩
def cosPoint (r : Int) : Itv := let s := trigSum (shr (r * r) prec) 400 0 one 0; ⟨s - 900, s + 900⟩

/-- Widen by the length of the argument's own enclosure (|sin'|, |cos'| ≤ 1). -/
def widen (i : Itv) (w : Int) : Itv := ⟨i.lo - w, i.hi + w⟩

/-- Enclosures of sin and cos of ±m·2^e: the angle is reduced by the nearest multiple of π/2. -/
def sinCos (neg : Bool) (m : Nat) (e : Int) : Itv × Itv :=
  -- the angle in units of 2^−1600 against π/2 in the same units
  let a : Int := (((m * Val.pow2 (e + 1600)) / Val.pow2 (-(e + 1600)) : Nat) : Int)
  let half : Int := ((piBits / 2 : Nat) : Int)
  let k := (2 * a + half) / (2 * half)
  let r := shr (a - k * half) 200
  -- the error of k copies of π/2 and of the two floors
  let w : Int := shr (k + 2) 200 + 2
  let s := widen (sinPoint r) w
  let c := widen (cosPoint r) w
  let (s', c') : Itv × Itv := match (k % 4).toNat with
    | 0 => (s, c)
    | 1 => (c, s.neg)
    | 2 => (s.neg, c.neg)
    | _ => (c.neg, s)
  (if neg then s'.neg else s', c')

end Itv

/-- Round the interior of an enclosure: both ends moved inward by a quarter unit, so that a value just above or below a
representable number rounds to the right side. `none` where the two ends differ. -/
def roundItv (f : Fmt) (i : Itv) : Option Conv :=
  let den := 2 ^ (prec + 2)
  let lo := 4 * i.lo + 1
  let hi := 4 * i.hi - 1
  let a := convRat f (decide (lo < 0)) lo.natAbs den
  let b := convRat f (decide (hi < 0)) hi.natAbs den
  if a = b then some a else none

/-- The rounding of an enclosure; the lower end decides where the enclosure is too wide to decide (log entry 20). -/
def roundItv! (f : Fmt) (i : Itv) : Conv :=
  match roundItv f i with
  | some c => c
  | none => convRat f (decide (i.lo < 0)) i.lo.natAbs (2 ^ prec)

/-- The attention exp2 of R146: 2^x rounded once to FP32. -/
def exp2F32 (x : Word) : Word :=
  match f32 x with
  | .nan => nan32
  | .inf true => 0
  | .inf false => posInf32
  | .num neg m e =>
    if m = 0 then 0x3F800000#32
    else
      let n : Nat := m * Val.pow2 e
      let d : Nat := Val.pow2 (-e)
      if !neg && decide (n ≥ 128 * d) then posInf32
      else if neg && decide (n ≥ 150 * d) then 0
      else
        let i : Int := if neg then -(((n + d - 1) / d : Nat) : Int) else ((n / d : Nat) : Int)
        let fr : Int := (if neg then -(n : Int) else (n : Int)) - i * (d : Int)
        if fr = 0 then BitVec.ofNat 32 (convRat .fp32 false (Val.pow2 i) (Val.pow2 (-i))).bits
        else
          let t := (Itv.ofRat fr d).mul Itv.ln2
          BitVec.ofNat 32 (roundItv! .fp32 ((Itv.exp t).shift i)).bits

/-- exp2 on values (R146). -/
def exp2V (v : Val) : Val := f32 (exp2F32 (toF32 v))

/-- cos φ and sin φ of an exact angle, each rounded once to FP32 (R230). -/
def cosSinF32 (v : Val) : Val × Val :=
  match v with
  | .num neg m e =>
    if m = 0 then (.num false 1 0, .num neg 0 0)
    else
      let (s, c) := Itv.sinCos neg m e
      (f32 (BitVec.ofNat 32 (roundItv! .fp32 c).bits), f32 (BitVec.ofNat 32 (roundItv! .fp32 s).bits))
  | _ => (.nan, .nan)

/-- ρ = base^(−2i/dims), rounded once to FP32 (R230). The base is a finite number above 1, or NaN or +∞ by its bits. -/
def ropeRho (base : Val) (i dims : Nat) : Val :=
  match base with
  | .num false m e =>
    if i = 0 then .num false 1 0
    else
      let l := Itv.log (Itv.ofDyadic false m e)
      let k : Int := -(2 * (i : Int))
      let t : Itv := ⟨min (l.lo * k / (dims : Int)) (l.hi * k / (dims : Int)),
                      max (l.lo * k / (dims : Int)) (l.hi * k / (dims : Int)) + 1⟩
      f32 (BitVec.ofNat 32 (roundItv! .fp32 (Itv.exp t)).bits)
  | .inf false => if i = 0 then .num false 1 0 else .zero
  | _ => .nan

end Sys2Proof.Machine
end

