-- ==== Sys2Proof/Config.lean ====
section
/-! DEFINITION. What one chip fixes and the spec does not give: OTP and fused constants, the vendor's key, random draws,
and the free values. Every constant is opaque: it has no body, so no proof can see a value of it. -/

namespace Sys2Proof.Config

/-- OTP: the chip serial (R485). -/
opaque serial : Dword
/-- OTP: the Ethernet MAC address (R411). -/
opaque mac : BitVec 48
/-- OTP: true on a CZ-5120-E (R3, R485, R499). -/
opaque isVariantE : Bool
/-- OTP: silicon revision of DEVICE (R499). -/
opaque revision : BitVec 4
/-- Fused: VDD_CORE of voltage point i, in mV (R421, R435). -/
opaque voltagePoint : Fin 16 → BitVec 12
/-- Fused: energy of one event of activity counter i, in pJ at the point-13 voltage (R414). -/
opaque powerWeight : Fin 64 → Nat
/-- The leakage table of the power and droop table image with a header: static power in mW of a domain at a voltage in mV and a 5 °C step (R414). -/
opaque leakage : List Byte → Nat → Nat → Int → Nat
/-- Fused: droop margin M_d of detector d, 0.1 mV units (R426). -/
opaque droopMargin : Fin 32 → Nat
/-- Fused: load-line coefficient λ_d of detector d, µV per ampere (R426). -/
opaque droopLambda : Fin 32 → Nat
/-- Fused: test threshold of detector d, 0.1 mV units, and the test current in mA (R426). -/
opaque droopTestThreshold : Fin 32 → Nat
opaque droopTestCurrent : Nat
/-- The n-th 256-bit draw of the true random generator (R458, R473, R482). -/
opaque randomDraw : Nat → BitVec 256
/-- The arithmetic clock: the number of core `c`'s cycle at a time of the 1 GHz counter (R418). -/
opaque arithCycle : Nat → Nat → Nat
/-- Corrections by the ECC of T1 and of its link within the first `r` bytes read and `w` bytes written (R190). -/
opaque t1Corrected : Nat → Nat → Nat
/-- Byte i of the vendor's 60-byte HSS public key in ROM (R467). -/
opaque vendorKey : Nat → Byte
/-- Free value: the randomizer of an LM-OTS signature, for the identity seed, the level, the tree and the leaf: RFC 8554 leaves it to the
signer (R472). -/
opaque otsRandomizer : List Byte → Nat → Nat → Nat → BitVec 256
/-- Word i of the SFU library image's payload as it lies in a bank: program words 0 to 4,095, then 16,384 table words. The spec does not
lay the payload out (R154, R467). -/
opaque sfuImage : List Byte → Nat → Word
/-- Byte i of the SHA-256 of the OTP configuration fields (R476). -/
opaque otpDigest : Nat → Byte
/-- The board: whether the VDD_CORE regulator answers VOUT_MODE with the ULINEAR16 mode (R433). -/
opaque regulatorLinear : Bool
/-- The board: the ULINEAR16 word of a voltage in mV under the exponent that the regulator has answered (R433). -/
opaque voutWord : Nat → BitVec 16
/-- High 64 bits of the SMBus unique device identifier (R511 gives the low 64). -/
opaque udidHigh : Dword
/-- The chip that a message for group `g` goes to from chip `c`, which is no member of it: `g`'s counterpart of `c`, or its chip at
position 0 (R30). A chip holds no member list of such a group. -/
opaque counterpart : Nat → Nat → BitVec 20
/-- The chip at position 0 of a group that the chip does not hold, at every level down (R123). -/
opaque groupHead : Nat → BitVec 20
/-- MEMBER_COUNTs of a group that the chip does not hold and of the levels inside it, outermost first: the one that every subgroup of a level
has, or 0 where they differ (R312). -/
opaque groupSizes : Nat → List Nat
/-- Free value: whether the faithful FP32 result of a native function is the neighbour away from zero, for the function
code, the source format code and the input bits (R148). -/
opaque faithfulUp : Nat → Nat → Nat → Bool
/-- Free value: the segment of a compatibility table whose bounds, given first, do not ascend, for the bits of the clamped input
(R159). -/
opaque compatSegment : List Word → Word → BitVec 4
/-- Free value: byte i of the row that KV_APPEND stores in KV group `g` above 0, for the source format and the source row (R253). -/
opaque kvRow : Nat → Nat → List Byte → Nat → Byte
/-- Free value: byte i of the 60 bytes that R269 does not state in the header of list `q`, for the scan record (R269). -/
opaque scanPad : List Byte → Nat → Nat → Byte
/-- Free value: element or record contents that the spec does not state, drawn by the model's free counter. -/
opaque freeValue : Nat → Dword

end Sys2Proof.Config
end

