-- ==== Sys2Proof/Machine/Digest.lean ====
section
/-! DEFINITION. Bytes and words (R6), and the digests the rules name: SHA-256 (R177, R260, R321), CRC-32C (R283, R322,
R387, R465) and the frame CRC-16 (R355). -/

namespace Sys2Proof.Machine

/-- The `n` low bytes of a number, lowest first (R6). -/
def bytesOf : Nat → Nat → List Byte
  | 0, _ => []
  | n + 1, v => BitVec.ofNat 8 v :: bytesOf n (v / 256)

/-- The number whose little-endian bytes these are (R6). -/
def natOf : List Byte → Nat
  | [] => 0
  | b :: bs => b.toNat + 256 * natOf bs

/-- `n` bytes from offset `o`, zero where the list is shorter. -/
def slice (bs : List Byte) (o n : Nat) : List Byte :=
  let r := (bs.drop o).take n
  r ++ List.replicate (n - r.length) 0#8

/-- The little-endian field of `n` bytes at offset `o`. -/
def field (bs : List Byte) (o n : Nat) : Nat := natOf (slice bs o n)

/-- Bits [hi:lo] of a number. -/
def bitsOf (v hi lo : Nat) : Nat := v / 2 ^ lo % 2 ^ (hi + 1 - lo)

/-- Replace bytes from offset `o` of a list of fixed length. -/
def patch (bs : List Byte) (o : Nat) (v : List Byte) : List Byte :=
  bs.take o ++ v ++ bs.drop (o + v.length)

/-- A 64-byte unit count that holds `n` bytes, in bytes. -/
def roundUp (n unit : Nat) : Nat := (n + unit - 1) / unit * unit

def ceilDiv (a b : Nat) : Nat := (a + b - 1) / b

namespace Sha

def k : List Word :=
  [0x428A2F98#32, 0x71374491#32, 0xB5C0FBCF#32, 0xE9B5DBA5#32, 0x3956C25B#32, 0x59F111F1#32, 0x923F82A4#32, 0xAB1C5ED5#32,
   0xD807AA98#32, 0x12835B01#32, 0x243185BE#32, 0x550C7DC3#32, 0x72BE5D74#32, 0x80DEB1FE#32, 0x9BDC06A7#32, 0xC19BF174#32,
   0xE49B69C1#32, 0xEFBE4786#32, 0x0FC19DC6#32, 0x240CA1CC#32, 0x2DE92C6F#32, 0x4A7484AA#32, 0x5CB0A9DC#32, 0x76F988DA#32,
   0x983E5152#32, 0xA831C66D#32, 0xB00327C8#32, 0xBF597FC7#32, 0xC6E00BF3#32, 0xD5A79147#32, 0x06CA6351#32, 0x14292967#32,
   0x27B70A85#32, 0x2E1B2138#32, 0x4D2C6DFC#32, 0x53380D13#32, 0x650A7354#32, 0x766A0ABB#32, 0x81C2C92E#32, 0x92722C85#32,
   0xA2BFE8A1#32, 0xA81A664B#32, 0xC24B8B70#32, 0xC76C51A3#32, 0xD192E819#32, 0xD6990624#32, 0xF40E3585#32, 0x106AA070#32,
   0x19A4C116#32, 0x1E376C08#32, 0x2748774C#32, 0x34B0BCB5#32, 0x391C0CB3#32, 0x4ED8AA4A#32, 0x5B9CCA4F#32, 0x682E6FF3#32,
   0x748F82EE#32, 0x78A5636F#32, 0x84C87814#32, 0x8CC70208#32, 0x90BEFFFA#32, 0xA4506CEB#32, 0xBEF9A3F7#32, 0xC67178F2#32]

def init : List Word :=
  [0x6A09E667#32, 0xBB67AE85#32, 0x3C6EF372#32, 0xA54FF53A#32, 0x510E527F#32, 0x9B05688C#32, 0x1F83D9AB#32, 0x5BE0CD19#32]

def bsig0 (x : Word) : Word := x.rotateRight 2 ^^^ x.rotateRight 13 ^^^ x.rotateRight 22
def bsig1 (x : Word) : Word := x.rotateRight 6 ^^^ x.rotateRight 11 ^^^ x.rotateRight 25
def ssig0 (x : Word) : Word := x.rotateRight 7 ^^^ x.rotateRight 18 ^^^ (x >>> 3)
def ssig1 (x : Word) : Word := x.rotateRight 17 ^^^ x.rotateRight 19 ^^^ (x >>> 10)

/-- Big-endian 32-bit words of a block. -/
def words : List Byte → List Word
  | a :: b :: c :: d :: r => (a ++ b ++ c ++ d) :: words r
  | _ => []

/-- The message schedule, newest word first. -/
def schedule : Nat → List Word → List Word
  | 0, w => w
  | n + 1, w =>
    schedule n ((ssig1 (w.getD 1 0) + w.getD 6 0 + ssig0 (w.getD 14 0) + w.getD 15 0) :: w)

/-- One round on the working variables a..h. -/
def round : List Word → Word → Word → List Word
  | [a, b, c, d, e, f, g, h], kt, wt =>
    let t1 := h + bsig1 e + ((e &&& f) ^^^ (~~~e &&& g)) + kt + wt
    let t2 := bsig0 a + ((a &&& b) ^^^ (a &&& c) ^^^ (b &&& c))
    [t1 + t2, a, b, c, d + t1, e, f, g]
  | v, _, _ => v

def compress (h : List Word) (block : List Byte) : List Word :=
  let w := (schedule 48 (words block).reverse).reverse
  let v := (k.zip w).foldl (fun v p => round v p.1 p.2) h
  (h.zip v).map fun p => p.1 + p.2

def blocks : Nat → List Byte → List Word → List Word
  | 0, _, h => h
  | n + 1, bs, h => blocks n (bs.drop 64) (compress h (bs.take 64))

def pad (n : Nat) : List Byte :=
  let z := (119 - n % 64) % 64
  0x80#8 :: (List.replicate z 0#8 ++ (bytesOf 8 (8 * n)).reverse)

end Sha

/-- SHA-256: 32 bytes. -/
def sha256 (bs : List Byte) : List Byte :=
  let m := bs ++ Sha.pad bs.length
  ((Sha.blocks (m.length / 64) m Sha.init).map fun w => (bytesOf 4 w.toNat).reverse).flatten

/-- One bit of the reflected CRC-32C (polynomial 0x1EDC6F41). -/
def crc32cBit : Nat → Word → Word
  | 0, c => c
  | n + 1, c => crc32cBit n (if c.getLsbD 0 then (c >>> 1) ^^^ 0x82F63B78#32 else c >>> 1)

/-- CRC-32C of a byte string. -/
def crc32c (bs : List Byte) : Word :=
  ~~~(bs.foldl (fun c b => crc32cBit 8 (c ^^^ b.zeroExtend 32)) 0xFFFFFFFF#32)

/-- One byte of the packet error code of SMBus and PMBus: CRC-8, polynomial 0x07. -/
def pecByte (c b : Nat) : Nat :=
  (List.range 8).foldl (fun x _ => if 128 ≤ x then Nat.xor (2 * x % 256) 7 else 2 * x) (Nat.xor c b)

def pec (bs : List Byte) : Nat := bs.foldl (fun c b => pecByte c b.toNat) 0

def crc16Bit : Nat → BitVec 16 → BitVec 16
  | 0, c => c
  | n + 1, c => crc16Bit n (if c.msb then (c <<< 1) ^^^ 0x1021#16 else c <<< 1)

/-- CRC-16 with polynomial 0x1021 and initial value 0xFFFF (R355), bytes most significant bit first. -/
def crc16 (bs : List Byte) : BitVec 16 :=
  bs.foldl (fun c b => crc16Bit 8 (c ^^^ ((b.zeroExtend 16 : BitVec 16) <<< 8))) 0xFFFF#16

/-- The 64 bytes of a flit, byte 0 lowest. -/
def flitBytes (f : Flit) : List Byte := bytesOf 64 f.toNat

/-- A byte string cut into flits, the last padded with zeros (R357). -/
def toFlits : Nat → List Byte → List Flit
  | 0, _ => []
  | n + 1, bs => BitVec.ofNat 512 (natOf (bs.take 64)) :: toFlits n (bs.drop 64)

def flitsOf (bs : List Byte) : List Flit := toFlits (ceilDiv bs.length 64) bs

end Sys2Proof.Machine
end

