-- ==== Sys2Proof/Machine/Tab.lean ====
section
/-! DEFINITION. Sparse tables: a finite map from a number to a value, as a list in ONE canonical form (keys strictly
rising, no entry equal to what an unlisted key reads as). Memories, counter arrays, register arrays and the arrays of
cores, ports and queues are all tables, each with its own default function. -/

namespace Sys2Proof.Machine

/-- A table of entries (key, value), keys rising. What an unlisted key reads as is the default of the table's reader. -/
abbrev Tab (α : Type) := List (Nat × α)

/-- Read key `k`; `d k` where the table lists nothing. -/
def look {α : Type} (d : Nat → α) : Tab α → Nat → α
  | [], k => d k
  | (j, v) :: t, k => if j = k then v else look d t k

/-- Put `v` at key `k`, in key order. -/
def place {α : Type} : Tab α → Nat → α → Tab α
  | [], k, v => [(k, v)]
  | (j, w) :: t, k, v =>
    if j < k then (j, w) :: place t k v
    else if j = k then (k, v) :: t
    else (k, v) :: (j, w) :: t

/-- Write `v` at key `k`, keeping the canonical form: the default value removes the entry. -/
def store {α : Type} [DecidableEq α] (d : Nat → α) (t : Tab α) (k : Nat) (v : α) : Tab α :=
  if v = d k then t.filter fun e => decide (e.1 ≠ k) else place t k v

/-- Read `n` consecutive keys from `k`. -/
def lookList {α : Type} (d : Nat → α) (t : Tab α) (k : Nat) : Nat → List α
  | 0 => []
  | n + 1 => look d t k :: lookList d t (k + 1) n

/-- Write consecutive keys from `k`. -/
def storeList {α : Type} [DecidableEq α] (d : Nat → α) (t : Tab α) (k : Nat) : List α → Tab α
  | [] => t
  | v :: vs => storeList d (store d t k v) (k + 1) vs

/-- Change the value at `k` by `f`. -/
def modify {α : Type} [DecidableEq α] (d : Nat → α) (t : Tab α) (k : Nat) (f : α → α) : Tab α :=
  store d t k (f (look d t k))

/-- Forget every entry whose key fails `keep`. -/
def restrict {α : Type} (keep : Nat → Bool) (t : Tab α) : Tab α := t.filter fun e => keep e.1

/-- Keys strictly rise from above `lo`. -/
def risingFrom {α : Type} : Nat → Tab α → Bool
  | _, [] => true
  | lo, (k, _) :: t => decide (lo ≤ k) && risingFrom (k + 1) t

/-- The canonical form: keys strictly rising and no entry equal to the default. -/
def Canonical {α : Type} [DecidableEq α] (d : Nat → α) (t : Tab α) : Bool :=
  risingFrom 0 t && t.all fun e => decide (e.2 ≠ d e.1)

end Sys2Proof.Machine
end

