-- ==== Sys2Proof/WellFormed.lean ====
section
/-! DEFINITION. Well-formed commands: the data that a command brings has the length that its header gives, within the bounds of the
wire (R283, R357), and what the error correction reports is possible (R354). Everything else about an operand is held by its type. -/

namespace Sys2Proof

/-- The bytes of a message are as many as LEN says, and at most `most` (R357). -/
def Msg.holds (m : Msg) (data : List Byte) (most : Nat) : Bool := decide (data.length = m.len ∧ m.len ≤ most)

/-- Can the decoder report this? Each of the two codewords is corrected in at most 15 symbols, or is not (R354). -/
def fecOk (r : FecReport) : Bool := decide (r.bad ≤ 2 ∧ r.lanes.length ≤ 16 ∧ r.lanes.sum ≤ 15 * (2 - r.bad))

/-- No command that breaks this exists: a link or a lace delivers a header with the bytes that it announces, and the error correction of a
frame reports what its code can do. -/
def Instr.wf : Instr → Bool
  | .msgWrite m data => m.holds data 4096
  | .msgRead m => decide (m.len ≤ 4096)
  | .msgAwl m data => m.holds data 256
  | .msgFanout m _ data => m.holds data 256
  | .msgReadData m data => m.holds data 4096
  | .messageForward _ _ flits => !flits.isEmpty
  | .frameReceive _ _ fec => fecOk fec
  | .circBlock _ _ h payload _ => decide (h.payload.toNat = payload.length)
  | _ => true

end Sys2Proof
end

