-- ==== Sys2Proof/Machine/State.lean ====
section
/-! DEFINITION. The state of one chip, as plain data, and the state after reset. Registers that are plain stored words
are held in tables keyed by their offset in the register window (R486, R500); everything the window does not hold has a
field of its own. -/

namespace Sys2Proof.Machine

/-- The reasons a command stops the block. -/
inductive Fault where
  /-- Raised by a meaning whose operand breaks `Instr.wf` (a data field whose length does not fit its header, a report
  that no error correction gives): no such command exists. Safe: the model stops where nothing can happen. -/
  | illFormed
  deriving DecidableEq, Repr

/-- The reasons a command has no meaning here. -/
inductive Refusal where
  /-- Raised only by an arm of `exec` whose instruction has no meaning yet. Safe. -/
  | notModelled (mnemonic : String)
  /-- Raised by TAP_INSTRUCTION for a private debug instruction that PERMS[2] admits: the spec names no such instruction and
  gives none an effect (R483, R512). Safe. -/
  | privateDebugInstruction
  deriving DecidableEq, Repr

/-! ### What the chip sends -/

/-- A message on VC 0 or 1 (R357), or a notice on the awl path. -/
structure Sent.Link where
  port : Nat
  type : Nat
  src  : Nat
  dst  : Nat
  hops : Nat
  tag  : Nat
  addr : Nat
  len  : Nat
  aux  : Nat
  data : List Byte
  deriving DecidableEq, Repr

/-- The Ethernet header of an IP packet that the host port sends: NEXTHOP_MAC, and the 802.1Q tag of the register VLAN, PCP and VID,
where its EN is set (R379, R411). -/
structure Hop where
  mac  : Nat
  vlan : Option Nat
  deriving DecidableEq, Repr

/-- Everything that leaves the chip, in order: the model's own observation list. -/
inductive Sent where
  /-- A message handed to a link port's transmit side. -/
  | link (m : Sent.Link)
  /-- A frame of a link port: data, or a control frame of records (R355, R359). -/
  | frame (port : Nat) (f : Frame)
  /-- The identity word that a port sends as it trains (R361). -/
  | identity (port : Nat) (w : Identity)
  /-- Frames of the replay buffer sent again from a sequence number (R358). -/
  | replay (port : Nat) (seq : Nat) (count : Nat)
  /-- A census flit on a lace, in direction 0 (R324). -/
  | census (lace : Nat) (f : CensusFlit)
  /-- A barrier arrival for a round of a group, from a position of subgroup `sub`, toward the chip that tallies it (R123, R124). -/
  | arrival (chip group sub round position : Nat) (epoch : Word)
  /-- The release of a round to a chip (R123). -/
  | release (chip group round : Nat)
  /-- A barrier error on a group, with its code and the offending member's position, to a chip (R127). -/
  | barrierError (chip group level code position : Nat)
  /-- A completion of a fan-out command (kind 2), a queue control notice (3), a discard notice (4), a fatal notice (5), the notice of a
  class 1 end (9), or the length of a MATCH (10 up, 11 down), to a chip (R31, R32, R263, R405, R443, R445). -/
  | fan (chip kind tag : Nat) (data : List Byte)
  /-- A message to a memory appliance (R215, R216). -/
  | reserve (port type tag addr len : Nat) (data : List Byte)
  /-- A completion record written to the host by RDMA WRITE (R406). -/
  | record (hop : Hop) (qp : Nat) (psn : Nat) (addr : Nat) (rkey : Word) (bytes : List Byte) (imm : Option Nat)
  /-- Any other RoCEv2 packet: ACK, NAK with its reason, READ response, CNP (R380, R382). -/
  | roce (hop : Hop) (qp psn kind : Nat) (data : List Byte)
  /-- An RWP response: one UDP datagram to RWP_PORT (R384). -/
  | rwp (hop : Hop) (dst : BitVec 128) (udp : Nat) (bytes : List Byte)
  /-- A net-boot frame: its destination MAC address, EtherType and payload (R387). -/
  | netBoot (mac etherType : Nat) (payload : List Byte)
  /-- An SMBus response, with its packet error code; none is a NACK (R511). -/
  | smbus (reply : Option (List Byte))
  /-- An interrupt to the control cluster from a block whose error enable bit is set (R108, R135, R220, R413). -/
  | interrupt (page : Nat)
  /-- A PMBus transaction to the voltage regulator at an address: a voltage in mV that VOUT_COMMAND sets, with the packet error code that the
  chip sends, or a read, whose packet error code the regulator sends (R423, R433, R510). -/
  | pmbus (address command value : Nat) (pec : Option Byte)
  /-- A TDO register selected by the TAP (R512). -/
  | tap (register : Nat)
  /-- A trace record of a core (R91), at issue or at completion. -/
  | trace (core engine : Nat) (pc : Nat) (complete : Bool)
  deriving DecidableEq, Repr

/-! ### Outstanding requests -/

/-- Who owns a request on the links, and so what its answer does (R11, R357, R522). -/
inductive Owner where
  /-- A piece of a block of a FETCH or PUT. -/
  | piece (core engine iid : Nat)
  /-- An AWL_PUT of a core's put queue, with the command that ran and the instruction's T1 offset. -/
  | awl (core flight pc : Nat)
  /-- A SIG_REMOTE of a core's put queue. -/
  | signal (core iid : Nat)
  /-- A SIGNAL or MOVE command in flight. -/
  | command (flight : Nat)
  /-- A remote write of a control core (R120). -/
  | control (core : Nat)
  deriving DecidableEq, Repr

/-- An outstanding request: its tag, owner, destination and, for a read, where its data lands (a T0 offset, or a position of a MOVE). -/
structure Request where
  tag   : Nat
  owner : Owner
  chip  : Nat
  addr  : Nat
  len   : Nat
  land  : Option Nat
  deriving DecidableEq, Repr

/-! ### The core -/

/-- A block in flight: the tags it waits for, the destination ranges it writes (R85, R208), and read data that wait to land until no granule
is torn (R112). -/
structure Transfer where
  tags : List Nat
  dst  : List (Nat × Nat)
  land : List (Nat × List Byte)
  deriving DecidableEq, Repr

/-- An issued instruction that has not completed (R83, R84). -/
structure InFlight where
  iid     : Nat
  word    : BitVec 128
  pc      : Nat
  /-- Blocks of the list still to issue begin here (R208). -/
  block   : Nat
  /-- Position of the next piece of block `block` (R206, R209). -/
  pos     : Nat
  /-- The frame or slice a halted instruction waits for: object index and item (R209). -/
  halted  : Option (Nat × Nat)
  open_   : List Transfer
  owed    : List Nat
  /-- Cut short by an error of its core: it raises no signal (R102). -/
  cut     : Bool
  deriving DecidableEq, Repr

/-- One weight bank (R75, R224): column n ↦ the (element code, scale byte) of its rows, KVALID of them; and for half 1 and half 2
the KVALID, NVALID and format of its latest load (a half not loaded is not listed). -/
structure Bank where
  valid  : Bool
  cols   : Tab (List (Nat × Nat))
  kvalid : Tab Nat
  nvalid : Tab Nat
  fmt    : Tab (Option Nat)
  deriving DecidableEq, Repr

def Bank.empty : Bank := ⟨false, [], [], [], []⟩

/-- The attention state of one tile row (R232): m and ℓ, FP32. -/
structure AttState where
  m : Word
  l : Word
  deriving DecidableEq, Repr

/-- The identity of R62: m = −∞, ℓ = +0. -/
def AttState.identity : AttState := ⟨0xFF800000#32, 0#32⟩

/-- A STATE set that an ATTN_KV has written (R232, R236, R239): its record, its tiles not reset since, and the position of the
last visible slot fed to it. -/
structure AttSet where
  record  : List Byte
  tiles   : List Nat
  lastPos : Option Nat
  deriving DecidableEq, Repr

def AttSet.none_ : AttSet := ⟨[], [], none⟩

/-- One row state of the row statistics unit (R50, R140). `flags`: bit 0 NaN, 1 +∞, 2 −∞ seen. -/
structure RowState where
  count : Nat
  sum1  : Int
  sum2  : Nat
  flags : Nat
  deriving DecidableEq, Repr

def RowState.empty : RowState := ⟨0, 0, 0, 0⟩

/-- One entry of a scan unit list (R268): its score bits and its identifier. -/
structure Hit where
  score : Word
  id    : Dword
  deriving DecidableEq, Repr

/-- An error that a core has detected and not yet reported (R102): the code, the engine and the T1 offset of the failing instruction, the
upper bits of the code's own ERR_INFO, and whether a destination on another chip has recorded the code already. -/
structure CoreFault where
  code    : Nat
  engine  : Nat
  pc      : Nat
  more    : Nat
  refused : Bool
  deriving DecidableEq, Repr

/-- Dispatcher, queues and engines of a core. -/
structure Engines where
  /-- The command the core runs (R86, R401). -/
  flight   : Option Nat
  /-- T1 offset of the stream, its length in instructions, the next to dispatch (R80). -/
  base     : Nat
  count    : Nat
  next     : Nat
  dispStop : Bool
  queues   : Tab (List (BitVec 128 × Nat))
  fly      : Tab (List InFlight)
  nextIid  : Nat
  /-- Bit e: engine e has executed HALT (R93). -/
  halted   : Nat
  /-- 0 IDLE, 1 FILL, 2 COMPUTE, 3 DRAIN (R88). -/
  phase    : Nat
  lastPhase : Nat
  /-- LIMIT of the fetch and the put queue (R208). -/
  limitFetch : Nat
  limitPut : Nat
  broken   : Bool
  /-- Bit e: the head of queue e has stopped the core at its BREAK, and issues without a second stop. -/
  pastBreak : Nat
  gated    : Bool
  resetting : Bool
  /-- An error detected and not yet reported, while issued transfers finish (R102). -/
  failed   : Option CoreFault
  /-- AWL_PUTs not acknowledged, by tag (R214). -/
  awls     : List Nat
  /-- Activity counted on this core (R414): plane rows streamed, weight bytes loaded, vector lane operations, SFU lane operations, working-store
  bytes moved, tally-port accesses, then ring transfers and engine descriptors. -/
  acts     : Tab Nat
  deriving DecidableEq, Repr

/-- The plane, its banks, the tally store and the attention states. -/
structure Plane where
  tally   : Tab Word
  valid   : BitVec 8
  bank0   : Bank
  bank1   : Bank
  active  : Bool
  att     : Tab AttState
  sets    : Tab AttSet
  /-- The current attention record (R226). -/
  record  : Option (List Byte)
  deriving DecidableEq, Repr

/-- The scan unit of a core (R268 to R270): the lists of its query rows, best first. -/
structure ScanUnit where
  lists : Tab (List Hit)
  loaded : Bool
  deriving DecidableEq, Repr

/-- One SFU bank (R154). -/
structure SfuBank where
  prog : Tab Word
  tab  : Tab Word
  id   : Dword
  deriving DecidableEq, Repr

/-- The special function unit (R154 to R163). -/
structure Sfu where
  bank0   : SfuBank
  bank1   : SfuBank
  active  : Bool
  compat  : Bool
  swapPending   : Bool
  compatPending : Option Bool
  deriving DecidableEq, Repr

structure Core where
  eng   : Engines
  plane : Plane
  /-- The VCFG word in force (R98). -/
  vcfg  : Option (BitVec 72)
  rows  : Tab RowState
  scan  : ScanUnit
  sfu   : Sfu
  /-- Core counters: event 0 to 95 and credit 96 to 127 (R113). -/
  ctr   : Tab Nat
  deriving DecidableEq, Repr

def Engines.reset : Engines :=
  { flight := none, base := 0, count := 0, next := 0, dispStop := false, queues := [], fly := [], nextIid := 0,
    halted := 0, phase := 0, lastPhase := 3, limitFetch := 64, limitPut := 64, broken := false, pastBreak := 0,
    gated := false, resetting := false, failed := none, awls := [], acts := [] }

def Plane.reset : Plane :=
  { tally := [], valid := 0#8, bank0 := Bank.empty, bank1 := Bank.empty, active := false, att := [], sets := [], record := none }

def Sfu.reset : Sfu :=
  { bank0 := ⟨[], [], 0#64⟩, bank1 := ⟨[], [], 0#64⟩, active := false, compat := false, swapPending := false,
    compatPending := none }

def Core.reset : Core :=
  { eng := Engines.reset, plane := Plane.reset, vcfg := none, rows := [], scan := ⟨[], false⟩, sfu := Sfu.reset, ctr := [] }

/-! ### Commands -/

/-- A fan-out branch of a group-scoped command: the message's tag and the member position it stands for (R30, R32). -/
structure Branch where
  tag      : Nat
  position : Nat
  chip     : Nat
  deriving DecidableEq, Repr

/-- Where a command came from: the host's ring (its first slot and its slot count), or a fan-out message (the sender's chip,
its tag and its level). -/
inductive Origin where
  | ring (slot slots : Nat)
  | fan (chip tag level : Nat)
  deriving DecidableEq, Repr

/-- Progress of a command in flight. `started`: COMMAND_START took it, its operator's own row has not run. `ended`: its part on
this chip is over. -/
inductive Stage where
  | started | running | ended
  deriving DecidableEq, Repr

/-- A command in flight (R401 to R407). -/
structure Flight where
  id       : Nat
  queue    : Nat
  origin   : Origin
  fmt1     : Bool
  /-- The format-2 record, 64 bytes for each of its slots (R392). -/
  body     : List Byte
  stage    : Stage
  cores    : List Nat
  laces    : List Nat
  error    : Nat
  advisory : Nat
  unit     : Word
  detail   : Word
  result   : Nat
  started  : Nat
  branches : List Branch
  /-- Barrier round, or the operator's own progress count. -/
  round    : Nat
  /-- The frame or slice a MOVE waits for: object index and item (R209). -/
  halted   : Option (Nat × Nat)
  /-- This chip's position in the group, and that of the member that reported ERROR (R32), as keys in position order. -/
  pos      : Nat
  errPos   : Nat
  /-- Bytes that a MOVE has read and not yet written, by position: what lies in a granule of its destination that is not whole (R112). -/
  parts    : List (Nat × List Byte)
  /-- What an operator of several steps has worked out so far: numbers and ranked lists. -/
  scratch  : List Nat
  lists    : List (List Hit)
  /-- The page walk: runs written for each core of the command, by rank (R250). -/
  walked   : List Nat
  /-- Discarded by a discard in progress: its record is written when the discard ends (R443). -/
  dropped  : Bool
  /-- Its part on this chip has been ended before it was done (R441). -/
  cut      : Bool
  deriving DecidableEq, Repr

/-- What waits in a queue, in arrival order (R403): the host's slots up to a TAIL, or a fanned-out command. -/
inductive Arrival where
  | host (tail : Nat)
  | fan (chip tag level : Nat) (body : List Byte)
  deriving DecidableEq, Repr

/-- One command queue, beside its registers (R389 to R408). -/
structure Queue where
  arrivals : List Arrival
  stopped  : Bool
  blocked  : Bool
  /-- The groups whose commands stopped the queue (R405). -/
  stopGroups : List Nat
  /-- Completion records whose RDMA write failed (R408): address, bytes, immediate. -/
  kept     : List (Nat × List Byte × Option Nat)
  deriving DecidableEq, Repr

def Queue.reset : Queue := ⟨[], false, false, [], []⟩

/-- One queue pair (R380, R381). STATE 0 RESET, 1 RTS, 2 ERROR. -/
structure Qp where
  state   : Nat
  remote  : Nat
  sqPsn   : Nat
  rqPsn   : Nat
  ip      : Nat
  udp     : Nat
  mtu     : Nat
  retry   : Nat
  timeout : Nat
  tries   : Nat
  /-- Halvings of the send rate not yet recovered (R380). -/
  halvings : Nat
  /-- Record writes not acknowledged: PSN, queue, address, bytes, immediate. -/
  unacked : List (Nat × Nat × Nat × List Byte × Option Nat)
  deriving DecidableEq, Repr

def Qp.reset : Qp := ⟨0, 0, 0, 0, 0, 0, 0, 0, 0, 0, 0, []⟩

/-! ### Groups and barriers -/

/-- A group entry's barrier state (R124, R127). -/
structure Barrier where
  localRound : Nat
  done       : Nat
  tally1     : Nat
  tally2     : Nat
  broken     : Bool
  deriving DecidableEq, Repr

def Barrier.reset : Barrier := ⟨0, 0, 0, 0, false⟩

/-! ### Staged commit -/

/-- The commit sequence of R493. -/
structure Commit where
  busy     : Bool
  quiet    : Bool
  reason   : Nat
  block    : Nat
  detail   : Nat
  /-- Blocks named in an accepted commit not yet applied. -/
  pending  : List Nat
  refused  : List Nat
  reasons  : Tab Nat
  applied  : Tab Nat
  deriving DecidableEq, Repr

def Commit.reset : Commit := ⟨false, false, 0, 0, 0, [], [], [], []⟩

/-! ### Device discard and fatal errors -/

/-- A discard in progress (R443): the code it reports, the group-scoped groups to mark broken, the groups whose notice has come, and the
laces that it has aborted for the collective and for the circulation engine. -/
structure Discard where
  busy   : Bool
  code   : Nat
  own    : Option Nat
  groups : List Nat
  noticed : List Nat
  collLaces : List Nat
  circLaces : List Nat
  deriving DecidableEq, Repr

def Discard.reset : Discard := ⟨false, 0, none, [], [], [], []⟩

/-! ### The register window -/

/-- The register window (chapter 18). `regs`: every register that is a plain stored word, by window offset. `shadow` and
`active`: the staged words (R487), `written` the staged words since the last apply or discard (R490). `counts`: the counting
registers, by the offset of their (low) word. `latch`: the LO/HI latches, by requester class and offset (R488). -/
structure Window where
  regs    : Tab Word
  shadow  : Tab Word
  active  : Tab Word
  written : Tab Bool
  counts  : Tab Nat
  latch   : Tab Word
  deriving DecidableEq, Repr

def Window.reset : Window := ⟨[], [], [], [], [], []⟩

/-! ### Synchronisation -/

/-- The synchronisation block (chapter 04): chip counters, the source and amount of the last increment of every counter, the
barrier state of every group entry, and the remote writes of the control cores not acknowledged, with the fences in progress. -/
structure Sync where
  ctr     : Tab Nat
  lastSrc : Tab Nat
  lastAmt : Tab Nat
  bars    : Tab Barrier
  posted  : Tab (List Nat)
  fences  : Tab (List Nat)
  deriving DecidableEq, Repr

def Sync.reset : Sync := ⟨[], [], [], [], [], []⟩

/-! ### Memory and tiers -/

/-- T0 and T1. `tables`: T1 bases at which a free placement table underlies the listed bytes (R459). `poison`: poisoned 32-byte
words (R190). `held`: accesses that wait for a wipe to end, in arrival order (R191). -/
structure Memory where
  t0     : Tab Byte
  t1     : Tab Byte
  tables : List Nat
  poison : Tab Bool
  wiping : Bool
  held   : List Instr
  deriving DecidableEq, Repr

/-- Residency of a windowed or T2-backed object (R200 to R203): slot ↦ item + 1, dirty and lost granules, clock hand. -/
structure ObjCache where
  slots : Tab Nat
  dirty : Tab Bool
  lost  : Tab Bool
  hand  : Nat
  deriving DecidableEq, Repr

def ObjCache.none_ : ObjCache := ⟨[], [], [], 0⟩

/-- A request of 64 KiB to a memory appliance (R215 to R217): a granule of an object, its appliance address and its T1 side. `sent`:
on the port under its tag. `tries`: failures so far. `dead`: abandoned, its answer changes nothing. `data`: what a write carries, as T1 held it
when the write-back read it. -/
structure T2Req where
  port    : Nat
  tag     : Nat
  write   : Bool
  obj     : Nat
  granule : Nat
  addr    : Nat
  t1      : Nat
  tries   : Nat
  flush   : Bool
  sent    : Bool
  dead    : Bool
  data    : List Byte
  deriving DecidableEq, Repr

/-- A page-in (R209, R210): waiting to be started, evicting its victim, or reading. -/
inductive PageStage where
  | waiting | evicting | reading
  deriving DecidableEq, Repr

structure PageIn where
  obj      : Nat
  item     : Nat
  slot     : Nat
  stage    : PageStage
  /-- The item evicted for it. -/
  victim   : Option Nat
  /-- Part of a schedule of R200 or of a PREFETCH operation, not a demand. -/
  prefetch : Bool
  deriving DecidableEq, Repr

/-- The placement operation in progress (R197): `want` the items a PREFETCH still brings in; `waits`: it came in a T1 wipe and has not
begun. -/
structure PtOp where
  busy  : Bool
  op    : Nat
  index : Nat
  want  : List Nat
  err   : Bool
  waits : Bool
  deriving DecidableEq, Repr

/-- A reserve port's appliance (R216, R217). `greeted`: HELLO has been sent since the port last trained. -/
structure ResPort where
  up       : Bool
  greeted  : Bool
  maxTags  : Nat
  nextTag  : Nat
  deriving DecidableEq, Repr

def ResPort.reset : ResPort := ⟨false, false, 0, 0⟩

structure Tier where
  caches  : Tab ObjCache
  pages   : List PageIn
  t2      : List T2Req
  ptOp    : PtOp
  ports   : Tab ResPort
  deriving DecidableEq, Repr

def Tier.reset : Tier := ⟨[], [], [], ⟨false, 0, 0, [], false, false⟩, []⟩

/-! ### Command processing, the host port and requests -/

structure Commands where
  flights : List Flight
  nextId  : Nat
  queues  : Tab Queue
  /-- The queue served last (R401). -/
  last    : Nat
  /-- Outstanding requests on the links and the next TAG (R357). -/
  requests : List Request
  nextTag : Nat
  deriving DecidableEq, Repr

structure HostPort where
  qps     : Tab Qp
  /-- SEQ and response of the last request of each RWP_ALLOW entry (R386). -/
  rwpLast : Tab (Option (Nat × List Byte))
  pfc     : Bool
  mode    : Nat
  /-- Outcome of the last QP operation (R411). -/
  qpStat  : Word
  deriving DecidableEq, Repr

/-! ### Link ports -/

/-- A message a port holds: unsent flits, or all sent and not acknowledged by the peer (`last` is then the SEQ of its last
frame). `whole`: for how many messages of its length the channel must hold credits before it begins: 2 where it enters a ring, 1 where it
goes on along one, 0 elsewhere (R360). `type`, `tag`: of a message of VCs 0, 1 or 3; of a chunk that a collective forwards, its lace plus 1
and its flight. -/
structure LinkMsg where
  vc    : Nat
  type  : Nat
  tag   : Nat
  src   : Nat
  whole : Nat
  total : Nat
  flits : List Flit
  last  : Option Nat
  deriving DecidableEq, Repr

/-- A link port, beside its registers (R355 to R363). `granted` and `used`: running flit counts per VC toward the peer (R360).
`tries`: how often each frame of the replay buffer has been replayed, by SEQ. `freed`: flits per VC taken out of the receive buffers. `notes`:
the engines' records for the control frames, by kind and lane (R359). `hold`: the port has left service by a loss, a retraining or a cleared EN, and
stays HELD until RESUME or a plan check after a commit (R363, R373). -/
structure Port where
  rxSeq   : Nat
  txSeq   : Nat
  nakOpen : Bool
  replay  : List Frame
  tries   : Tab Nat
  granted : Tab Nat
  used    : Tab Nat
  freed   : Tab Nat
  msgs    : List LinkMsg
  notes   : Tab (List Byte)
  changed : Bool
  since   : Nat
  peerState : Option Nat
  hold    : Bool
  deriving DecidableEq, Repr

def Port.reset : Port :=
  { rxSeq := 0, txSeq := 0, nakOpen := false, replay := [], tries := [], granted := [], used := [], freed := [],
    msgs := [], notes := [], changed := false, since := 0, peerState := none, hold := false }

/-! ### The collective engine (chapter 11) -/

/-- What a collective does (R306 to R308). `inl`: the source of a collective that an operator runs inside itself; its result then
goes to `outs`. SRC and DST are an offset in T0 or T1 (`srcT1`, `dstT1`). -/
structure CollSpec where
  op      : Nat
  type    : Nat
  red     : Nat
  air     : Bool
  mode    : Nat
  headroom : Nat
  count   : Nat
  chunk   : Nat
  k       : Nat
  srcT1   : Bool
  src     : Nat
  dstT1   : Bool
  dst     : Nat
  outFmt  : Nat
  root    : Nat
  bcast   : Bool
  flags   : Nat
  doneCtr : Nat
  consumers : Nat
  doneCc  : Nat
  group   : Nat
  inl     : Option (List Byte)
  deriving DecidableEq, Repr

/-- One level of a collective (R311, R312): the laces that carry its chunks (more than one under SPREAD). -/
structure CollLevel where
  laces : List Nat
  size  : Nat
  deriving DecidableEq, Repr

/-- A chunk ready to leave (R318): lap (0 reduce lap of the pre-pass, 1 reduce, 2 gather, 3 gather lap of the pre-pass), level, chunk of
the whole tensor, payload, and the event that made it ready. -/
structure CollSend where
  batch   : Nat
  lap     : Nat
  level   : Nat
  chunk   : Nat
  payload : List Byte
  deriving DecidableEq, Repr

/-- A collective that this chip has entered. `held`: contributions of this member to a reduce above level 1; `exps`: the final pre-pass
bytes; `passed`: pre-pass chunks whose reduce lap has passed here; `written`: chunks written; `signals`: how many of them have been
signalled; `owed`: chunks still to arrive, by lace; `state` 0 running, 1 aborted, 2 in census. `shards`: the chunks of the tensor that this
member holds at each level, in their order there, and those that it keeps through the last (R312). `batch` counts the events. -/
structure CollRun where
  flight  : Nat
  spec    : CollSpec
  levels  : List CollLevel
  shards  : List (List Nat)
  batch   : Nat
  sig     : Nat
  seqs    : Tab Nat
  held    : Tab (List Byte)
  exps    : Tab (List Byte)
  passed  : Tab Bool
  sends   : List CollSend
  written : Tab Bool
  signals : Nat
  writes  : Nat
  owed    : Tab Nat
  outs    : Tab (List Byte)
  state   : Nat
  detect  : Option (Nat × Nat × Nat)
  deriving DecidableEq, Repr

/-- A chunk that waits in its buffer: its collective is not entered, or its pre-pass byte is not final here (R323). -/
structure CollEarly where
  header  : ChunkHdr
  payload : List Byte
  crc     : Word
  deriving DecidableEq, Repr

/-- The engine. `seq`, `sig`, `credits`, `bufs` (chunk buffers in use), `early`, `flit` (a census flit held), `dead` (an abort that arrived
before entry) and `copies` (how often the abort of the last collective is still to arrive) are by lace. `results`: results of inner
collectives, by flight. -/
structure Coll where
  runs    : List CollRun
  seq     : Tab Nat
  sig     : Tab Nat
  credits : Tab Nat
  bufs    : Tab Nat
  early   : Tab (List CollEarly)
  flit    : Tab (Option CensusFlit)
  dead    : Tab (Option CollAbort)
  copies  : Tab Nat
  results : List (Nat × List Byte)
  deriving DecidableEq, Repr

def Coll.reset : Coll := ⟨[], [], [], [], [], [], [], [], [], []⟩

/-! ### Circulation and merge (chapter 10) -/

/-- A landing slot in use (R285 to R287). -/
structure Landing where
  seqno    : Nat
  header   : CircHdr
  payload  : List Byte
  landed   : Bool
  released : Nat
  fwdSent  : Option Nat
  fwdAcked : Bool
  deriving DecidableEq, Repr

/-- One lace and direction of a circulation (R282, R288). `tx`: blocks sent; `rx`: blocks received; `unacked`: blocks sent and not
acknowledged; `credits` held; `slots` in landing order. -/
structure CircLane where
  tx      : Nat
  rx      : Nat
  unacked : List Nat
  credits : Nat
  slots   : List Landing
  deriving DecidableEq, Repr

def CircLane.reset : CircLane := ⟨0, 0, [], 0, []⟩

/-- A circulation that runs on this chip (R279, R280): members and position on the primary lace, the parameters, the row sizes of the
pool, and `blocks`, the blocks of a stripe pair. Lanes by 2l + d. -/
structure CircRun where
  flight : Nat
  tag    : Nat
  laces  : List Nat
  size   : Nat
  pos    : Nat
  pool   : Nat
  seq    : Nat
  klen   : Nat
  layer  : Nat
  stripe : Nat
  pages  : Nat
  passes : Nat
  rowBytes : Nat
  pitch  : Nat
  blocks : Nat
  lanes  : Tab CircLane
  deriving DecidableEq, Repr

/-- What arrives for a merge: the tag of its command, and rows of an exchange or of a leaf, or an end marker (`kind` none). `pass`: the pass
that a leaf belongs to. -/
structure MergeIn where
  tag    : Nat
  kind   : Option MergeKind
  sender : Nat
  pass   : Nat
  lo     : Nat
  data   : List Byte
  deriving DecidableEq, Repr

/-- A welt merge (R298 to R302). `lace`, `size`, `pos`: the primary lace of its group's lace, with the members and this chip's position
there, or 6 (R274); `obj`: the index of MERGE; `held`: the merge units of this chip; `units`: NU; `pass`: merges ended;
`phase`: 0 idle, 1 waiting for the pre-fold, 2 + j at level j, 100 waiting for end markers, 200 ready to end. `node`: the rows formed
so far, by row; `lo`, `hi`: the kept range; `recv`: what has arrived and is not yet used; `ends`: the senders of end markers. -/
structure MergeRun where
  flight : Nat
  tag    : Nat
  group  : Nat
  lace   : Nat
  size   : Nat
  pos    : Nat
  obj    : Nat
  nq     : Nat
  dv     : Nat
  units  : Nat
  held   : List Nat
  invariant : Bool
  prefill : Bool
  pass   : Nat
  passes : Nat
  phase  : Nat
  node   : Tab (List Byte)
  lo     : Nat
  hi     : Nat
  recv   : List MergeIn
  ends   : List Nat
  deriving DecidableEq, Repr

/-- The circulation engine. `credits`: tags of credits that arrived before their circulation started, by lane; `early`: what arrived for a
merge that this chip has not begun; `dead`: an abort that arrived before the circulation began here: its code and its originator; `copies`:
how often the abort of the last circulation is still to arrive; both by lace. -/
structure Circ where
  runs    : List CircRun
  merges  : List MergeRun
  credits : Tab (List Nat)
  early   : List MergeIn
  dead    : Tab (Option (Nat × Nat))
  copies  : Tab Nat
  deriving DecidableEq, Repr

def Circ.reset : Circ := ⟨[], [], [], [], [], []⟩

/-! ### Vector search (chapter 12) -/

/-- A query in flight: what it captured (R336, R345), its view with COUNT, FOLD_SEQ and SIDE_HEAD. `old`: its view is no longer active. -/
structure Query where
  flight    : Nat
  index     : Nat
  view      : Nat
  count     : Nat
  foldSeq   : Nat
  sideHead  : Nat
  published : Nat
  sideTail  : Nat
  old       : Bool
  deriving DecidableEq, Repr

/-! ### Power (chapter 15) -/

/-- A hint whose phase has not ended (R428). `active`: its phase has begun. -/
structure Hint where
  kind     : Nat
  level    : Nat
  lead     : Nat
  duration : Nat
  active   : Bool
  deriving DecidableEq, Repr

/-- The latest droop calibration (R426): detector means in 0.1 mV, P_cal in mW, I_cal in mA. `heavy`: the record before it was not
light. While BUSY, `sumP` and `sumI` add up over `ticks` intervals. -/
structure Calibration where
  valid : Bool
  busy  : Bool
  heavy : Bool
  means : List Nat
  power : Nat
  amps  : Nat
  sumP  : Nat
  sumI  : Nat
  ticks : Nat
  deriving DecidableEq, Repr

/-- The power controller. Energies in picojoules. `point` the point in force, `vpoint` the point whose voltage stands, `raise` the
pre-position in mV (R428); `tickAt` the time of the last 2 µs tick; `change` the point of a change in progress, `due` once its switch has
waited (R425). `buckets`: 1 ms of
domain energies each, newest first, `tick` intervals of the newest. `idle`: intervals since a core ran a command. `limited`,
`clamped`: a limit, a clamp in the last 1 ms; `lit`: the controller has commanded a voltage since the last reset (R504); `clampAt`,
`clampLast`: the time of the clamp's first and latest detection, `clampNs` what is
left of whole microseconds of clamps (R430); `refused`: the temperature refused boost at the last decision. `wait`: P_entry and the
intervals of a wait (R427); `ic` the intercalary issue fraction. `hintFrom`: the boost point left for a hint. `trip` the sticky flag
and `tripPin` THERMTRIP_N (R432). `pmbLast` the PMBus transactions that may still fail, in order, and `pmbTries` the failures of the first
(R433). `ran`: a core has run a command since the last tick. `acts`: the activity counters of R414 at the last tick. -/
structure Power where
  lit      : Bool
  tickAt   : Option Nat
  point    : Nat
  vpoint   : Nat
  raise    : Nat
  change   : Option Nat
  due      : Bool
  clamp    : Bool
  holdoff  : Bool
  clampAt  : Nat
  clampLast : Nat
  clampNs  : Nat
  kCap     : Tab Nat
  kTherm   : Nat
  alert    : Bool
  failed   : Tab Bool
  energy   : Nat
  estimate : Nat
  vdd      : Nat
  buckets  : List (Tab Nat)
  tick     : Nat
  idle     : Nat
  limited  : Bool
  clamped  : Bool
  refused  : Bool
  capSat   : Bool
  ic       : Nat
  wait     : Option (Nat × Nat)
  hint     : Option Hint
  hintFrom : Nat
  cal      : Calibration
  trip     : Bool
  tripPin  : Bool
  pmbFail  : Bool
  pmbLast  : List (Nat × Nat)
  pmbTries : Nat
  ran      : Bool
  acts     : Tab Nat
  deriving DecidableEq, Repr

def Power.reset : Power :=
  { lit := false, tickAt := none, point := 13, vpoint := 13, raise := 0, change := none, due := false, clamp := false, holdoff := false, clampAt := 0,
    clampLast := 0, clampNs := 0, kCap := [], kTherm := 64,
    alert := false, failed := [], energy := 0, estimate := 0, vdd := 0, buckets := [], tick := 0, idle := 0, limited := false,
    clamped := false, refused := false, capSat := false, ic := 0, wait := none, hint := none, hintFrom := 0,
    cal := ⟨false, false, false, [], 0, 0, 0, 0, 0⟩, trip := false, tripPin := false, pmbFail := false, pmbLast := [],
    pmbTries := 0, ran := false, acts := [] }

/-! ### Boot, identity and life cycle (chapter 17) -/

/-- An image that net boot brings in (R388): the offered length and sender, the blocks received, those asked for and not received, and
the next block to ask for. -/
structure NetImage where
  offer  : Option (Nat × Nat)
  blocks : Tab (List Byte)
  open_  : List Nat
  next   : Nat
  deriving DecidableEq, Repr

def NetImage.none_ : NetImage := ⟨none, [], [], 0⟩

/-- The mailbox operation in progress (R477): its OP, its target state, MBOX_ADDR as it was written before the OP, the leaf it has reserved, and
the RESULT known so far. -/
structure Mailbox where
  op     : Nat
  target : Nat
  addr   : Nat
  leaf   : Option Nat
  result : Option Nat
  deriving DecidableEq, Repr

/-- The security core. OTP: `lc` life-cycle state, `provisioned`, `seed` (the draw that is S, none before provisioning and after its
destruction), `fuses` F, `minSvn` by kind. `flash` the SPI NOR. `draws`: random draws made; `nonce` the draw that is DBG_NONCE.
`perms`: an active debug token. `leaf` N and `limit` H. `inReset`: the boot sequence has not run since the last reset; `stage`,
`bootSel`, `verified` kinds and `netUsed` of BOOT_STATUS; `images` kind ↦ header of what runs; `tried` kinds whose flash slots have been
tried; `ready` images that
passed their checks and wait for their step; `needed` the images net boot still brings; `softReset` a soft reset runs, and `softWiped` its wipes
have begun (R460). -/
structure Security where
  lc          : Nat
  provisioned : Bool
  seed        : Option Nat
  fuses       : Nat
  minSvn      : Tab Nat
  flash       : Tab Byte
  draws       : Nat
  nonce       : Nat
  perms       : Option Nat
  leaf        : Nat
  limit       : Nat
  mbox        : Option Mailbox
  inReset     : Bool
  stage       : Nat
  bootSel     : Nat
  verified    : List Nat
  netUsed     : Bool
  images      : Tab (List Byte)
  ready       : Tab (List Byte)
  needed      : Tab (Option NetImage)
  tried       : List Nat
  softReset   : Bool
  softWiped   : Bool
  deriving DecidableEq, Repr

/-- Life-cycle state: PROVISION on a CZ-5120-E (R3); the spec gives none for a CZ-5120-L (here TEST, an unprogrammed OTP). -/
def Security.reset : Security :=
  { lc := bif Config.isVariantE then 1 else 0, provisioned := false, seed := none, fuses := 0, minSvn := [], flash := [], draws := 1, nonce := 0,
    perms := none, leaf := 0, limit := 0, mbox := none, inReset := true, stage := 0, bootSel := 0, verified := [], netUsed := false, images := [],
    ready := [], needed := [], tried := [], softReset := false, softWiped := false }

/-! ### The sideband (chapter 19) -/

/-- SMBus target and TAP (R511, R512). `address` the present target address; `resolved`: ARP has resolved it. `tap`: the data register that
the TAP's instruction selects: 0 BYPASS, 1 boundary scan. -/
structure Sideband where
  address  : Nat
  resolved : Bool
  tap      : Nat
  deriving DecidableEq, Repr


/-- The state of the chip and the queue of commands that wait. -/
structure State where
  win     : Window
  commit  : Commit
  /-- The 1 GHz time counter (R35). -/
  time    : Nat
  cores   : Tab Core
  sync    : Sync
  mem     : Memory
  tier    : Tier
  cmd     : Commands
  host    : HostPort
  disc    : Discard
  /-- A class 3 error has stopped the chip (R445). -/
  fatal   : Bool
  links   : Tab Port
  coll    : Coll
  circ    : Circ
  /-- Queries of vector search in flight. -/
  queries : List Query
  power   : Power
  sec     : Security
  side    : Sideband
  /-- The MODEL's own: how many free values have been drawn. -/
  free    : Nat
  /-- The MODEL's own: everything the chip has sent, oldest first. -/
  out     : List Sent
  /-- The commands that wait, first in first out. -/
  pending : List Instr
  deriving DecidableEq, Repr

def State.reset : State :=
  { win := Window.reset, commit := Commit.reset, time := 0, cores := [], sync := Sync.reset,
    mem := ⟨[], [], [0], [], false, []⟩, tier := Tier.reset, cmd := ⟨[], 0, [], 63, [], 0⟩,
    host := ⟨[], [], false, 0, 0#32⟩, disc := Discard.reset, fatal := false,
    links := [],
    coll := Coll.reset, circ := Circ.reset, queries := [],
    power := Power.reset,
    sec := Security.reset, side := ⟨0x5A, false, 0⟩,
    free := 0, out := [], pending := [] }

end Sys2Proof.Machine
end

