-- ==== Sys2Proof/Machine/Window.lean ====
section
/-! DEFINITION. The register window as storage (R486 to R492): where the pages lie, what every register holds at reset, and
the accessors through which the machine reads and writes registers, staged words and counting registers. -/

namespace Sys2Proof.Machine

/-! ### Pages (R500) -/

def pageGlobal : Nat := 0x0000000
def pagePower : Nat := 0x0100000
def pageControl : Nat := 0x0300000
def pageSync : Nat := 0x0400000
def pageMem : Nat := 0x0500000
def pageCirc : Nat := 0x0600000
def pageColl : Nat := 0x0700000
def pageLink (p : Nat) : Nat := 0x0800000 + p * 0x10000
def pageLinks : Nat := 0x0920000
def pageHost : Nat := 0x0A00000
def pageScan : Nat := 0x0B00000
def pageCore (n : Nat) : Nat := 0x1000000 + n * 0x200000

/-- The first page of the block whose index is `b`; the security block has no index (R492). -/
def blockPage (b : Nat) : Option Nat :=
  if b = 0 then some pageGlobal
  else if b = 1 then some pagePower
  else if b = 3 then some pageControl
  else if b = 4 then some pageSync
  else if b = 5 then some pageMem
  else if b = 6 then some pageCirc
  else if b = 7 then some pageColl
  else if b = 0x0A then some pageHost
  else if b = 0x0B then some pageScan
  else if 0x10 ≤ b ∧ b < 0x18 then some (pageCore (b - 0x10))
  else if 0x20 ≤ b ∧ b < 0x32 then some (pageLink (b - 0x20))
  else if b = 0x3F then some pageLinks
  else none

/-- The block index of the page region that holds a window offset (R492, R500); none where no page lies. -/
def offsetBlock (off : Nat) : Option Nat :=
  if off < 0x4000 then some 0
  else if 0x0100000 ≤ off ∧ off < 0x0101000 then some 1
  else if 0x0300000 ≤ off ∧ off < 0x0301000 then some 3
  else if 0x0400000 ≤ off ∧ off < 0x0409000 then some 4
  else if 0x0500000 ≤ off ∧ off < 0x0501000 then some 5
  else if 0x0600000 ≤ off ∧ off < 0x0601000 then some 6
  else if 0x0700000 ≤ off ∧ off < 0x0701000 then some 7
  else if 0x0800000 ≤ off ∧ off < 0x0920000 then
    (if off % 0x10000 < 0x1000 then some (0x20 + (off - 0x0800000) / 0x10000) else none)
  else if 0x0920000 ≤ off ∧ off < 0x0930000 then some 0x3F
  else if 0x0A00000 ≤ off ∧ off < 0x0A02000 then some 0x0A
  else if 0x0B00000 ≤ off ∧ off < 0x0B01000 then some 0x0B
  else if 0x1000000 ≤ off ∧ off < 0x2000000 then some (0x10 + (off - 0x1000000) / 0x200000)
  else none

/-! ### Reset values -/

/-- What a plain register holds at reset, by window offset. -/
def regReset (off : Nat) : Word :=
  if 0x1000000 ≤ off then
    let o := off % 0x200000
    if o = 0x50 then 0x00010000#32 else if o = 0x54 then 0xF#32 else 0#32
  else if 0x0800000 ≤ off ∧ off < 0x0920000 then
    let o := off % 0x10000
    if o = 0x4C then 0x000FFFFF#32 else if o = 0x50 then 0x001F1F01#32 else 0#32
  else if off = 0x0000040 then 0x000FFFFF#32
  else if off = 0x0000074 then 0x64#32
  else if off = 0x0000080 then 0x54#32
  else if off = 0x0000810 then 1#32
  else if off = 0x0000204 then 1#32
  else if off = 0x0500008 then 2#32
  else if off = 0x0A00008 then 1#32
  else if off = 0x0100040 then 0xD#32
  else if off = 0x0100058 ∨ off = 0x010005C then 0x40404040#32
  else 0#32

/-- What a staged word holds at reset, shadow and value in force (R498). -/
def stgReset (off : Nat) : Word :=
  if off = 0x0400100 then 0x64#32
  else if off = 0x0500108 then 0x1F4#32
  else if off = 0x050010C then 0xC#32
  else if off = 0x0500110 then 3#32
  else if off = 0x06001C0 then 0xA#32
  else if off = 0x0700100 then 0xA#32
  else if 0x0800000 ≤ off ∧ off < 0x0920000 then
    let o := off % 0x10000
    if o = 0x100 then (if off < 0x0900000 then 0xB#32 else 0x9#32) else if o = 0x110 then 0x10#32 else 0#32
  else if off = 0x0920100 then 0x000FFFFF#32
  else if off = 0x0920104 then 0x2A#32
  else if off = 0x0A00100 then 0x37#32
  else if off = 0x0A00104 then Config.mac.truncate 32
  else if off = 0x0A00108 then (Config.mac >>> 32).truncate 32
  else if off = 0x0A00124 then 0xA3F2#32
  else if 0x0A01000 ≤ off ∧ off < 0x0A02000 then
    let o := off % 0x40
    if o = 0 then 0x34#32 else if o = 0xC then 6#32 else 0#32
  else if off = 0x0100100 then 0x578#32
  else if off = 0x0100104 then 0xA#32
  else if off = 0x0100108 then (bif Config.isVariantE then 0x1F#32 else 0x1E#32)
  else if off = 0x010010C then 0x0003E8B2#32
  else if off = 0x0100110 then 0x6469#32
  else if off = 0x0100114 then 0x60#32
  else if off = 0x0100118 then 0x78#32
  else if off = 0x010011C then 0x4014#32
  else 0#32

def noCount (_ : Nat) : Nat := 0
def noWord (_ : Nat) : Word := 0#32

/-! ### Accessors -/

/-- The value a plain register holds. -/
def State.reg (s : State) (off : Nat) : Word := look regReset s.win.regs off

/-- Put a value into a plain register. -/
def State.setReg (s : State) (off : Nat) (v : Word) : State :=
  { s with win := { s.win with regs := store regReset s.win.regs off v } }

/-- The staged word in force. -/
def State.stg (s : State) (off : Nat) : Word := look stgReset s.win.active off

/-- The shadow of a staged word. -/
def State.shadow (s : State) (off : Nat) : Word := look stgReset s.win.shadow off

/-- Write a staged word: its shadow, and the mark that it has been written (R487, R490). -/
def State.setShadow (s : State) (off : Nat) (v : Word) : State :=
  { s with win := { s.win with shadow := store stgReset s.win.shadow off v,
                               written := store (fun _ => false) s.win.written off true } }

/-- Put a word in force and into its shadow, as an apply that changes a field does (R493 step 7). -/
def State.setActive (s : State) (off : Nat) (v : Word) : State :=
  { s with win := { s.win with active := store stgReset s.win.active off v, shadow := store stgReset s.win.shadow off v } }

/-- Two staged words in force as one value. -/
def State.stg2 (s : State) (lo : Nat) : Nat := (s.stg lo).toNat + (s.stg (lo + 4)).toNat * 2 ^ 32

/-- The counting register at an offset. -/
def State.count (s : State) (off : Nat) : Nat := look noCount s.win.counts off

def State.setCount (s : State) (off : Nat) (v : Nat) : State :=
  { s with win := { s.win with counts := store noCount s.win.counts off v } }

/-- Add to a 32-bit counter that is sticky at 0xFFFF_FFFF. -/
def State.bump (s : State) (off : Nat) (n : Nat := 1) : State := s.setCount off (min (s.count off + n) 0xFFFFFFFF)

/-- Add to a 64-bit counter, which stops at all ones. -/
def State.bump64 (s : State) (off : Nat) (n : Nat := 1) : State := s.setCount off (min (s.count off + n) (2 ^ 64 - 1))

/-- This chip's id (R16). -/
def State.chipId (s : State) : Nat := (s.reg 0x40).toNat

/-- Append to what the chip has sent. -/
def State.send (s : State) (m : Sent) : State := { s with out := s.out ++ [m] }

/-- Draw a free value (the model's own counter advances). -/
def State.draw (s : State) : Dword × State := (Config.freeValue s.free, { s with free := s.free + 1 })

/-! ### Cores and other indexed parts -/

def State.core (s : State) (n : Nat) : Core := look (fun _ => Core.reset) s.cores n

def State.setCore (s : State) (n : Nat) (c : Core) : State := { s with cores := store (fun _ => Core.reset) s.cores n c }

def State.onCore (s : State) (n : Nat) (f : Core → Core) : State := s.setCore n (f (s.core n))

def State.onEng (s : State) (n : Nat) (f : Engines → Engines) : State := s.onCore n fun c => { c with eng := f c.eng }

def State.onPlane (s : State) (n : Nat) (f : Plane → Plane) : State := s.onCore n fun c => { c with plane := f c.plane }

def State.queue (s : State) (q : Nat) : Queue := look (fun _ => Queue.reset) s.cmd.queues q

def State.onQueue (s : State) (q : Nat) (f : Queue → Queue) : State :=
  { s with cmd := { s.cmd with queues := modify (fun _ => Queue.reset) s.cmd.queues q f } }

def State.bar (s : State) (e : Nat) : Barrier := look (fun _ => Barrier.reset) s.sync.bars e

def State.onBar (s : State) (e : Nat) (f : Barrier → Barrier) : State :=
  { s with sync := { s.sync with bars := modify (fun _ => Barrier.reset) s.sync.bars e f } }

end Sys2Proof.Machine

namespace Sys2Proof

/-- The number of an engine (R91). -/
def Engine.idx : Engine → Nat
  | .fetch => 0
  | .plane => 1
  | .vector => 2
  | .put => 3

/-- The number of a direction. -/
def Dir.idx : Dir → Nat
  | .next => 0
  | .prev => 1

/-- The other direction. -/
def Dir.back : Dir → Dir
  | .next => .prev
  | .prev => .next

end Sys2Proof
end

