-- ==== Sys2Proof/Machine/Ops.lean ====
section
/-! DEFINITION. The named operations over errors, memory, addresses, links, requests, cores and commands that the meanings of
the commands share. -/

namespace Sys2Proof.Machine

abbrev Out := Host.Outcome State Fault Refusal

/-! ### Error codes (R438, R439) -/

def errCode (cls block code : Nat) : Nat := cls * 0x1000 + block * 0x40 + code

def errClass (code : Nat) : Nat := code / 0x1000

/-- Rank of a class, most severe highest: 3, 2, 1, 4, 0 (R32). -/
def errRank (code : Nat) : Nat :=
  match errClass code with
  | 3 => 4
  | 2 => 3
  | 1 => 2
  | 4 => 1
  | _ => 0

def eAddrOffBench : Nat := 0x1001
def eAddrChipRsvd : Nat := 0x1002
def eAddrUnrouted : Nat := 0x1003
def eAddrTier : Nat := 0x1004
def eAddrRange : Nat := 0x1005
def eAddrSecure : Nat := 0x1006
def eGroupEpoch : Nat := 0x1007
def eGroupDepth : Nat := 0x1008
def eGroupMemberFatal : Nat := 0x2009
def eCoreFailed : Nat := 0x100A
def eGroupQueue : Nat := 0x100B
def eGroupList : Nat := 0x100C
def eCore (n code : Nat) : Nat := errCode (if code = 7 ∨ code = 8 then 2 else 1) (0x10 + n) code
def eSfu (n code : Nat) : Nat := errCode (if code = 5 then 2 else if code = 6 then 4 else 1) (0x18 + n) code
def eCcCreditNeg : Nat := 0x1101
def eCcDecEvent : Nat := 0x1102
def eCreditOvf : Nat := 0x1103
def eCtrWrap : Nat := 0x1104
def eBarrierAhead : Nat := 0x1105
def eBarrierStale : Nat := 0x1106
def eBarrierKind : Nat := 0x1107
def eBarrierTimeout : Nat := 0x1108
def eBarrierBroken : Nat := 0x1109
def eSyncHandSet : Nat := 0x410A
def eSyncParity : Nat := 0x210B
def eSigIdleCore : Nat := 0x110C
def eHandleInvalid : Nat := 0x1141
def eHandleStale : Nat := 0x1142
def eObjRange : Nat := 0x1143
def eObjReadOnly : Nat := 0x1144
def eObjProtected : Nat := 0x1145
def eBlockBad : Nat := 0x1146
def eT2Timeout : Nat := 0x1147
def eT2ReadErr : Nat := 0x1148
def eObjLost : Nat := 0x1149
def eT2WbFail : Nat := 0x414A
def eT1Ue : Nat := 0x214B
def eAwlBad : Nat := 0x114C
def eLiNotPlaced : Nat := 0x1220
def eLiSfuMismatch : Nat := 0x1221
def eSecResetting : Nat := 0x1084
def eCmdBadOpcode : Nat := 0x10C1
def eCmdBadFormat : Nat := 0x10C2
def eCmdBadField : Nat := 0x10C3
def eCmdFmt1Op : Nat := 0x10C4
def eCmdWaitTimeout : Nat := 0x10C5
def eCmdDiscarded : Nat := 0x20C6
def eCmdFwFault : Nat := 0x30C7
def eHpDoorbellBad : Nat := 0x4281
def eHpCplWriteFail : Nat := 0x4282
def eHpQpError : Nat := 0x4283
def eHpLinkDown : Nat := 0x4284
def eLink (p code : Nat) : Nat := errCode (if code = 1 ∨ code = 8 then 2 else if code = 7 then 1 else 4) (0x20 + p) code

/-! ### Debug permissions -/

/-- Permission bit p of the debug configuration (R481). -/
def State.debugPerm (s : State) (p : Nat) : Bool :=
  if s.sec.lc ≤ 1 then true
  else if s.sec.lc = 2 then match s.sec.perms with
    | some v => v.testBit p
    | none => false
  else false

/-! ### Recording errors -/

/-- BLK_PERF_SEL.EVENT of a block (R490). -/
def State.perfSel (s : State) (b : Nat) : Nat :=
  match blockPage b with
  | some p => (s.reg (p + 0x1C)).toNat % 16
  | none => 0

/-- Count `n` events of a kind in PERF_CNT of the blocks that select it (R490, R499). -/
def State.perf (s : State) (b event n : Nat) : State := if s.perfSel b = event then s.bump64 (0x600 + 8 * b) n else s

/-- Set a bit of a block's BLK_ERR, and raise the interrupt where BLK_ERR_EN enables it. Bit 0 is LIVE_WRITE, an event that PERF_CNT
can count. -/
def State.errBit (s : State) (page bit : Nat) : State :=
  let b : Word := BitVec.ofNat 32 (2 ^ bit)
  let s := match bit, offsetBlock page with
    | 0, some k => s.perf k 2 1
    | _, _ => s
  let s := s.setReg (page + 0x10) (s.reg (page + 0x10) ||| b)
  if s.reg (page + 0x14) &&& b ≠ 0#32 then s.send (.interrupt page) else s

/-- Record an error code in its block: its bit, and ERR_INFO when that holds no code (a write that leaves BLK_ERR
zero clears it, so it holds the first code since BLK_ERR was cleared). -/
def State.blockErr (s : State) (page bit infoOff : Nat) (info : Word) : State :=
  let s := if (s.reg infoOff).toNat % 2 ^ 16 = 0 then s.setReg infoOff info else s
  s.errBit page bit

/-- The unit address of this chip (R24). -/
def State.unit (s : State) : Word := BitVec.ofNat 32 s.chipId

/-- Write one entry of the error log ring (R450). -/
def State.logError (s : State) (code queue : Nat) (scope : Bool) (tag : Word) : State :=
  if errClass code = 4 ∧ (s.reg 0x204).getLsbD 0 = false then s else
  let h := (s.reg 0x200).toNat
  let e := h % 32
  let o := 0x400 + 16 * e
  let s := s.setReg o (BitVec.ofNat 32 (code + queue * 2 ^ 16 + (if scope then 2 ^ 22 else 0)))
  let s := s.setReg (o + 4) s.unit
  let s := s.setReg (o + 8) tag
  let s := s.setReg (o + 12) (BitVec.ofNat 32 (s.time / 2 ^ 10))
  s.setReg 0x200 (BitVec.ofNat 32 ((e + 1) % 32 + 32 * min (h / 32 + 1) (2 ^ 27 - 1)))

/-- The global block's own codes (R440, R499): bit code + 1 of its BLK_ERR. -/
def State.globalErr (s : State) (code : Nat) : State := s.errBit pageGlobal (code % 0x40 + 1)

/-- The page, error bit, code bits and ERR_INFO word of a code's block; none for blocks that keep no such record. -/
def State.recordCode (s : State) (code : Nat) (more : Nat) : State :=
  let blk := code / 0x40 % 0x40
  let c := code % 0x40
  let w := BitVec.ofNat 32 (code + more)
  if blk = 0 then s.globalErr code
  else if blk = 1 then s.blockErr pagePower c (pagePower + 0x60) w
  else if blk = 2 then
    let s := if (s.reg 0x81C).toNat % 2 ^ 16 = 0 then s.setReg 0x81C w else s
    (s.setReg 0x818 (s.reg 0x818 ||| BitVec.ofNat 32 (2 ^ (c - 1)))).send (.interrupt pageGlobal)
  else if blk = 3 then s.blockErr pageControl c (pageControl + 0x44) w
  else if blk = 4 then s.blockErr pageSync (c + 1) (pageSync + 0x6C) w
  else if blk = 5 then s.blockErr pageMem (c + 1) (pageMem + 0x74) w
  else if blk = 6 then s.blockErr pageCirc c (pageCirc + 0x44) w
  else if blk = 7 then s.blockErr pageColl c (pageColl + 0x44) w
  else if blk = 0x0A then s.blockErr pageHost c (pageHost + 0x44) w
  else if blk = 0x0B then s.blockErr pageScan c (pageScan + 0x44) w
  else if 0x10 ≤ blk ∧ blk < 0x18 then
    let p := pageCore (blk - 0x10)
    s.blockErr p c (p + 0xC0) w
  else if 0x18 ≤ blk ∧ blk < 0x20 then
    let p := pageCore (blk - 0x18) + 0x2000
    let b : Word := BitVec.ofNat 32 (2 ^ c)
    let s := if (s.reg (p + 0xC)).toNat % 2 ^ 16 = 0 then s.setReg (p + 0xC) w else s
    let s := s.setReg (p + 4) (s.reg (p + 4) ||| b)
    if s.reg (p + 8) &&& b ≠ 0#32 then s.send (.interrupt p) else s
  else if 0x20 ≤ blk ∧ blk < 0x32 then
    let p := pageLink (blk - 0x20)
    s.blockErr p c (p + 0x54) w
  else s

/-- What a block does; after a class 3 error every block has stopped, and nothing happens (R445). -/
def State.live (s : State) (r : Out) : Out := if s.fatal then .next s else r

/-! ### Commands in flight -/

def State.flight? (s : State) (id : Nat) : Option Flight := s.cmd.flights.find? fun f => f.id = id

def State.onFlight (s : State) (id : Nat) (g : Flight → Flight) : State :=
  { s with cmd := { s.cmd with flights := s.cmd.flights.map fun f => if f.id = id then g f else f } }

/-- Field of a command record. -/
def Flight.get (f : Flight) (o n : Nat) : Nat := field f.body o n

def Flight.scope (f : Flight) : Bool := f.get 3 1 % 2 = 1

def Flight.opcode (f : Flight) : Nat := f.get 0 1

def Flight.tagWord (f : Flight) : Word := BitVec.ofNat 32 (f.get 4 4)

/-- The operand or scope group. -/
def Flight.group (f : Flight) : Nat := f.get 8 4 % 2 ^ 20

/-- Put an error of the member at key `pos` into a command: the most severe class stands, and within it the first member's code, or
the first of one member (R32); class 4 codes go to ADVISORY beside another class (R406, R446). -/
def Flight.failAt (f : Flight) (pos code : Nat) (unit detail : Word) : Flight :=
  if code = 0 then f
  else if errClass code = 4 then
    if f.error = 0 then { f with error := code, unit := unit, detail := detail, errPos := pos }
    else if errClass f.error = 4 ∧ pos < f.errPos then { f with error := code, unit := unit, detail := detail, errPos := pos }
    else if f.advisory = 0 ∧ errClass f.error ≠ 4 then { f with advisory := code } else f
  else if errRank code > errRank f.error ∨ (errRank code = errRank f.error ∧ pos < f.errPos) then
    { f with
      advisory := if errClass f.error = 4 ∧ f.error ≠ 0 then f.error else f.advisory
      error := code, unit := unit, detail := detail, errPos := pos }
  else f

/-- Put an error of this chip into a command. -/
def Flight.fail (f : Flight) (code : Nat) (unit detail : Word) : Flight := f.failAt f.pos code unit detail

/-- Mark a command's part on this chip as over. -/
def Flight.finish (f : Flight) : Flight := { f with stage := .ended }

/-! ### T0 and T1 -/

def t0Default (_ : Nat) : Byte := 0#8

/-- What an unlisted byte of T1 reads as: zero after a wipe, and the free placement table, every entry with generation 1, at the
bases where it was written (R191, R192, R459). -/
def t1Default (tables : List Nat) (off : Nat) : Byte :=
  match tables.find? fun b => decide (b ≤ off ∧ off < b + 0x400000) with
  | none => 0#8
  | some b =>
    let i := (off - b) / 64
    match (off - b) % 64 with
    | 0 => BitVec.ofNat 8 i
    | 1 => BitVec.ofNat 8 (i / 256)
    | 2 => 1#8
    | _ => 0#8

def t1Bytes : Nat := 2 ^ 37

def t0Bytes : Nat := 2 ^ 29

def wsBytes : Nat := 0x4000000

/-- Read bytes of T0; byte k of core n's working store is at n · 64 MiB + k (R18, R72). -/
def State.t0 (s : State) (off n : Nat) : List Byte := lookList t0Default s.mem.t0 off n

def State.setT0 (s : State) (off : Nat) (bs : List Byte) : State :=
  { s with mem := { s.mem with t0 := storeList t0Default s.mem.t0 off bs } }

/-- Read bytes of a core's working store. -/
def State.ws (s : State) (core off n : Nat) : List Byte := s.t0 (core * wsBytes + off) n

def State.setWs (s : State) (core off : Nat) (bs : List Byte) : State := s.setT0 (core * wsBytes + off) bs

/-- The bytes of T1, whatever their ECC says. -/
def State.t1 (s : State) (off n : Nat) : List Byte := lookList (t1Default s.mem.tables) s.mem.t1 off n

/-- 32-byte words that a range touches. -/
def wordsOf (off n : Nat) : List Nat :=
  if n = 0 then [] else (List.range ((off + n - 1) / 32 - off / 32 + 1)).map fun i => off / 32 + i

def State.isPoisoned (s : State) (w : Nat) : Bool := look (fun _ => false) s.mem.poison w

/-- Write bytes of T1, clearing the poison mark of every 32-byte word written whole (R190), and counting them (R219). -/
def State.setT1 (s : State) (off : Nat) (bs : List Byte) : State :=
  let whole := (wordsOf off bs.length).filter fun w => decide (off ≤ 32 * w ∧ 32 * w + 32 ≤ off + bs.length)
  let s := { s with mem := { s.mem with
    t1 := storeList (t1Default s.mem.tables) s.mem.t1 off bs,
    poison := whole.foldl (fun p w => store (fun _ => false) p w false) s.mem.poison } }
  s.bump64 (pageMem + 0xD8) bs.length

/-- The form of the memories: every table of bytes and marks is canonical, so equal memories are equal data. -/
def Memory.wf (m : Memory) : Bool :=
  Canonical t0Default m.t0 && Canonical (t1Default m.tables) m.t1 && Canonical (fun _ => false) m.poison

/-- A little-endian field of T1. -/
def State.t1Nat (s : State) (off n : Nat) : Nat := natOf (s.t1 off n)

/-! ### Group and lace tables, units -/

/-- Word w of group entry e in force (R25). -/
def State.groupWord (s : State) (e w : Nat) : Nat := (s.stg (0x2000 + 32 * e + 4 * w)).toNat

structure Group where
  entry    : Nat
  id       : Nat
  members  : Nat
  position : Nat
  ctr      : Nat
  lace     : Nat
  list     : Nat
  epoch    : Word
  deriving DecidableEq, Repr

/-- Group entry e in force. -/
def State.groupAt (s : State) (e : Nat) : Group :=
  let w1 := s.groupWord e 1
  let w2 := s.groupWord e 2
  { entry := e, id := s.groupWord e 0 % 2 ^ 20, members := w1 % 2 ^ 16, position := w1 / 2 ^ 16, ctr := w2 % 2 ^ 12,
    lace := w2 / 2 ^ 12 % 8, list := (s.groupWord e 3 + s.groupWord e 4 * 2 ^ 32) % 2 ^ 42,
    epoch := s.stg (0x2000 + 32 * e + 20) }

/-- The valid entry of a group on this chip (R25, R29). -/
def State.group? (s : State) (gid : Nat) : Option Group :=
  match (List.range 256).find? fun e => (s.stg (0x2000 + 32 * e)).getLsbD 20 && s.groupWord e 0 % 2 ^ 20 == gid with
  | none => none
  | some e => some (s.groupAt e)

/-- The unit address at a position of a group's member list, in T1 (R25). -/
def State.member (s : State) (g : Group) (i : Nat) : Nat := s.t1Nat (g.list + 4 * i) 4

def unitKind (u : Nat) : Nat := u / 2 ^ 30
def unitId (u : Nat) : Nat := u % 2 ^ 20

/-- The groups from `g` inward that hold this chip, outermost first. -/
def State.chainGo (s : State) : Nat → Group → List Group
  | 0, g => [g]
  | n + 1, g =>
    let u := s.member g g.position
    if unitKind u = 1 then
      match s.group? (unitId u) with
      | some h => g :: s.chainGo n h
      | none => [g]
    else [g]

def State.chain (s : State) (g : Group) : List Group := s.chainGo 16 g

/-- The chip that a message to member `i` of a group goes to (R30). -/
def State.memberChip (s : State) (g : Group) (i : Nat) : Nat :=
  let u := s.member g i
  if unitKind u = 1 then (Config.counterpart (unitId u) s.chipId).toNat else if unitKind u = 2 then s.chipId else unitId u

/-- The chip that tallies for member `i` of a group: the member, or the chip at position 0 of one that is a group (R123). -/
def State.headChip (s : State) (g : Group) (i : Nat) : Nat :=
  let u := s.member g i
  if unitKind u = 1 then (Config.groupHead (unitId u)).toNat else if unitKind u = 2 then s.chipId else unitId u

/-- The 32 fan-out bytes of a FANOUT header: group id, EPOCH, level (R30; their places are this model's). -/
def fanBytes (g : Group) (level : Nat) : List Byte := bytesOf 4 g.id ++ bytesOf 4 g.epoch.toNat ++ bytesOf 4 level

/-- Do something for every other member of the groups of `gid`'s chain from index `level` on, as fan-out goes (R30): with the chip that the
message goes to, and the fan-out bytes that it carries. An entry that R523 forbids names no member. -/
def State.eachMember (s : State) (gid level : Nat) (f : State → Nat → List Byte → State) : State :=
  match s.group? gid with
  | none => s
  | some g =>
    (((s.chain g).zipIdx).drop level).foldl (fun s (h, k) =>
      (List.range h.members).foldl (fun s i =>
        if i = h.position ∨ 2 ≤ unitKind (s.member h i) then s else f s (s.memberChip h i) (fanBytes g (k + 1))) s) s

/-! ### Routing and the link layer -/

/-- Has a plan been committed (R368)? -/
def State.planned (s : State) : Bool := s.stg (pageLinks + 0x100) &&& 0xFFFFF#32 != 0xFFFFF#32

/-- LINK_STATUS.STATE of a port (R375): 0 DOWN, 1 TRAINING, 2 UP, 3 HELD, 4 DISABLED. -/
def State.portState (s : State) (p : Nat) : Nat := (s.reg (pageLink p + 0x40)).toNat % 8

/-- Does a port bring in messages? Only one that is UP carries data frames, a chip without a plan hears its host only, and a fatal error
has stopped every block (R16, R369, R445). -/
def State.heard (s : State) (p : Nat) : Bool := s.planned && !s.fatal && s.portState p == 2

/-- Does a port bring in the records of control frames? One that is HELD does too (R369). -/
def State.hearsControl (s : State) (p : Nat) : Bool := s.planned && !s.fatal && (s.portState p == 2 || s.portState p == 3)

/-- Can anything from another chip have come in (R16, R369, R445)? -/
def State.linked (s : State) : Bool := (List.range 16).any s.heard

/-- A message of the awl path that the control cores or the synchronisation block take (R12). While a soft reset runs it is refused like every
request of VC 0, and the refusal is recorded (R461, R484); the commands of these messages carry no TAG for a REFUSE to name. -/
def State.fromPeer (s : State) (r : Out) : Out :=
  if !s.linked then .next s
  else if s.sec.softReset then .next ((s.recordCode eSecResetting 0).logError eSecResetting 0 false 0#32)
  else r

def State.setPortState (s : State) (p st : Nat) : State :=
  s.setReg (pageLink p + 0x40) (BitVec.ofNat 32 ((s.reg (pageLink p + 0x40)).toNat / 8 * 8 + st))

/-- A port begins to train, and sends its identity word (R361). -/
def State.train (s : State) (p : Nat) : State :=
  (s.setPortState p 1).send (.identity p ⟨Config.serial, BitVec.ofNat 20 s.chipId, BitVec.ofNat 5 p,
    BitVec.ofNat 2 ((s.stg (pageLink p + 0x100)).toNat / 4)⟩)

def State.port (s : State) (p : Nat) : Port := look (fun _ => Port.reset) s.links p

def State.onPort (s : State) (p : Nat) (f : Port → Port) : State :=
  { s with links := modify (fun _ => Port.reset) s.links p f }

def noNote (_ : Nat) : List Byte := []

/-- Put an engine's record into the control frames of a port (R359). -/
def State.notePort (s : State) (p key : Nat) (r : List Byte) : State :=
  s.onPort p fun x => { x with notes := store noNote x.notes key r, changed := true }

/-- The lowest-numbered valid route entry for a chip id (R370). -/
def State.routeEntry (s : State) (d : Nat) : Option Nat :=
  (List.range 1024).find? fun e =>
    let lo := (s.stg (pageLinks + 0x1000 + 8 * e)).toNat
    let hi := (s.stg (pageLinks + 0x1004 + 8 * e)).toNat
    let mask := lo / 2 ^ 20 + hi % 2 ^ 8 * 2 ^ 12
    hi / 2 ^ 26 % 2 == 1 && Nat.land d mask == lo % 2 ^ 20

/-- The UP ports of a route entry, lowest first. -/
def State.routePorts (s : State) (e : Nat) : List Nat :=
  (List.range 18).filter fun p =>
    ((s.stg (pageLinks + 0x1004 + 8 * e)).toNat / 2 ^ (8 + p) % 2 == 1) && s.portState p == 2

/-- The port a message from SRC to chip D leaves on (R370): none where no entry matches or no port of it is UP. -/
def State.route (s : State) (src d : Nat) : Option Nat :=
  match s.routeEntry d with
  | none => none
  | some e =>
    let ps := s.routePorts e
    if ps = [] then none else ps[(Nat.xor src d) % ps.length]?

/-- Credits held on a VC toward the peer (R360). -/
def Port.credit (p : Port) (vc : Nat) : Nat := look noCount p.granted vc - look noCount p.used vc

/-- The frame that carries these flits (R355). -/
def mkFrame (ctrl : Bool) (seq vc : Nat) (flits : List Flit) : Frame :=
  let pad := flits ++ List.replicate (20 - flits.length) 0#512
  let tag := seq % 256 + vc * 2 ^ 8 + flits.length * 2 ^ 12 + (if ctrl then 2 ^ 17 else 0)
  { seq := BitVec.ofNat 8 seq, vc := BitVec.ofNat 4 vc, fill := flits.length, ctrl := ctrl,
    crc := crc16 ((pad.map flitBytes).flatten ++ bytesOf 3 tag), flits := flits }

/-- Send what a message's credits and the replay buffer allow (R358, R360): one frame of up to 20 flits a round. -/
def sendFrames : Nat → Port → LinkMsg → List Frame → Port × LinkMsg × List Frame
  | 0, p, m, acc => (p, m, acc)
  | n + 1, p, m, acc =>
    let fl := m.flits.take 20
    let need := if m.flits.length = m.total then m.whole * m.total else 0
    if fl = [] ∨ p.credit m.vc < max need fl.length ∨ 255 ≤ p.replay.length then (p, m, acc)
    else
      let f := mkFrame false p.txSeq m.vc fl
      let p := { p with txSeq := (p.txSeq + 1) % 256, replay := p.replay ++ [f],
                        used := modify noCount p.used m.vc (· + fl.length), since := p.since + 1 }
      let m := { m with flits := m.flits.drop 20, last := some f.seq.toNat }
      sendFrames n p m (acc ++ [f])

/-- Go through the held messages in order; on one VC a message starts only after the one before it is sent whole (R356). -/
def drainMsgs : List LinkMsg → List Nat → Port → List LinkMsg → List Frame → Port × List LinkMsg × List Frame
  | [], _, p, ms, fs => (p, ms, fs)
  | m :: rest, busy, p, ms, fs =>
    if m.flits = [] then drainMsgs rest busy p (ms ++ [m]) fs
    else if m.vc ∈ busy then drainMsgs rest busy p (ms ++ [m]) fs
    else
      let (p, m, fs) := sendFrames m.flits.length p m fs
      drainMsgs rest (if m.flits = [] then busy else m.vc :: busy) p (ms ++ [m]) fs

/-- Let a port send all that it may. Only a port that is UP carries data frames (R369). -/
def State.drainPort (s : State) (p : Nat) : State :=
  if s.portState p ≠ 2 then s else
  let pt := s.port p
  let (pt, ms, fs) := drainMsgs pt.msgs [] pt [] []
  let s := s.onPort p fun _ => { pt with msgs := ms }
  let s := s.bump64 (pageLink p + 0x70) ((fs.map fun f => f.fill).sum)
  { s with out := s.out ++ fs.map (.frame p) }

/-- Hand a message to a port. -/
def State.transmit (s : State) (p : Nat) (m : LinkMsg) : State :=
  (s.onPort p fun pt => { pt with msgs := pt.msgs ++ [m] }).drainPort p

/-- The header flit of a message on VC 0 or 1, with its link word (R357); `extra` fills bytes 24 to 55. -/
def msgHeader (type src dst hops tag addr len aux flits : Nat) (extra : List Byte) : List Byte :=
  bytesOf 4 type ++ bytesOf 4 tag ++ bytesOf 8 addr ++ bytesOf 4 len ++ bytesOf 4 aux ++ slice extra 0 32 ++
  bytesOf 8 (dst + src * 2 ^ 20 + hops * 2 ^ 40 + flits * 2 ^ 46)

/-- Send a message on VC 0 (requests) or VC 1 (responses) toward a chip by the route table; false where it has no way. -/
def State.sendMsg (s : State) (type src dst hops tag addr len aux : Nat) (extra data : List Byte) : State × Bool :=
  match s.route src dst with
  | none => (s, false)
  | some p =>
    let n := 1 + ceilDiv data.length 64
    let fl := flitsOf (msgHeader type src dst hops tag addr len aux n extra) ++ flitsOf data
    let vc := if type < 0x80 then 0 else 1
    let s := s.send (.link ⟨p, type, src, dst, hops, tag, addr, len, aux, data⟩)
    (s.transmit p ⟨vc, type, tag, src, 2, n, fl, none⟩, true)

/-- Put an awl-path message of the control cores or of the synchronisation block on a port (R12): a VC 0 message of TYPE 0x05, with the fan-out
bytes in its header. `o` says what it is. The spec gives these messages no layout of their own (R357): here the data begin with a kind. The
TAG is fresh and names no request of this chip, so a refusal of such a message ends nothing. -/
def State.awlOn (s : State) (p chip queue : Nat) (hdr data : List Byte) (o : Sent) : State :=
  let tag := s.cmd.nextTag
  let n := 1 + ceilDiv data.length 64
  let s := { s with cmd := { s.cmd with nextTag := (tag + 1) % 2 ^ 32 } }.send o
  s.transmit p ⟨0, 0x05, tag, s.chipId, 2, n, flitsOf (msgHeader 0x05 s.chipId chip 0 tag 0 data.length queue n hdr) ++ flitsOf data, none⟩

/-- Send it by the route table; one that has no way is refused at issue, and is gone (R370). -/
def State.sendAwl (s : State) (chip queue : Nat) (hdr data : List Byte) (o : Sent) : State :=
  match s.route s.chipId chip with
  | none => s
  | some p => s.awlOn p chip queue hdr data o

/-- Send a completion (kind 2), a queue control notice (3), a discard notice (4), a fatal notice (5), the notice of a class 1 end (9), or the
length of a MATCH, up (10) or down (11) the fan-out tree. -/
def State.sendFan (s : State) (chip kind tag queue : Nat) (hdr data : List Byte) : State :=
  s.sendAwl chip queue hdr (bytesOf 4 kind ++ bytesOf 4 tag ++ data) (.fan chip kind tag (hdr ++ data))

/-- Send a notice to the members of a group that a chip at `level` of the fan-out passes it to (R30, R405, R443). -/
def State.toMembers (s : State) (gid level kind tag : Nat) (data : List Byte) : State :=
  s.eachMember gid level fun s chip hdr => s.sendFan chip kind tag 0 hdr data

/-- Send a request with a fresh TAG and keep it until its answer arrives (R11, R357): its tag, or none where no way leads there. -/
def State.request (s : State) (owner : Owner) (type chip addr len aux : Nat) (data : List Byte) (land : Option Nat) :
    State × Option Nat :=
  let tag := s.cmd.nextTag
  match s.sendMsg type s.chipId chip 0 tag addr len aux [] data with
  | (s, false) => (s, none)
  | (s, true) =>
    ({ s with cmd := { s.cmd with nextTag := (tag + 1) % 2 ^ 32,
                                  requests := s.cmd.requests ++ [⟨tag, owner, chip, addr, len, land⟩] } }, some tag)

/-- Tell the members of a group that the command of tag `tag` on queue `q` has ended with a class 1 code (R31, R441, R442). The spec names no
message for it: here it is an awl-path message that holds the command's TAG and the code. -/
def State.tellEnd (s : State) (gid level tag q code : Nat) : State :=
  s.eachMember gid level fun s chip hdr => s.sendFan chip 9 tag q hdr (bytesOf 2 code)

/-- Forget a request. -/
def State.dropRequest (s : State) (tag : Nat) : State :=
  { s with cmd := { s.cmd with requests := s.cmd.requests.filter fun r => r.tag != tag } }

/-! ### Placement entries (R192) -/

/-- PT_BASE in force. -/
def State.ptBase (s : State) : Nat := s.stg2 (pageMem + 0x100) % 2 ^ 42

structure Entry where
  index   : Nat
  gen     : Nat
  policy  : Nat
  flags   : Nat
  window  : Nat
  length  : Nat
  t1Base  : Nat
  t1Bytes : Nat
  t2Base  : Nat
  slice   : Nat
  refs    : Nat
  deriving DecidableEq, Repr

def Entry.ofBytes (i : Nat) (b : List Byte) : Entry :=
  { index := i, gen := field b 2 2, policy := field b 4 1, flags := field b 5 1, window := field b 6 2, length := field b 8 8,
    t1Base := field b 16 8, t1Bytes := field b 24 8, t2Base := field b 32 8, slice := field b 40 8, refs := field b 48 4 }

def State.entry (s : State) (i : Nat) : Entry := Entry.ofBytes i (s.t1 (s.ptBase + 64 * i) 64)

def Entry.readOnly (e : Entry) : Bool := e.flags % 2 = 1
def Entry.reserve (e : Entry) : Nat := e.flags / 2 % 4
def Entry.wrap (e : Entry) : Bool := e.flags / 8 % 2 = 1

/-- Entries whose object is valid with policy 2 or 3, which R194 bounds at 256: the caches the chip keeps. -/
def State.cache (s : State) (i : Nat) : ObjCache := look (fun _ => ObjCache.none_) s.tier.caches i

def State.onCache (s : State) (i : Nat) (f : ObjCache → ObjCache) : State :=
  { s with tier := { s.tier with caches := modify (fun _ => ObjCache.none_) s.tier.caches i f } }

/-- Indices of the valid objects with policy 2 or 3, ascending: their regions are protected (R194). The POLICY byte of a free entry
is 0, so only listed bytes of the table can name one. -/
def State.cachedObjects (s : State) : List Nat :=
  let b := s.ptBase
  (s.mem.t1.filter fun e =>
    decide (b ≤ e.1 ∧ e.1 < b + 0x400000 ∧ (e.1 - b) % 64 = 4 ∧ (e.2 = 2#8 ∨ e.2 = 3#8))).map fun e => (e.1 - b) / 64

/-- Does [off, off + n) of T1 reach a protected region: the placement table, or the region of a cached object (R194)? -/
def State.protected (s : State) (off n : Nat) : Bool :=
  let hit (b l : Nat) : Bool := decide (off < b + l ∧ b < off + n)
  hit s.ptBase 0x400000 || s.cachedObjects.any fun i => let e := s.entry i; hit e.t1Base e.t1Bytes

/-! ### Address checks (R13, R15, R18, R20, R21, R194) -/

/-- A device address (R17). -/
structure Dev where
  chip : Nat
  tier : Nat
  off  : Nat
  deriving DecidableEq, Repr

def Dev.of (a : Nat) : Dev := ⟨a / 2 ^ 44 % 2 ^ 20, a / 2 ^ 42 % 4, a % 2 ^ 42⟩

/-- The chip a CHIP field names: the issuing chip for the self alias (R15). -/
def State.chipOf (s : State) (chip : Nat) : Nat := if chip = 0xFFFFF then s.chipId else chip

def State.isSelf (s : State) (chip : Nat) : Bool := chip == 0xFFFFF || chip == s.chipId

/-- Bytes of a tier (R18). -/
def tierBytes (tier : Nat) : Nat := if tier = 0 then t0Bytes else if tier = 1 then t1Bytes else if tier = 2 then 0x4000000 else 0

/-- Routing of a chip id at the issuing chip (R20): its own id, or an entry with a port that is UP. -/
def State.routed (s : State) (chip : Nat) : Bool := s.isSelf chip || (s.route s.chipId chip).isSome

/-- The checks of R20 in order over an extent [lo, hi) of offsets in the tier of a device address: reserved chip id, another
bench (where `plain`, R13), routing, tier, range, and the security block for a remote tier-2 range (R21). Tier 2 also wants
aligned whole words (R486). -/
def State.checkDev (s : State) (plain : Bool) (d : Dev) (lo hi : Int) : Option Nat :=
  if 0xFFFC0 ≤ d.chip ∧ d.chip < 0xFFFFF then some eAddrChipRsvd
  else if !s.isSelf d.chip && plain && d.chip / 64 != s.chipId / 64 then some eAddrOffBench
  else if !s.routed d.chip then some eAddrUnrouted
  else if d.tier = 3 then some eAddrTier
  else if lo < 0 ∨ (tierBytes d.tier : Int) < hi then some eAddrRange
  else if d.tier = 2 ∧ (lo % 4 ≠ 0 ∨ hi % 4 ≠ 0) then some eAddrRange
  else if d.tier = 2 ∧ lo < 0x0300000 ∧ 0x0200000 < hi then some eAddrSecure
  else none

/-! ### T1 with its ECC: reports of T1_UE -/

/-- The first poisoned word that a range touches. -/
def State.poisonIn (s : State) (off n : Nat) : Option Nat := (wordsOf off n).find? s.isPoisoned

end Sys2Proof.Machine
end

