-- ==== Sys2Proof/Machine/Laces.lean ====
section
/-! DEFINITION. The lace table, and the runs of the circulation, merge and collective engines as the other blocks see them: what they
send over a lace, which command uses which lace, and the abort of every run (R273, R274, R293, R325, R443). -/

namespace Sys2Proof.Machine

/-! ### The lace table (R273) -/

structure Lace where
  index     : Nat
  members   : Nat
  valid     : Bool
  set       : Nat
  nextPort  : Nat
  pos       : Nat
  prevPort  : Nat
  nextChip  : Nat
  prevChip  : Nat
  landBase  : Dir → Nat
  consumers : Dir → Nat
  slotUnits : Nat
  landCtr   : Dir → Nat
  epoch     : Word

/-- Word w of lace entry l from a reader of staged words. -/
def laceWord (rd : Nat → Word) (l w : Nat) : Nat := (rd (pageCirc + 0x100 + 32 * l + 4 * w)).toNat

/-- A lace entry as a reader of staged words shows it: the values in force, or the shadows of a commit under check. -/
def laceOf (rd : Nat → Word) (l : Nat) : Lace :=
  let w := laceWord rd l
  { index := l, members := w 0 % 2 ^ 20, valid := w 0 / 2 ^ 20 % 2 = 1, set := w 0 / 2 ^ 21 % 8, nextPort := w 0 / 2 ^ 24 % 32,
    pos := w 1 % 2 ^ 20, prevPort := w 1 / 2 ^ 20 % 32, nextChip := w 2 % 2 ^ 20, prevChip := w 3 % 2 ^ 20,
    landBase := fun d => match d with
      | .next => 64 * (w 4 % 2 ^ 20)
      | .prev => 64 * (w 5 % 2 ^ 20),
    consumers := fun d => match d with
      | .next => w 4 / 2 ^ 20 % 2 ^ 8
      | .prev => w 5 / 2 ^ 20 % 2 ^ 8,
    slotUnits := w 6 % 2 ^ 16,
    landCtr := fun d => match d with
      | .next => w 6 / 2 ^ 16 % 2 ^ 7
      | .prev => w 6 / 2 ^ 23 % 2 ^ 7,
    epoch := rd (pageCirc + 0x100 + 32 * l + 28) }

def State.lace (s : State) (l : Nat) : Lace := laceOf s.stg l

def allLaces : List Nat := [0, 1, 2, 3, 4, 5]

/-- The valid laces of lace l's circulation set, lowest first (R274). -/
def State.laceSet (s : State) (l : Nat) : List Nat :=
  allLaces.filter fun k => (s.lace k).valid && (s.lace k).set == (s.lace l).set

/-- The set's primary lace. -/
def State.primary (s : State) (l : Nat) : Nat := (s.laceSet l).headD l

/-- Cores of a mask. -/
def coresIn (mask : Nat) : List Nat := [0, 1, 2, 3, 4, 5, 6, 7].filter fun c => mask.testBit c

/-! ### What leaves over a lace -/

/-- The port and the chip of a direction. -/
def Lace.way (x : Lace) (d : Dir) : Nat × Nat :=
  match d with
  | .next => (x.nextPort, x.nextChip)
  | .prev => (x.prevPort, x.prevChip)

/-- Put the link word into a 64-byte header (R357). -/
def withLinkWord (h : List Byte) (dst src flits : Nat) : List Byte :=
  slice h 0 56 ++ bytesOf 8 (dst + src * 2 ^ 20 + flits * 2 ^ 46)

/-- The port that direction-d traffic of a lace goes out on, and the one that it comes in on. -/
def State.laceOut (s : State) (l : Nat) (d : Dir) : Nat := ((s.lace l).way d).1
def State.laceIn (s : State) (l : Nat) (d : Dir) : Nat := s.laceOut l d.back

/-- Send a block or a chunk on its virtual channel: header, payload, trailer (R283, R290, R322). `owner` names the lace and the flight of a
chunk that is forwarded. -/
def State.sendLace (s : State) (l : Nat) (d : Dir) (vc : Nat) (owner : Nat × Nat) (header payload : List Byte) : State :=
  let x := s.lace l
  let (p, chip) := x.way d
  let n := 2 + ceilDiv payload.length 64
  let crc := bytesOf 4 (crc32c (header ++ payload)).toNat ++ List.replicate 60 0#8
  s.transmit p ⟨vc, owner.1, owner.2, s.chipId, 0, n,
    flitsOf (withLinkWord header chip s.chipId n) ++ flitsOf payload ++ flitsOf crc, none⟩

/-! ### Control records of the engines (R287, R293, R317, R324, R359)

The spec says what the records hold, not how their 8 bytes are laid out: byte 0 a kind, byte 1 the lane 2l + d, then the count or state. -/

/-- Put a record into the control frames of a port: its kind, its lane, six bytes. A lace of one member has no port. -/
def State.laceNote (s : State) (l : Nat) (d : Dir) (port kind : Nat) (body : List Byte) : State :=
  if (s.lace l).members ≤ 1 then s
  else s.notePort port (16 * kind + 2 * l + d.idx) (bytesOf 1 kind ++ bytesOf 1 (2 * l + d.idx) ++ slice body 0 6)

/-- The running count of credits in a record: those granted under a tag. -/
def creditCount (r : List Byte) (tag : Nat) : Nat := if r ≠ [] ∧ field r 2 4 = tag then field r 6 2 else 0

/-- Acknowledge the blocks of a lane up to a SEQNO (kind 6, R287). -/
def State.circAck (s : State) (l : Nat) (d : Dir) (seqno : Nat) : State := s.laceNote l d (s.laceIn l d) 6 (bytesOf 4 seqno)

/-- Return a credit for a slot upstream (kinds 7 and 9: of a circulation by its tag, of a collective by the low bits of its signature). -/
def State.laceCredit (s : State) (l : Nat) (d : Dir) (kind tag : Nat) : State :=
  let p := s.laceIn l d
  let n := creditCount (look noNote (s.port p).notes (16 * kind + 2 * l + d.idx)) (tag % 2 ^ 32)
  s.laceNote l d p kind (bytesOf 4 tag ++ bytesOf 2 (n + 1))

/-- Abort a circulation toward one neighbour (kind 8, R293). -/
def State.circAbort (s : State) (l : Nat) (d : Dir) (code pos : Nat) : State :=
  s.laceNote l d (s.laceOut l d) 8 (bytesOf 2 code ++ bytesOf 4 pos)

/-- Abort a collective toward one neighbour: a mismatch with its lace, its detector, its sender and its signature (kinds 10 to 12, R324), or
another error with its code, its originator and that chip (kinds 13 and 14, R325). -/
def State.collAbort (s : State) (l : Nat) (d : Dir) (a : CollAbort) : State :=
  let p := s.laceOut l d
  match a with
  | .mismatch lace det sig sender =>
    ((s.laceNote l d p 10 (bytesOf 3 det.toNat ++ bytesOf 3 sender.toNat)).laceNote l d p 11 (bytesOf 6 sig.toNat)).laceNote l d p 12
      (bytesOf 2 (sig.toNat / 2 ^ 48) ++ bytesOf 1 lace.val)
  | .error code pos chip => (s.laceNote l d p 13 (bytesOf 2 code.toNat ++ bytesOf 4 pos.toNat)).laceNote l d p 14 (bytesOf 4 chip.toNat)

/-! An abort goes out in both directions of each lace, and every other member that gets it sends it on once in both (R293, R324): one that
has sent it sees it once more from each neighbour, or had one of these already, on the lace where it came. -/

/-- Count a copy of an abort that a lace is still to see; an abort that is no copy is none of these. -/
def takeCopy (t : Tab Nat) (l : Nat) : Option (Tab Nat) := if look noCount t l = 0 then none else some (modify noCount t l (· - 1))

/-- The copies that a sent abort brings back, where it came in on lace `came`. -/
def dueCopies (t : Tab Nat) (laces : List Nat) (came : Option Nat) : Tab Nat :=
  laces.foldl (fun t l => store noCount t l (if came = some l then 1 else 2)) t

/-- Take the acknowledgement of the last circulation out of the control frames (R287): a new one begins on the lace. -/
def State.clearAcks (s : State) (l : Nat) : State :=
  [Dir.next, Dir.prev].foldl (fun s d => s.onPort (s.laceIn l d) fun x => { x with
    notes := store noNote x.notes (16 * 6 + 2 * l + d.idx) [] }) s

/-- Take the records of a lane's last abort out of the control frames: a new circulation or collective begins on it. -/
def State.clearNotes (s : State) (l : Nat) (kinds : List Nat) : State :=
  [Dir.next, Dir.prev].foldl (fun s d => s.onPort (s.laceOut l d) fun x => { x with
    notes := kinds.foldl (fun t k => store noNote t (16 * k + 2 * l + d.idx) []) x.notes }) s

/-! ### Runs -/

def State.circRun? (s : State) (l : Nat) : Option CircRun := s.circ.runs.find? fun r => r.laces.contains l

def State.collRun? (s : State) (l : Nat) : Option CollRun :=
  s.coll.runs.find? fun r => r.levels.any fun v => v.laces.contains l

def CollRun.laces (r : CollRun) : List Nat := ((r.levels.map CollLevel.laces).flatten).eraseDups

/-- Does an engine still work for this command? -/
def State.engineBusy (s : State) (id : Nat) : Bool :=
  s.circ.runs.any (·.flight == id) || s.circ.merges.any (·.flight == id) || s.coll.runs.any (·.flight == id)

/-- Send a circulation's abort on every lace and in both directions (R293). -/
def State.sendCircAbort (s : State) (laces : List Nat) (code pos : Nat) (came : Option Nat := none) : State :=
  let s := laces.foldl (fun s l => (s.circAbort l .next code pos).circAbort l .prev code pos) s
  { s with circ := { s.circ with copies := dueCopies s.circ.copies laces came } }

/-- Drop a circulation: its landing slots and credits go with it. -/
def State.dropCirc (s : State) (id : Nat) : State :=
  { s with circ := { s.circ with runs := s.circ.runs.filter fun r => r.flight != id } }

def State.dropMerge (s : State) (id : Nat) : State :=
  { s with circ := { s.circ with merges := s.circ.merges.filter fun r => r.flight != id } }

/-- Send a collective's abort in both directions of every lace; each member forwards it once (R324, R325). -/
def State.sendCollAbort (s : State) (laces : List Nat) (a : CollAbort) (came : Option Nat := none) : State :=
  let s := laces.foldl (fun s l => (s.collAbort l .next a).collAbort l .prev a) s
  { s with coll := { s.coll with copies := dueCopies s.coll.copies laces came } }

/-- The abort of a class 1 error that this chip has met, with its position on a lace (R325). -/
def State.errorAbort (s : State) (code lace : Nat) : CollAbort :=
  .error (BitVec.ofNat 16 code) (BitVec.ofNat 20 (s.lace lace).pos) (BitVec.ofNat 20 s.chipId)

/-- This chip's abort of a collective, in both directions of each lace: the chip records itself as the originator (R325). -/
def State.ownAbort (s : State) (laces : List Nat) (code lace : Nat) : State :=
  let s := (s.setReg (pageColl + 0x48) (BitVec.ofNat 32 (s.lace lace).pos)).setReg (pageColl + 0x4C) (BitVec.ofNat 32 s.chipId)
  s.sendCollAbort laces (s.errorAbort code lace)

/-- Drop a collective: its chunk buffers are emptied, and its credits end with it (R325). -/
def State.dropColl (s : State) (r : CollRun) : State :=
  { s with coll := { s.coll with
    runs := s.coll.runs.filter fun q => q.flight != r.flight,
    credits := r.laces.foldl (fun t l => store noCount t l 0) s.coll.credits,
    bufs := r.laces.foldl (fun t l => store noCount t l 0) s.coll.bufs,
    early := r.laces.foldl (fun t l => store (fun _ => []) t l []) s.coll.early } }

/-- Does a command circulate? -/
def circulates (f : Flight) : Bool := f.opcode == 0x12 || (f.opcode == 0x10 && f.get 64 1 != 0)

def isColl (op : Nat) : Bool := decide (0x20 ≤ op ∧ op ≤ 0x23)

/-- The aborts of a circulation or collective that ends here with class 1 before it has begun on this chip: on every lace of its command. -/
def State.abortUnbegun (s : State) (id code : Nat) : State :=
  match s.flight? id with
  | none => s
  | some f =>
    let ls := f.laces.filter fun l => (s.lace l).valid
    if errClass code ≠ 1 ∨ f.stage ≠ .started then s
    else if circulates f then s.sendCircAbort ls code (s.lace (s.primary (ls.headD 0))).pos
    else if isColl f.opcode then s.ownAbort ls.eraseDups code (ls.headD 0)
    else s

/-- End the engines' parts of a command that has ended with an error: abort its laces (R293, R325). -/
def State.endEngines (s : State) (id code : Nat) : State :=
  let s := s.abortUnbegun id code
  let s := (s.circ.runs.filter fun r => r.flight == id).foldl (fun s r => (s.sendCircAbort r.laces code r.pos).dropCirc id) s
  let s := s.dropMerge id
  (s.coll.runs.filter fun r => r.flight == id).foldl (fun s r =>
    let s := if r.state = 0 then s.ownAbort r.laces code (r.laces.headD 0) else s
    s.dropColl r) s

/-- Laces on which a chunk waits for a collective that this chip has not entered. -/
def State.earlyLaces (s : State) : List Nat := allLaces.filter fun l => look (fun _ => []) s.coll.early l != []

/-- The laces that the collective engine uses. -/
def State.collLaces (s : State) : List Nat := ((s.coll.runs.map CollRun.laces).flatten ++ s.earlyLaces).eraseDups

/-- The laces that the circulation engine uses. -/
def State.circLaces (s : State) : List Nat := ((s.circ.runs.map CircRun.laces).flatten).eraseDups

/-- Abort every lace in use, and empty what waits for commands to come (R443 step 3, R447). -/
def State.abortLaces (s : State) (code : Nat) : State :=
  let ids := (s.circ.runs.map CircRun.flight ++ s.circ.merges.map MergeRun.flight ++ s.coll.runs.map CollRun.flight).eraseDups
  let s := ids.foldl (fun s id => s.endEngines id code) s
  let s := s.earlyLaces.foldl (fun s l => s.ownAbort [l] code l) s
  { s with coll := { s.coll with early := [], bufs := [] }, circ := { s.circ with early := [] } }

end Sys2Proof.Machine
end

