-- ==== Sys2Proof/Machine/Contain.lean ====
section
/-! DEFINITION. Containment (chapter 16): how an error stops a core, ends a command, starts a device discard or stops the chip,
and the reads of T1 that can find an uncorrectable word. -/

namespace Sys2Proof.Machine

/-! ### Cores -/

def noFly (_ : Nat) : List InFlight := []
def noQueue (_ : Nat) : List (BitVec 128 × Nat) := []

def Engines.flyOf (g : Engines) (e : Nat) : List InFlight := look noFly g.fly e
def Engines.queueOf (g : Engines) (e : Nat) : List (BitVec 128 × Nat) := look noQueue g.queues e
def Engines.onFly (g : Engines) (e : Nat) (f : List InFlight → List InFlight) : Engines :=
  { g with fly := modify noFly g.fly e f }

/-- No issued instruction is incomplete. -/
def Engines.drained (g : Engines) : Bool := (List.range 4).all fun e => (g.flyOf e).isEmpty

/-- Blocks still to issue in an instruction (FETCH and PUT: COUNT of R95). -/
def InFlight.blocks (i : InFlight) : Nat :=
  let op := i.word.toNat / 2 ^ 120
  if op = 0x10 ∨ op = 0x30 then i.word.toNat / 2 ^ 20 % 2 ^ 16 else 0

/-- An instruction of a stopped core: its blocks not issued are gone, and one that has halted is dropped with the block it was at. -/
def InFlight.stop (i : InFlight) : InFlight :=
  if i.block < i.blocks then
    { i with block := i.blocks, halted := none, cut := true, open_ := i.open_.filter fun t => t.tags != [] }
  else i

/-- Stop dispatch and discard what has not issued: the queues, and the blocks not issued of instructions in flight. A halted
instruction is dropped (R102, R210). -/
def Engines.stop (g : Engines) : Engines :=
  { g with dispStop := true, queues := [],
           fly := (List.range 4).foldl (fun t e => modify noFly t e (List.map InFlight.stop)) g.fly }

/-- Let read data land in T0. -/
def State.landAll (s : State) (l : List (Nat × List Byte)) : State := l.foldl (fun s x => s.setT0 x.1 x.2) s

/-- Stop a core (R102). What a halted FETCH has read and holds back lands: its pieces had been issued (R209). -/
def State.stopCore (s : State) (n : Nat) : State :=
  let held := ((((s.core n).eng.flyOf 0).filter fun i => decide (i.block < i.blocks)).map fun i =>
    ((i.open_.filter fun t => t.tags == []).map Transfer.land).flatten).flatten
  (s.landAll held).onEng n Engines.stop

/-- A core is freed: it runs no command, its engines stand as before any command, and nothing of its stream is left to dispatch (R80). The
spec does not say when the HALTED bits of
CORE_STATUS clear (R107): here, as the core's part of its command ends. -/
def Engines.release (g : Engines) : Engines :=
  { g with flight := none, count := g.next, dispStop := false, queues := [], fly := [], halted := 0, broken := false, pastBreak := 0,
           failed := none, phase := 0, lastPhase := 3, limitFetch := 64, limitPut := 64 }

def allCores : List Nat := [0, 1, 2, 3, 4, 5, 6, 7]

/-- Cores that run a command. -/
def State.coresOf (s : State) (id : Nat) : List Nat := allCores.filter fun n => (s.core n).eng.flight == some id

/-- The ranked list that a core's scan unit holds for ALMANAC_SELECT, which goes on with it (R271). -/
def State.scanLists (s : State) (f : Flight) (n : Nat) : List (List Hit) :=
  if f.opcode = 0x15 then [look (fun _ => []) (s.core n).scan.lists 0] else []

/-- Once a command's part has been ended, free each of its cores whose transfers have finished (R102); and once its cores and
engines are done, its part on this chip is over. ALMANAC_SELECT and SCAN_TOPK go on after their cores, and end by their own steps. -/
def State.settle (s : State) (id : Nat) : State :=
  match s.flight? id with
  | none => s
  | some f =>
    let s := (s.coresOf id).foldl (fun s n =>
      let g := (s.core n).eng
      let done := f.cut || (decide (g.halted = 15) && g.failed.isNone)
      if g.drained && done then
        let ls := s.scanLists f n
        (s.onFlight id fun f => { f with lists := f.lists ++ ls }).onEng n Engines.release
      else s) s
    if (s.coresOf id).isEmpty && !s.engineBusy id && f.stage == .running && f.cores != [] && f.halted.isNone &&
        f.opcode != 0x15 && f.opcode != 0x30 then s.onFlight id Flight.finish else s

/-- End a command's part on this chip (R441): its cores stop, its engines' parts end, and it is over once they are done. A command
without cores or engines is over at once. -/
def State.endPart (s : State) (id code : Nat) : State :=
  let s := s.onFlight id fun f => { f with cut := true }
  let s := (s.coresOf id).foldl State.stopCore s
  let s := (s.endEngines id code).settle id
  if (s.coresOf id).isEmpty && !s.engineBusy id then s.onFlight id Flight.finish else s

/-- A class 1 error ends a command, and a group-scoped one on every member (R441, R442). -/
def State.endCommand (s : State) (id code : Nat) (detail : Word) : State :=
  match s.flight? id with
  | none => s
  | some f =>
    if f.dropped then s else
    let s := if f.scope && !f.cut && decide (errClass code = 1) then s.tellEnd f.group 0 f.tagWord.toNat f.queue code else s
    (s.onFlight id fun f => f.fail code s.unit detail).endPart id code

/-- Record a class 1 error that this chip detects for a command, and end the command with it. `more` fills the upper bits of the
code's own ERR_INFO; for a code of command processing they hold the queue. -/
def State.failCommand (s : State) (id code : Nat) (detail : Word) (more : Nat := 0) : State :=
  let s := match s.flight? id with
    | some f =>
      (s.recordCode code (if code / 0x40 % 0x40 = 3 then f.queue * 2 ^ 16 else more)).logError code f.queue f.scope f.tagWord
    | none => (s.recordCode code 0).logError code 0 false 0#32
  s.endCommand id code detail

/-! ### Device discard (R443, R444) -/

/-- Groups with a group-scoped command in flight on the chip: one whose own part here is over is in flight until it completes. -/
def State.groupsInFlight (s : State) : List Nat := ((s.cmd.flights.filter Flight.scope).map Flight.group).eraseDups

/-- DISCARD_STAT (R450). -/
def State.setDiscardStat (s : State) (busy : Bool) (code : Nat) : State :=
  s.setReg 0x208 (BitVec.ofNat 32 ((if busy then 1 else 0) + code * 2 ^ 16))

/-- A command when a discard begins (R443): one whose part is over and that gathers nothing, and one that a class 1 error has ended, keep their
own code. -/
def Flight.discard (f : Flight) (code : Nat) (unit : Word) : Flight :=
  if (f.stage = .ended ∧ f.branches = []) ∨ errClass f.error = 1 then { f with stage := .ended }
  else { f.fail code unit 0#32 with dropped := true, stage := .ended }

/-- Steps 1 to 4 of R443. `own` is the command that raised the event; `silent` the group whose notice started it, to which no
notice goes (R444). An event during a discard joins it. -/
def State.startDiscard (s : State) (code : Nat) (own : Option Nat) (silent : Option Nat) : State :=
  if s.disc.busy then
    { s with disc := { s.disc with noticed := match silent with
      | some g => g :: s.disc.noticed
      | none => s.disc.noticed } }
  else
  let gs := s.groupsInFlight
  let cl := s.collLaces
  let rl := s.circLaces
  let s := s.setDiscardStat true code
  let s := allCores.foldl State.stopCore s
  let s := s.abortLaces code
  let fs := s.cmd.flights.map fun f => f.discard (if own = some f.id then code else eCmdDiscarded) s.unit
  let s := { s with
    cmd := { s.cmd with flights := fs }
    disc := { busy := true, code := code, own := own, groups := gs, collLaces := cl, circLaces := rl, noticed := match silent with
      | some g => [g]
      | none => [] } }
  (gs.filter fun g => some g ≠ silent).foldl (fun s g => s.toMembers g 0 4 0 (bytesOf 2 code)) s

/-! ### Errors of a core (R102) -/

/-- CORE_ERR_INFO and CORE_ERR_PC, where they hold no code yet (R102, R104). -/
def State.coreInfo (s : State) (n e code pc : Nat) : State :=
  let p := pageCore n
  if (s.reg (p + 0xC0)).toNat % 2 ^ 16 = 0 then
    ((s.setReg (p + 0xC0) (BitVec.ofNat 32 (code + e * 2 ^ 16))).setReg (p + 0xC4) (BitVec.ofNat 32 pc)).setReg (p + 0xC8)
      (BitVec.ofNat 32 (pc / 2 ^ 32))
  else s

/-- What a core records of an error once its transfers have finished (R102): CORE_ERR_INFO and CORE_ERR_PC, and, unless the destination of
a refused request has done so, the code in its block. -/
def State.coreRecord (s : State) (n : Nat) (x : CoreFault) : State :=
  let s := s.coreInfo n x.engine x.code x.pc
  if x.refused then s else s.recordCode x.code x.more

/-- The entry of the error log for an error that a core detects (R450). -/
def State.coreLog (s : State) (n code : Nat) : State :=
  match (s.core n).eng.flight.bind s.flight? with
  | some f => s.logError code f.queue f.scope f.tagWord
  | none => s.logError code 0 false 0#32

/-- Report the error that a stopped core has held back, once its transfers have finished (R102): it is recorded, and by its class it ends
the command or discards the work in flight on the chip (R441). -/
def State.coreReport (s : State) (n : Nat) : State :=
  let g := (s.core n).eng
  match g.failed with
  | none => s
  | some x =>
    if !g.drained then s
    else
      let s := (s.coreRecord n x).onEng n fun g => { g with failed := none }
      if errClass x.code = 2 then s.startDiscard x.code g.flight none
      else match g.flight with
        | some id => s.endCommand id x.code 0#32
        | none => s

/-- A core detects a class 1 error: it is logged, the core stops, and reports once its issued transfers have finished (R102). An error of
a core that has stopped changes nothing. -/
def State.coreStop (s : State) (n : Nat) (x : CoreFault) : State :=
  if (s.core n).eng.failed.isSome then s
  else
    let s := if x.refused then s else s.coreLog n x.code
    ((s.stopCore n).onEng n fun g => { g with failed := some x }).coreReport n

/-- A core detects a class 1 error in the instruction at T1 offset `pc` of engine `e` (R102). `more` fills the upper bits of
the code's own ERR_INFO. -/
def State.coreFail (s : State) (n e code pc : Nat) (more : Nat := 0) : State := s.coreStop n ⟨code, e, pc, more, false⟩

/-- A destination has refused what an instruction of a core asked of it: the core stops with the code, which the destination has
recorded (R102, R131). -/
def State.coreRefused (s : State) (n e code pc : Nat) : State := s.coreStop n ⟨code, e, pc, 0, true⟩

/-- A core detects a class 2 error (R101, R102, R161). A class 1 error that it has not reported yet is recorded first (R443). The spec names
no failing instruction, so the engine and the offset recorded are free values. -/
def State.coreClass2 (s : State) (n code : Nat) : State :=
  let s := match (s.core n).eng.failed with
    | some x => s.coreRecord n x
    | none => s
  let s := s.coreLog n code
  let (v, s) := s.draw
  let x : CoreFault := ⟨code, v.toNat % 4, v.toNat / 4 % 2 ^ 42, 0, false⟩
  ((s.stopCore n).onEng n fun g => { g with failed := some x }).coreReport n

/-! ### Events of class 2 and 4 -/

/-- A class 2 event on this chip: recorded in its block, logged, and a discard started (R441, R443, R450). -/
def State.class2 (s : State) (code more : Nat) (own : Option Nat) : State :=
  let s := s.recordCode code more
  let s := match own.bind s.flight? with
    | some f => s.logError code f.queue f.scope f.tagWord
    | none => s.logError code 0 false 0#32
  s.startDiscard code own none

/-- A class 4 event: recorded, logged when configured, and put into the command's record where it has one (R446). -/
def State.advisory (s : State) (code more : Nat) (own : Option Nat) : State :=
  let s := s.recordCode code more
  let s := match own.bind s.flight? with
    | some f => s.logError code f.queue f.scope f.tagWord
    | none => s.logError code 0 false 0#32
  match own with
  | some id => s.onFlight id fun f => f.fail code s.unit 0#32
  | none => s

/-- An error of any class that ends a command's part, by its class (R441). -/
def State.failBy (s : State) (id code : Nat) (detail : Word) : State :=
  if errClass code = 2 then s.class2 code 0 (some id) else s.failCommand id code detail

/-! ### Reads of T1 -/

/-- Report `T1_UE` for a word (R190). -/
def State.reportUe (s : State) (w : Nat) (own : Option Nat) : State :=
  let s := s.bump (pageMem + 0x48)
  let s := s.setCount (pageMem + 0x4C) (32 * w)
  s.class2 eT1Ue 0 own

/-- Handles that the blocks of an instruction in flight name (SRC_KIND or DST_KIND 2). -/
def State.blockHandles (s : State) (n : Nat) (i : InFlight) : List Nat :=
  let w := i.word.toNat
  if i.blocks ≠ 0 ∧ w / 2 ^ 36 % 4 = 2 ∧ (i.block < i.blocks ∨ i.open_ ≠ []) then
    (List.range i.blocks).map fun k => natOf (s.ws n (64 * (w % 2 ^ 20) + 64 * k) 4) % 2 ^ 16
  else []

/-- REFS: the streams in flight that name an object (R192, R198). -/
def State.streams (s : State) (obj : Nat) : Nat :=
  ((allCores.map fun n => ([0, 3].map fun e =>
    (((s.core n).eng.flyOf e).filter fun i => (s.blockHandles n i).contains obj).length).sum).sum) +
  ((s.cmd.flights.filter fun f => f.opcode = 0x40 && f.stage == .running &&
    ((f.get 16 1 == 2 && f.get 32 4 % 2 ^ 16 == obj) || (f.get 17 1 == 2 && f.get 48 4 % 2 ^ 16 == obj))).length)

/-- The bytes of T1 as a reader gets them. REFS of a placement entry is no stored field: wherever the table is read, its bytes are the count
of the streams in flight at that moment (R192). -/
def State.t1Seen (s : State) (off n : Nat) : List Byte :=
  let b := s.ptBase
  if n = 0 ∨ off + n ≤ b ∨ b + 0x400000 ≤ off then s.t1 off n
  else (s.t1 off n).zipIdx.map fun (v, k) =>
    let a := off + k
    if b ≤ a ∧ a < b + 0x400000 ∧ 48 ≤ (a - b) % 64 ∧ (a - b) % 64 < 52 then
      BitVec.ofNat 8 (s.streams ((a - b) / 64) / 256 ^ ((a - b) % 64 - 48))
    else v

/-- Read T1 as a client does: the bytes, or none where the range touches a poisoned word, which the returned state reports
(R190). Bytes read are counted (R219). -/
def State.readT1 (s : State) (off n : Nat) (own : Option Nat) : Option (List Byte) × State :=
  match s.poisonIn off n with
  | some w => (none, s.reportUe w own)
  | none => (some (s.t1Seen off n), s.bump64 (pageMem + 0xD0) n)

/-! ### Fatal errors (R445) -/

/-- A command in flight when a class 3 error stops the chip: one whose part is over and that gathers nothing keeps its own code. -/
def Flight.stopped (f : Flight) (code : Nat) (unit : Word) : Flight :=
  if f.stage = .ended ∧ f.branches = [] ∧ f.dropped = false then f
  else { f.fail code unit 0#32 with stage := .ended, dropped := false }

/-- A class 3 error stops the chip: FAULT_N, FATAL_CODE, a record for each command in flight, and a notice on every UP port. The notice
names no chip: it goes to the port's peer. -/
def State.fatalStop (s : State) (code : Nat) : State :=
  if s.fatal then s.logError code 0 false 0#32 else
  let s := s.recordCode code 0
  let s := s.logError code 0 false 0#32
  let s := s.setReg 0x210 (BitVec.ofNat 32 (code + 2 ^ 16))
  let s := { s with fatal := true }
  let s := { s with cmd := { s.cmd with flights := s.cmd.flights.map fun f => f.stopped code s.unit } }
  ((List.range 18).filter fun p => s.portState p = 2).foldl
    (fun s p => s.awlOn p ((s.reg (pageLink p + 0x4C)).toNat % 2 ^ 20) 0 [] (bytesOf 4 5 ++ bytesOf 4 0 ++ bytesOf 2 code)
      (.fan s.chipId 5 p (bytesOf 2 code))) s

end Sys2Proof.Machine
end

