-- ==== Sys2Proof/Machine/Flags.lean ====
section
/-! DEFINITION. Counters (R113 to R117, R131): reading, adding, taking, and the errors an update can make. The counters are the
block's flags: every order between agents is made of them. -/

namespace Sys2Proof.Machine

/-- 2^48 and 2^32, the bounds of R113. -/
def eventLimit : Nat := 2 ^ 48
def creditLimit : Nat := 2 ^ 32

def State.coreCtr (s : State) (n i : Nat) : Nat := look noCount (s.core n).ctr i

def State.setCoreCtr (s : State) (n i v : Nat) : State := s.onCore n fun c => { c with ctr := store noCount c.ctr i v }

def State.chipCtr (s : State) (i : Nat) : Nat := look noCount s.sync.ctr i

def State.setChipCtr (s : State) (i v : Nat) : State := { s with sync := { s.sync with ctr := store noCount s.sync.ctr i v } }

/-- The kind of chip counter i in force: true for credit (R114). -/
def State.isCredit (s : State) (i : Nat) : Bool := (s.stg (pageSync + 0x200 + 4 * (i / 32))).getLsbD (i % 32)

/-- Where a core counter's last increment is kept, after the 4,096 chip counters. -/
def coreKey (n i : Nat) : Nat := 4096 + 128 * n + i

/-- DBG_LAST_SRC (R134): chip, source kind, core, engine. -/
def srcWord (chip kind core engine : Nat) : Nat := chip + kind * 2 ^ 20 + core * 2 ^ 24 + engine * 2 ^ 27

def State.noteLast (s : State) (key src amount : Nat) : State :=
  { s with sync := { s.sync with lastSrc := store noCount s.sync.lastSrc key src,
                                 lastAmt := store noCount s.sync.lastAmt key (amount % 2 ^ 24) } }

/-- The value after an increment, or the error of R116. -/
def raised (credit : Bool) (v amount : Nat) : Except Nat Nat :=
  if credit then (if creditLimit ≤ v + amount then .error eCreditOvf else .ok (v + amount))
  else if eventLimit ≤ v + amount then .error eCtrWrap else .ok (v + amount)

/-- An increment arrives at a core counter (R113, R116, R117): the new state, and the code where it is refused. -/
def State.addCore (s : State) (n i amount src : Nat) : State × Option Nat :=
  if (s.core n).eng.flight.isNone then (s, some eSigIdleCore)
  else match raised (decide (96 ≤ i)) (s.coreCtr n i) amount with
    | .error c => (s, some c)
    | .ok v => ((s.setCoreCtr n i v).noteLast (coreKey n i) src amount, none)

/-! ### What waits on a chip counter (R115, R118, R124) -/

/-- A WAIT command takes its turn: it is satisfied, and takes from a credit counter, or goes on waiting (R118). -/
def State.tryWait (s : State) (f : Flight) : State :=
  let i := f.get 20 2
  let expect := f.get 24 8
  let v := s.chipCtr i
  let s := s.onFlight f.id fun f => { f with stage := .running }
  if v < expect then s
  else
    let s := if s.isCredit i then s.setChipCtr i (v - expect) else s
    s.onFlight f.id fun f => { f.finish with result := v }

/-- The WAIT commands of the queues below `q` that wait on counter i are tried in ascending queue number (R115). -/
def State.takeWaits (s : State) (i q : Nat) : State :=
  (List.range q).foldl (fun s q =>
    match s.cmd.flights.find? fun f => f.queue = q && f.opcode = 0x43 && f.stage == .running && f.get 20 2 = i with
    | some f => s.tryWait f
    | none => s) s

/-- The release counter of the group that a barrier command names. -/
def State.releaseCtr (s : State) (f : Flight) : Option Nat := (s.group? f.group).map Group.ctr

/-- End the barrier commands whose round chip counter i has reached (R124). -/
def State.wakeBarriers (s : State) (i : Nat) : State :=
  { s with cmd := { s.cmd with flights := s.cmd.flights.map fun f =>
    if f.opcode = 0x41 ∧ f.stage = .running ∧ s.releaseCtr f = some i ∧ f.round ≤ s.chipCtr i then
      { f.finish with result := f.round } else f } }

/-- An increment arrives at a chip counter (R113, R114, R116). -/
def State.addChip (s : State) (i amount src : Nat) : State × Option Nat :=
  match raised (s.isCredit i) (s.chipCtr i) amount with
  | .error c => (s, some c)
  | .ok v => (((s.setChipCtr i v).noteLast i src amount).wakeBarriers i, none)

/-- A signed amount at a chip counter (R115, R116, R118). A negative one comes after the takes of the WAIT commands that wait. -/
def State.addChipSigned (s : State) (i : Nat) (amount : Int) (src : Nat) : State × Option Nat :=
  if 0 ≤ amount then s.addChip i amount.toNat src
  else if !s.isCredit i then (s, some eCcDecEvent)
  else
    let s := s.takeWaits i 64
    if s.chipCtr i < amount.natAbs then (s, some eCcCreditNeg)
    else (s.setChipCtr i (s.chipCtr i - amount.natAbs), none)

/-- Record a counter error of the synchronisation block with the counter's index (R131, R134). -/
def State.ctrErr (s : State) (code index : Nat) : State :=
  (s.recordCode code (index % 2 ^ 12 * 2 ^ 16)).logError code 0 false 0#32

/-- A wait on a core counter (R82). -/
def waitHolds (ctr value expect : Nat) : Bool :=
  if ctr < 96 then decide ((value + 2 ^ 24 - expect % 2 ^ 24) % 2 ^ 24 < 2 ^ 23) else decide (expect ≤ value)

end Sys2Proof.Machine
end

