-- ==== Sys2Proof/Machine/Issue.lean ====
section
/-! DEFINITION. The instruction word of a core (R91, R92, R95), dispatch, phases, the issue of a queue head, and completion
(R80 to R89, R93, R102). -/

namespace Sys2Proof.Machine

/-! ### The word (R91) -/

def opOf (w : Nat) : Nat := bitsOf w 127 120
def engOf (w : Nat) : Nat := bitsOf w 119 118
def waitEn (w : Nat) : Bool := bitsOf w 117 117 = 1
def sigEn (w : Nat) : Bool := bitsOf w 116 116 = 1
def waitCtr (w : Nat) : Nat := bitsOf w 115 109
def sigCtr (w : Nat) : Nat := bitsOf w 108 102
def opfOf (w : Nat) : Nat := bitsOf w 101 98
def breakFlag (w : Nat) : Bool := bitsOf w 97 97 = 1
def traceFlag (w : Nat) : Bool := bitsOf w 96 96 = 1
def expectOf (w : Nat) : Nat := bitsOf w 95 72
def operands (w : Nat) : Nat := bitsOf w 71 0

/-- The class of an opcode (R87): 0 N, 1 F, 2 C, 3 D. -/
def classOf (op : Nat) : Nat := if op = 0x10 then 1 else if op / 16 = 2 then 2 else if op = 0x30 then 3 else 0

/-- The engines an opcode may name, as a bit mask; 0 for an unlisted opcode (R92, R95). -/
def enginesOf (op : Nat) : Nat :=
  if op = 0 ∨ op = 1 ∨ op = 2 then 0xF
  else if op = 3 then 0x9
  else if op = 0x10 then 1
  else if 0x20 ≤ op ∧ op ≤ 0x25 then 2
  else if 0x30 ≤ op ∧ op ≤ 0x35 then 8
  else if 0x40 ≤ op ∧ op ≤ 0x45 then 4
  else 0

/-- The formats the plane takes (R46, R94). -/
def planeFmt (f : Nat) : Bool := decide (1 ≤ f ∧ f ≤ 8)

def vecFmt (f : Nat) : Bool := decide (f ≤ 10)

/-- Highest operand bit in use, plus one (R95). -/
def operandBits (op : Nat) : Nat :=
  match op with
  | 0x01 => 32 | 0x03 => 9 | 0x10 => 38 | 0x20 => 66 | 0x21 => 70 | 0x22 => 20 | 0x23 => 55 | 0x24 => 27 | 0x25 => 20
  | 0x30 => 38 | 0x31 => 71 | 0x32 => 20 | 0x34 => 57 | 0x35 => 7 | 0x40 => 64 | 0x41 => 67 | 0x42 => 43 | 0x43 => 48
  | 0x44 => 52 | 0x45 => 8 | _ => 0

/-- OPF bits with a meaning (R92): SWAP of MATMUL, all of RSTAT, OPF[0] of ATTN_END. -/
def opfBits (op : Nat) : Nat :=
  match op with
  | 0x21 => 2 | 0x42 => 16 | 0x24 => 2 | _ => 1

def vopListed (o : Nat) : Bool := decide (o ≤ 0xA ∨ o = 0x10 ∨ o = 0x11)

/-- Each field encoding within its stated range (R92, R95). -/
def fieldsOk (op w : Nat) : Bool :=
  let b := bitsOf w
  match op with
  | 0x01 => b 7 7 == 0
  | 0x03 => decide (1 ≤ b 8 0 ∧ b 8 0 ≤ 256)
  | 0x10 | 0x30 => decide (1 ≤ b 35 20 ∧ b 37 36 ≤ 2)
  | 0x20 =>
    planeFmt (b 43 40) && decide (1 ≤ b 53 44 ∧ b 53 44 ≤ 512 ∧ 1 ≤ b 63 54 ∧ b 65 64 ≤ 2 ∧
      b 63 54 ≤ (if b 65 64 = 0 then 512 else 256))
  | 0x21 => planeFmt (b 58 55)
  | 0x24 => decide (b 26 23 ≤ 4) && (opfOf w == 0 || b 26 23 == 0)
  | 0x31 => decide (1 ≤ b 62 43)
  | 0x34 => decide (1 ≤ b 56 33) && (b 20 20 == 0 || b 32 31 == 0)
  | 0x35 => decide (b 2 0 ≤ 5)
  | 0x40 =>
    decide (1 ≤ b 12 0 ∧ b 12 0 ≤ 4096 ∧ 1 ≤ b 25 13 ∧ b 25 13 ≤ 4096) && vecFmt (b 29 26) && vecFmt (b 33 30) &&
      vecFmt (b 37 34)
  | 0x41 => vopListed (b 66 61) && (b 60 60 == 0 || b 39 23 == 0)
  | 0x42 => (b 40 40 == 0 || b 19 3 == 0) && !(bitsOf (opfOf w) 1 1 == 1 && decide (2 ≤ bitsOf (opfOf w) 3 2))
  | 0x43 => decide (b 47 41 ≤ 0xB) && (b 40 40 == 0 || b 39 23 == 0)
  | _ => true

/-- Does a word pass the dispatcher's decode (R92)? -/
def wordOk (w : Nat) : Bool :=
  let op := opOf w
  bitsOf (enginesOf op) (engOf w) (engOf w) == 1 &&
  decide (opfOf w < opfBits op) &&
  decide (operands w < 2 ^ operandBits op) &&
  (waitEn w || expectOf w == 0) &&
  (!(waitEn w && decide (96 ≤ waitCtr w)) || decide (1 ≤ expectOf w ∧ expectOf w < 2 ^ 23)) &&
  fieldsOk op w

/-! ### State of a core between instructions -/

/-- The head of an engine's queue: its word and T1 offset. -/
def State.head (s : State) (n e : Nat) : Option (BitVec 128 × Nat) := ((s.core n).eng.queueOf e).head?

/-- Is a core gated? Every core is until the power controller has commanded a voltage (R76, R504). -/
def State.gated (s : State) (n : Nat) : Bool := (s.core n).eng.gated || !s.power.lit

/-- A core whose engines run: it has a command, and nothing stops it. -/
def State.coreLive (s : State) (n : Nat) : Bool :=
  let g := (s.core n).eng
  g.flight.isSome && !g.broken && !s.gated n && !g.resetting && g.failed.isNone && !s.fatal

/-- BLK_CTRL of a core (R105); BREAK_EN counts only while the debug configuration permits it (R481). -/
def State.coreCtrl (s : State) (n bit : Nat) : Bool :=
  (s.reg (pageCore n + 8)).getLsbD bit && (bit != 2 || s.debugPerm 1)

/-- Is the wait of a word satisfied (R81, R82)? -/
def State.waitOk (s : State) (n w : Nat) : Bool :=
  !waitEn w || waitHolds (waitCtr w) (s.coreCtr n (waitCtr w)) (expectOf w)

/-- Does an instruction of a class stand in flight on the core? -/
def Engines.classInFlight (g : Engines) (k : Nat) : Bool :=
  (List.range 4).any fun e => (g.flyOf e).any fun i => classOf (opOf i.word.toNat) == k

/-- Is a ready head of a class there (R88)? -/
def State.readyHead (s : State) (n k : Nat) : Bool :=
  (List.range 4).any fun e =>
    match s.head n e with
    | some (w, _) => classOf (opOf w.toNat) == k && s.waitOk n w.toNat
    | none => false

/-- May an instruction of this opcode issue in the core's phase (R87)? -/
def State.phaseOk (s : State) (n op : Nat) : Bool := classOf op == 0 || classOf op == (s.core n).eng.phase

/-! ### Dispatch (R80, R92) -/

/-- Is the dispatcher able to take its next word? -/
def State.dispatchReady (s : State) (n : Nat) : Bool :=
  let g := (s.core n).eng
  s.coreLive n && !g.dispStop && decide (g.next < g.count) && !s.mem.wiping

/-- The dispatcher's step: read the word, check it, and place it in its queue, or stop at it. It waits while that queue is full. The spec
does not say when the 32 KiB buffer reads ahead: here each word is read, and counted, as it leaves the buffer. -/
def State.dispatchStep (s : State) (n : Nat) : State :=
  let g := (s.core n).eng
  let pc := g.base + 16 * g.next
  let full (w : Nat) : Bool := wordOk w && decide (64 ≤ (g.queueOf (engOf w)).length)
  if s.poisonIn pc 16 = none ∧ full (natOf (s.t1Seen pc 16)) = true then s
  else match s.readT1 pc 16 g.flight with
    | (none, s) => s
    | (some bs, s) =>
      let w := natOf bs
      if !wordOk w then s.coreFail n (engOf w) (eCore n 1) pc
      else s.onEng n fun g => { g with next := g.next + 1,
                                       queues := modify noQueue g.queues (engOf w) (· ++ [(BitVec.ofNat 128 w, pc)]) }

/-! ### Phases (R88) -/

/-- The first of the classes F, C, D, searched in cyclic order from the one after `k`, that has a ready head. -/
def State.nextPhase (s : State) (n k : Nat) : Option Nat :=
  [k % 3 + 1, (k + 1) % 3 + 1, (k + 2) % 3 + 1].find? (s.readyHead n)

/-- Has the current phase ended? IDLE always has. -/
def State.phaseEnded (s : State) (n : Nat) : Bool :=
  let k := (s.core n).eng.phase
  k == 0 || (!(s.core n).eng.classInFlight k && !s.readyHead n k)

def State.phaseStep (s : State) (n : Nat) : State :=
  if !s.phaseEnded n then s else
  let g := (s.core n).eng
  let last := if g.phase = 0 then g.lastPhase else g.phase
  match s.nextPhase n last with
  | some k => s.onEng n fun g => { g with phase := k, lastPhase := last }
  | none => s.onEng n fun g => { g with phase := 0, lastPhase := last }

/-! ### Issue (R81, R87) -/

/-- An issued instruction with nothing outstanding. -/
def InFlight.new (iid : Nat) (w : BitVec 128) (pc : Nat) : InFlight := ⟨iid, w, pc, 0, 0, none, [], [], false⟩

def State.traceEvent (s : State) (n e w pc : Nat) (complete : Bool) : State :=
  if traceFlag w && s.coreCtrl n 3 then s.send (.trace n e pc complete) else s

/-- Clear a bit of a mask. -/
def clearBit (m e : Nat) : Nat := if m.testBit e then m - 2 ^ e else m

/-- Bits of an element of a plane format (R46). -/
def planeBits (f : Nat) : Nat := match Fmt.ofCode f with
  | some f => f.bits
  | none => 0

/-- A field that gives a count of up to 4,096, 0 meaning 4,096. -/
def count4096 (v : Nat) : Nat := if v = 0 then 4096 else v

/-- What an instruction adds to the activity counters of its core as it issues: a counter and its events. DESIGN CHOICE (log 72): the spec names
the events and does not say how each is counted. -/
def State.activity (s : State) (n w : Nat) : List (Nat × Nat) :=
  let o := 64 * bitsOf w 19 0
  let lanes := match (s.core n).vcfg with
    | some v => bitsOf v.toNat 12 0 * bitsOf v.toNat 25 13
    | none => 0
  match opOf w with
  | 0x20 => [(1, bitsOf w 53 44 * ((bitsOf w 63 54 * planeBits (bitsOf w 43 40) + 7) / 8))]
  | 0x21 => [(0, count4096 (bitsOf w 51 40)), (5, count4096 (bitsOf w 51 40))]
  | 0x23 =>
    let r := (s.core n).plane.record.getD []
    let blocks := ceilDiv (count4096 (bitsOf w 51 40)) (if field r 20 1 = 0 then 256 else 128)
    [(0, blocks * field r 10 2), (5, blocks * field r 10 2)]
  | 0x25 => [(0, field (s.ws n o 64) 24 4)]
  | 0x31 => [(4, 64 * bitsOf w 62 43), (6, 1)]
  | 0x41 | 0x42 => [(2, lanes)]
  | 0x43 | 0x44 => [(3, lanes)]
  | _ => []

/-- Add to the activity counters of a core. -/
def Engines.act (g : Engines) (l : List (Nat × Nat)) : Engines :=
  { g with acts := l.foldl (fun t x => modify noCount t x.1 (· + x.2)) g.acts }

/-- Take the head of a queue: its credit wait takes EXPECT, and it enters the instructions in flight. -/
def State.take (s : State) (n e : Nat) (w : BitVec 128) (pc : Nat) : State :=
  let x := w.toNat
  let acts := s.activity n x
  let s := if waitEn x && decide (96 ≤ waitCtr x) then s.setCoreCtr n (waitCtr x) (s.coreCtr n (waitCtr x) - expectOf x) else s
  let s := s.onEng n fun g => { g.act acts with
    queues := modify noQueue g.queues e List.tail,
    fly := modify noFly g.fly e (· ++ [InFlight.new g.nextIid w pc]),
    nextIid := g.nextIid + 1, pastBreak := clearBit g.pastBreak e }
  s.traceEvent n e x pc false

/-! ### What holds a head back (R79, R81, R96, R115, R155, R214, R223) -/

/-- Does an instruction of one of these opcodes stand in flight in an engine? -/
def State.inFlight (s : State) (n e : Nat) (ops : List Nat) : Bool :=
  ((s.core n).eng.flyOf e).any fun i => ops.contains (opOf i.word.toNat)

/-- Opcodes of the vector engine that take a turn in it: all but VCFG. -/
def vectorOps : List Nat := [0x41, 0x42, 0x43, 0x44, 0x45]

/-- Is a swap or a change of COMPAT committed and not yet in effect (R155, R164)? -/
def Sfu.pending (u : Sfu) : Bool := u.swapPending || u.compatPending.isSome

/-- Is a head free of the earlier work of its own engine, and of what else its instruction waits for? A FENCE stands between an AWL_PUT and
the signal that announces it, so SIG_REMOTE and a RING_SEND that signals wait for it (R96, R112). -/
def State.ownFree (s : State) (n w : Nat) : Bool :=
  match opOf w with
  | 0x20 => !s.inFlight n 1 [0x20, 0x23]
  | 0x21 => !s.inFlight n 1 [0x23] && (opfOf w == 0 || !s.inFlight n 1 [0x20])
  | 0x23 => !s.inFlight n 1 [0x20, 0x21, 0x25]
  | 0x24 => !((s.core n).eng.flyOf 1).any fun i => opOf i.word.toNat == 0x23 && bitsOf i.word.toNat 54 52 == bitsOf w 22 20
  | 0x25 => !s.inFlight n 1 [0x23]
  | 0x31 => !(bitsOf w 70 70 == 1 && s.inFlight n 3 [0x33])
  | 0x32 => decide ((s.core n).eng.awls.length < 16) && !s.mem.wiping
  | 0x34 => !s.inFlight n 3 [0x30, 0x31, 0x33]
  | 0x41 | 0x42 | 0x45 => !s.inFlight n 2 vectorOps
  | 0x43 | 0x44 => !s.inFlight n 2 vectorOps && !(s.core n).sfu.pending && !s.commit.pending.contains (0x10 + n)
  | _ => true

/-! ### Issue limits (R418, R420) -/

def k64 (_ : Nat) : Nat := 64

def Power.capOf (p : Power) (c : Nat) : Nat := look k64 p.kCap c

def State.alertEn (s : State) : Bool := (s.stg 0x0100114).getLsbD 6
def State.alertK (s : State) : Nat := (s.stg 0x0100114).toNat % 64

/-- The issue limit in force on a core (R420). -/
def State.issueK (s : State) (c : Nat) : Nat :=
  let p := s.power
  let k := min (p.capOf c) p.kTherm
  let k := if p.clamp ∨ p.pmbFail then min k 16 else k
  if p.alert ∧ s.alertEn then min k s.alertK else k

/-- Is cycle j of a frame of 64 an issue slot of limit k (R418)? -/
def issueSlot (k j : Nat) : Bool := decide (j * k / 64 < (j + 1) * k / 64)

/-- May the plane begin a streamed row on this core now (R418)? Where the frames stand against the time counter, the spec does not say: the
number of the present arithmetic cycle is a constant of Config without a body. -/
def State.slotNow (s : State) (n : Nat) : Bool := decide (64 ≤ s.issueK n) || issueSlot (s.issueK n) (Config.arithCycle s.time n % 64)

/-- Opcodes whose rows the issue limit holds: MATMUL, ATTN_KV, SCAN. -/
def rowOp (op : Nat) : Bool := op == 0x21 || op == 0x23 || op == 0x25

/-- Does an instruction take from core credit counter i as it issues: by its wait, or as a CTR_ADD with a negative amount? -/
def takesFrom (w i : Nat) : Bool :=
  decide (96 ≤ i) && ((waitEn w && waitCtr w == i) || (opOf w == 1 && bitsOf w 6 0 == i && bitsOf w 31 31 == 1))

/-- Would the head of a queue issue but for the issue limit? A queue that has executed HALT has ended (R93). -/
def State.headFree (s : State) (n e : Nat) : Bool :=
  match s.head n e with
  | none => false
  | some (w, _) =>
    s.coreLive n && !((s.core n).eng.halted.testBit e) && s.waitOk n w.toNat && s.phaseOk n (opOf w.toNat) && s.ownFree n w.toNat

/-- Does the issue limit hold back the head of a queue (R418)? -/
def State.throttles (s : State) (n e : Nat) : Bool :=
  match s.head n e with
  | none => false
  | some (w, _) => s.headFree n e && rowOp (opOf w.toNat) && !s.slotNow n

/-- Would the head of a queue issue now, the takes of the other queues apart? -/
def State.headReady (s : State) (n e : Nat) : Bool := s.headFree n e && !s.throttles n e

/-- Is a head of a lower-numbered engine ready that takes from a credit counter from which this word takes? It goes first (R115). -/
def State.outTaken (s : State) (n e w : Nat) : Bool :=
  (List.range e).any fun e' =>
    match s.head n e' with
    | none => false
    | some (v, _) => s.headReady n e' && (List.range 32).any fun i => takesFrom v.toNat (96 + i) && takesFrom w (96 + i)

/-- Would the head of queue e, an instruction of opcode `op`, issue now? -/
def State.mayIssue (s : State) (n e op : Nat) : Bool :=
  match s.head n e with
  | none => false
  | some (w, _) => opOf w.toNat == op && s.headReady n e && !s.outTaken n e w.toNat

/-- The issue of a head of opcode `op`. `check`: the checks made at issue (R92), with
the code of the one that fails. `effect` gets the operand word, the T1 offset, and the instruction's number in flight. -/
def State.issue (s : State) (n e op : Nat) (check : Nat → State → Option Nat)
    (effect : Nat → Nat → Nat → State → State) : State :=
  match s.head n e with
  | none => s
  | some (w, pc) =>
    let x := w.toNat
    if !s.mayIssue n e op then s
    else if breakFlag x && s.coreCtrl n 2 && !(s.core n).eng.pastBreak.testBit e then
      s.onEng n fun g => { g with broken := true, pastBreak := Nat.lor g.pastBreak (2 ^ e) }
    else match check x s with
      | some code => s.coreFail n e code pc
      | none => effect x pc (s.core n).eng.nextIid (s.take n e w pc)

/-- An error that an instruction makes after its issue: it raises no signal, and the core stops (R102). -/
def State.failIssued (s : State) (n e code pc : Nat) (more : Nat := 0) : State :=
  (s.onEng n fun g => g.onFly e fun l => l.map fun i => if i.pc = pc then { i with cut := true } else i).coreFail n e code pc more

def noCheck (_ : Nat) (_ : State) : Option Nat := none
def noEffect (_ _ _ : Nat) (s : State) : State := s

/-! ### Completion (R83, R84) -/

/-- Has an instruction reached its completion point? -/
def Engines.complete (g : Engines) (i : InFlight) : Bool :=
  match opOf i.word.toNat with
  | 0x10 | 0x30 => decide (i.blocks ≤ i.block) && i.open_.isEmpty && i.halted.isNone
  | 0x33 => i.owed.all fun t => !g.awls.contains t
  | 0x34 | 0x31 => i.owed.isEmpty
  | _ => true

/-- When an ATTN_KV completes, both banks lose what they held (R224). -/
def Plane.clearBanks (p : Plane) : Plane := { p with bank0 := Bank.empty, bank1 := Bank.empty }

/-- Retire the oldest instruction of an engine when it is complete, raise its signal, and let a stopped core report or a finished
core's part of its command end. -/
def State.completeStep (s : State) (n e : Nat) : State :=
  let g := (s.core n).eng
  match g.flyOf e with
  | [] => s
  | i :: rest =>
    if !g.complete i then s else
    let x := i.word.toNat
    let s := s.onEng n fun g => { g with fly := store noFly g.fly e rest }
    let s := if opOf x = 0x23 then s.onPlane n Plane.clearBanks else s
    let s := s.traceEvent n e x i.pc true
    let s := if sigEn x && !i.cut then
        match s.addCore n (sigCtr x) 1 (srcWord s.chipId 0 n e) with
        | (s, none) => s
        | (s, some code) => s.coreFail n e code i.pc (sigCtr x * 2 ^ 16)
      else s
    let s := s.coreReport n
    match g.flight with
    | some id => s.settle id
    | none => s

end Sys2Proof.Machine
end

