-- ==== Sys2Proof/Machine/Operands.lean ====
section
/-! DEFINITION. Operand forms of the core: rows of elements in the working store in every format (R41, R97, R98, R137, R245), and
the exact sums over groups of R47. -/

namespace Sys2Proof.Machine

/-! ### Element codes -/

/-- A byte string cut into little-endian numbers of `k` bytes. -/
def chunksOf : Nat → Nat → List Byte → List Nat
  | 0, _, _ => []
  | n + 1, k, bs => natOf (bs.take k) :: chunksOf n k (bs.drop k)

/-- Fields of `w` bits of a number, lowest first. -/
def fieldsOf : Nat → Nat → Nat → List Nat
  | 0, _, _ => []
  | n + 1, w, v => v % 2 ^ w :: fieldsOf n w (v / 2 ^ w)

/-- Bytes of `n` packed elements, scales apart (R41). FP6 elements are packed in 24-byte blocks of 32. -/
def packedBytes (f : Fmt) (n : Nat) : Nat := ceilDiv (n * f.bits) 8

/-- The codes of `n` packed elements (R41). -/
def codesOf (f : Fmt) (n : Nat) (bs : List Byte) : List Nat :=
  match f.bits with
  | 4 => ((chunksOf (ceilDiv n 2) 1 bs).map (fieldsOf 2 4)).flatten.take n
  | 6 => ((chunksOf (ceilDiv n 32) 24 bs).map (fieldsOf 32 6)).flatten.take n
  | b => chunksOf n (b / 8) bs

/-- Pack codes into bytes (R41). -/
def packCodes (f : Fmt) (cs : List Nat) : List Byte :=
  bytesOf (packedBytes f cs.length) ((cs.zipIdx).foldl (fun a c => a + c.1 * 2 ^ (f.bits * c.2)) 0)

/-- Sections of an MX-FP4/16 row of `n` elements (R245): offset of the elements, of the scales, and the count, of each. -/
def mx16Sections (n : Nat) : List (Nat × Nat × Nat) :=
  (List.range (ceilDiv n 512)).map fun k =>
    let len := min 512 (n - 512 * k)
    if k = 0 then (0, roundUp (ceilDiv len 2) 64, len)
    else
      let o := 288 * k
      (o, o + ceilDiv len 2, len)

/-- Bytes from the start of a row of `n` elements to its last byte used, scales included (R137, R245). -/
def rowBytes (f : Fmt) (n : Nat) : Nat :=
  match f with
  | .mx16 => match (mx16Sections n).getLast? with
    | some (_, s, len) => s + ceilDiv len 16
    | none => 0
  | _ => if f.isMx then roundUp (packedBytes f n) 64 + ceilDiv n 32 else packedBytes f n

/-- The exact values of a row of `n` elements (R40, R137, R245). -/
def rowVals (f : Fmt) (n : Nat) (bs : List Byte) : List Val :=
  match f with
  | .mx16 => ((mx16Sections n).map fun (o, so, len) =>
      let sc := (slice bs so (ceilDiv len 16)).map BitVec.toNat
      ((codesOf f len (bs.drop o)).zipIdx).map fun c => scaled (sc.getD (c.2 / 16) 0) (f.value c.1)).flatten
  | _ =>
    if f.isMx then
      let sc := (slice bs (roundUp (packedBytes f n) 64) (ceilDiv n 32)).map BitVec.toNat
      ((codesOf f n bs).zipIdx).map fun c => scaled (sc.getD (c.2 / 32) 0) (f.value c.1)
    else (codesOf f n bs).map f.value

/-- Blocks of a list. -/
def blocksOf {α : Type} : Nat → Nat → List α → List (List α)
  | 0, _, _ => []
  | n + 1, k, l => l.take k :: blocksOf n k (l.drop k)

/-- What a row of values writes (R42, R44, R137): pieces (offset, bytes), and how many elements saturated. Bytes between the pieces
stay as they were (R175). -/
def encodeRow (f : Fmt) (vs : List Val) : List (Nat × List Byte) × Nat :=
  let n := vs.length
  if f.isMx then
    let qs := (blocksOf (ceilDiv n f.block) f.block vs).map (quantiseBlock f)
    let sats := (qs.map fun q => q.2.2).sum
    let codes := (qs.map fun q => q.2.1).flatten
    let scales := qs.map fun q => BitVec.ofNat 8 q.1
    match f with
    | .mx16 =>
      (((mx16Sections n).zipIdx.map fun ((o, so, len), k) =>
        [(o, packCodes f ((codes.drop (512 * k)).take len)), (so, (scales.drop (32 * k)).take (ceilDiv len 16))]).flatten, sats)
    | _ => ([(0, packCodes f codes), (roundUp (packedBytes f n) 64, scales)], sats)
  else
    let cs := vs.map (convert f)
    ([(0, (cs.map fun c => bytesOf (f.bits / 8) c.bits).flatten)], (cs.filter Conv.sat).length)

/-- Does a range lie within the 64 MiB of a working store? -/
def wsFits (off n : Nat) : Bool := decide (off + n ≤ wsBytes)

/-- Write a row in pieces. -/
def State.setRow (s : State) (core base : Nat) (ps : List (Nat × List Byte)) : State :=
  ps.foldl (fun s p => s.setWs core (base + p.1) p.2) s

/-- Count saturations in CVT_SAT_CNT (R44, R104). -/
def State.addSat (s : State) (n k : Nat) : State :=
  let o := pageCore n + 0x58
  if k = 0 then s else s.setReg o (BitVec.ofNat 32 (min ((s.reg o).toNat + k) 0xFFFFFFFF))

/-! ### Sums in groups (R47) -/

/-- Sum products in groups of `g`, one FP32 rounding per group, in ascending order. -/
def groupSum (acc : Val) (g : Nat) (ps : List Val) : Val :=
  (blocksOf (ceilDiv ps.length g) g ps).foldl (fun a l => rne (a.add (Val.sum l))) acc

/-- The format of a field known to be listed. -/
def fmtOf (c : Nat) : Fmt := (Fmt.ofCode c).getD .fp32

/-! ### The tally store (R74, R75) -/

def tallyKey (tile row col : Nat) : Nat := (tile * 512 + row) * 512 + col

/-- The bits of `n` elements of a tally row; a tile whose valid bit is clear holds nothing, so they read +0 (R75). -/
def Plane.row (p : Plane) (tile row n : Nat) : List Word := lookList noWord p.tally (tallyKey tile row 0) n

/-- Write a tally row from column 0, setting the tile's valid bit. -/
def Plane.setRow (p : Plane) (tile row : Nat) (ws : List Word) : Plane :=
  { p with tally := storeList noWord p.tally (tallyKey tile row 0) ws, valid := p.valid ||| BitVec.ofNat 8 (2 ^ tile) }

def attKey (tile row : Nat) : Nat := tile * 512 + row

/-- Reset the attention states of a tile's rows, and take the tile out of the STATE sets that hold it (R232). -/
def Plane.resetStates (p : Plane) (tile : Nat) : Plane :=
  { p with
    att := restrict (fun k => k / 512 != tile) p.att,
    sets := (p.sets.map fun e => (e.1, { e.2 with tiles := e.2.tiles.filter (· != tile) })).filter fun e => !e.2.tiles.isEmpty }

/-- Set a tile to +0 and valid, its states to the identity (R95, R236). -/
def Plane.clearTile (p : Plane) (tile : Nat) : Plane :=
  let p := p.resetStates tile
  { p with tally := restrict (fun k => k / (512 * 512) != tile) p.tally, valid := p.valid ||| BitVec.ofNat 8 (2 ^ tile) }

/-- What command start, a per-core reset and a wake from gating leave of the plane: every valid bit clear, nothing held (R75). -/
def Plane.invalidate (p : Plane) : Plane :=
  { p with tally := [], valid := 0#8, bank0 := Bank.empty, bank1 := Bank.empty, att := [], sets := [], record := none }

end Sys2Proof.Machine
end

