-- ==== Sys2Proof/Machine/PlaneOps.lean ====
section
/-! DEFINITION. The plane family: LOAD_W, MATMUL and TALLY_CLR (R46 to R48, R77 to R79, R95, R97, R174, R224). -/

namespace Sys2Proof.Machine

/-! ### LOAD_W -/

structure LoadW where
  src    : Nat
  scale  : Nat
  fmt    : Nat
  kvalid : Nat
  nvalid : Nat
  half   : Nat

def LoadW.of (w : Nat) : LoadW :=
  { src := 64 * bitsOf w 19 0, scale := 64 * bitsOf w 39 20, fmt := bitsOf w 43 40, kvalid := bitsOf w 53 44,
    nvalid := bitsOf w 63 54, half := bitsOf w 65 64 }

/-- Bytes from one weight row to the next (R97). -/
def LoadW.pitch (l : LoadW) : Nat := roundUp (packedBytes (fmtOf l.fmt) l.nvalid) 64

/-- Scale bytes of an MX tile: one for each 32 rows of each column. DEDUCED from R41 and R47 (log entry 21). -/
def LoadW.scales (l : LoadW) : Nat := if (fmtOf l.fmt).isMx then ceilDiv l.kvalid 32 * l.nvalid else 0

def loadWCheck (w : Nat) (n : Nat) (_ : State) : Option Nat :=
  let l := LoadW.of w
  if !wsFits l.src (l.kvalid * l.pitch) || !wsFits l.scale l.scales then some (eCore n 6) else none

/-- The columns a LOAD_W brings in: for column j, its (code, scale) by row. -/
def State.weightCols (s : State) (n : Nat) (l : LoadW) : List (List (Nat × Nat)) :=
  let f := fmtOf l.fmt
  let rows := (List.range l.kvalid).map fun k => codesOf f l.nvalid (s.ws n (l.src + k * l.pitch) (packedBytes f l.nvalid))
  let sc := (s.ws n l.scale l.scales).map BitVec.toNat
  (List.range l.nvalid).map fun j =>
    (rows.zipIdx).map fun r => (r.1.getD j 0, if f.isMx then sc.getD (r.2 / 32 * l.nvalid + j) 0 else 127)

/-- Put columns into a bank, from `first`; a full load fills both halves, a half load leaves the other half (R224). -/
def Bank.load (b : Bank) (l : LoadW) (cols : List (List (Nat × Nat))) : Bank :=
  let first := if l.half = 2 then 256 else 0
  let keep (c : Nat) : Bool := if l.half = 0 then false else if l.half = 1 then 256 ≤ c else c < 256
  let lo := min l.nvalid 256
  let halves : List (Nat × Nat) :=
    if l.half = 0 then [(1, lo), (2, l.nvalid - lo)] else [(l.half, l.nvalid)]
  { valid := true,
    cols := storeList (fun _ => []) (restrict keep b.cols) first cols,
    kvalid := halves.foldl (fun t h => store noCount t h.1 l.kvalid) b.kvalid,
    nvalid := halves.foldl (fun t h => store noCount t h.1 h.2) b.nvalid,
    fmt := halves.foldl (fun t h => store (fun _ => none) t h.1 (if h.2 = 0 then none else some l.fmt)) b.fmt }

def Plane.bank (p : Plane) (i : Bool) : Bank := if i then p.bank1 else p.bank0

def Plane.setBank (p : Plane) (i : Bool) (b : Bank) : Plane := if i then { p with bank1 := b } else { p with bank0 := b }

/-- LOAD_W: the tile goes into the inactive bank (R79, R97, R224). -/
def State.loadW (s : State) (n w : Nat) : State :=
  let l := LoadW.of w
  let cols := s.weightCols n l
  s.onPlane n fun p => p.setBank (!p.active) ((p.bank (!p.active)).load l cols)

def execLoadW (c : Fin 8) (s : State) : Out :=
  .next (s.issue c 1 0x20 (fun w => loadWCheck w c) fun w _ _ s => s.loadW c w)

/-! ### MATMUL -/

structure Matmul where
  src   : Nat
  scale : Nat
  rows  : Nat
  tile  : Nat
  fmt   : Nat
  acc   : Bool
  pitch : Nat
  swap  : Bool

def Matmul.of (w : Nat) : Matmul :=
  let m := bitsOf w 51 40
  let f := bitsOf w 58 55
  let p := bitsOf w 69 60
  { src := 64 * bitsOf w 19 0, scale := 64 * bitsOf w 39 20, rows := if m = 0 then 4096 else m, tile := bitsOf w 54 52,
    fmt := f, acc := bitsOf w 59 59 = 1,
    pitch := if p = 0 then roundUp (packedBytes (fmtOf f) 512) 64 else 64 * p, swap := opfOf w = 1 }

/-- The bank a MATMUL streams through (R79). -/
def Matmul.bank (m : Matmul) (p : Plane) : Bank := p.bank (p.active != m.swap)

/-- The weight format of a bank's loaded halves; none where two formats meet (R224). -/
def Bank.format (b : Bank) : Option (Option Nat) :=
  match look (fun _ => none) b.fmt 1, look (fun _ => none) b.fmt 2 with
  | some f, some g => if f = g then some (some f) else none
  | some f, none => some (some f)
  | none, g => some g

/-- The operand pairs of R46. -/
def pairOk (a b : Nat) : Bool :=
  let fp8 (f : Nat) : Bool := f == 3 || f == 4
  let mx (f : Nat) : Bool := f == 5 || f == 6 || f == 7
  (fp8 a && fp8 b) || (mx a && (mx b || fp8 b)) || (a == 8 && b == 8) || (a == 1 && b == 1) || (a == 2 && b == 2)

/-- Group size of R46; for the exact INT8 sum any. -/
def groupOf (f : Nat) : Nat := if f = 1 ∨ f = 2 then 1 else 32

/-- The largest KVALID of the halves. -/
def Bank.depth (b : Bank) : Nat := if b.valid then max (look noCount b.kvalid 1) (look noCount b.kvalid 2) else 0

def matmulCheck (w n : Nat) (s : State) : Option Nat :=
  let m := Matmul.of w
  let b := m.bank (s.core n).plane
  let k := b.depth
  let fmtBad := b.valid && match b.format with
    | none => true
    | some none => false
    | some (some a) => !pairOk a m.fmt
  if fmtBad then some (eCore n 1)
  else if 8 < m.tile + ceilDiv m.rows 512 then some (eCore n 5)
  else if !wsFits m.src ((m.rows - 1) * m.pitch + packedBytes (fmtOf m.fmt) k) then some (eCore n 6)
  else if (fmtOf m.fmt).isMx && !wsFits m.scale (16 * (m.rows - 1) + ceilDiv k 32) then some (eCore n 6)
  else none

/-- The first `k` values of a streamed row, its scales 16 bytes a row at SCALE. DEDUCED from R41 and R97 (log entry 21). -/
def State.streamRow (s : State) (n : Nat) (m : Matmul) (r k : Nat) : List Val :=
  let f := fmtOf m.fmt
  let cs := codesOf f k (s.ws n (m.src + r * m.pitch) (packedBytes f k))
  if f.isMx then
    let sc := (s.ws n (m.scale + 16 * r) (ceilDiv k 32)).map BitVec.toNat
    cs.zipIdx.map fun c => scaled (sc.getD (c.2 / 32) 0) (f.value c.1)
  else cs.map f.value

/-- One output element (R47, R48, R174): `col` the weights of its column, `xs` the streamed row. Elements at or beyond KVALID are
exact zeros, so a group they complete gains +0, and a column beyond NVALID only +0. -/
def planeDot (a : Fmt) (g : Nat) (old : Word) (xs : List Val) (col : List (Nat × Nat)) : Word :=
  let ps := (xs.zip col).map fun p => p.1.mul (if a.isMx then scaled p.2.2 (a.value p.2.1) else a.value p.2.1)
  toF32 ((groupSum (f32 old) g (ps ++ List.replicate (ceilDiv ps.length g * g - ps.length) Val.zero)).add
    (if ps.length < 512 then Val.zero else Val.negZero))

/-- One INT8 output element: the exact sum in 32-bit two's complement (R48). -/
def planeIntDot (old : Word) (xs : List Val) (col : List (Nat × Nat)) : Word :=
  let z (v : Val) : Int := match v with
    | .num neg m e => Val.mant neg m e 0
    | _ => 0
  old + BitVec.ofInt 32 (((xs.zip col).map fun p => z p.1 * z (Fmt.int8.value p.2.1)).sum)

/-- The 512 elements of one output row. -/
def Bank.outRow (b : Bank) (m : Matmul) (xs : List Val) (old : List Word) : List Word :=
  old.zipIdx.map fun (o, j) =>
    let col := if b.valid then look (fun _ => []) b.cols j else []
    let a := (look (fun _ => none) b.fmt (if j < 256 then 1 else 2)).getD 3
    if m.fmt = 8 then planeIntDot o xs col else planeDot (fmtOf a) (groupOf m.fmt) o xs col

/-- Write one output row of a MATMUL. -/
def State.matmulRow (s : State) (n : Nat) (m : Matmul) (r : Nat) : State :=
  let p := (s.core n).plane
  let b := p.bank p.active
  let t := m.tile + r / 512
  let old := if m.acc then p.row t (r % 512) 512 else List.replicate 512 0#32
  let out := b.outRow m (s.streamRow n m r b.depth) old
  s.onPlane n fun p => p.setRow t (r % 512) out

/-- MATMUL (R77, R79): swap, reset the attention states of the tiles written (R232), then row by row. -/
def State.matmul (s : State) (n w : Nat) : State :=
  let m := Matmul.of w
  let s := s.onPlane n fun p => { p with active := p.active != m.swap }
  let s := (List.range (ceilDiv m.rows 512)).foldl (fun s i => s.onPlane n fun p => p.resetStates (m.tile + i)) s
  (List.range m.rows).foldl (fun s r => s.matmulRow n m r) s

def execMatmul (c : Fin 8) (s : State) : Out :=
  .next (s.issue c 1 0x21 (fun w => matmulCheck w c) fun w _ _ s => s.matmul c w)

/-! ### TALLY_CLR -/

/-- TALLY_CLR (R95): each masked tile to +0. -/
def State.tallyClr (s : State) (n w : Nat) : State :=
  (List.range 8).foldl (fun s t => if bitsOf w t t = 1 then s.onPlane n fun p => p.clearTile t else s) s

def execTallyClr (c : Fin 8) (s : State) : Out :=
  .next (s.issue c 2 0x45 noCheck fun w _ _ s => s.tallyClr c w)

end Sys2Proof.Machine
end

