-- ==== Sys2Proof/Machine/Attn.lean ====
section
/-! DEFINITION. The attention pipeline: ATTN_CFG, ATTN_KV, ATTN_END (chapter 08). -/

namespace Sys2Proof.Machine

/-! ### The attention record (R225) -/

structure AttRec where
  qAddr    : Nat
  qPitch   : Nat
  m        : Nat
  qValid   : Nat
  qFmt     : Nat
  kFmt     : Nat
  vFmt     : Nat
  pFmt     : Nat
  dQk      : Nat
  dV       : Nat
  shape    : Nat
  mask     : Nat
  flags    : Nat
  keyPitch : Nat
  valPitch : Nat
  scale    : Val
  qPos     : Nat
  qPerPos  : Nat
  keyEnd   : Nat
  window   : Nat
  prefixEnd : Nat
  unit     : Nat
  ropeOff  : Nat
  ropeDims : Nat
  ropeBase : Val
  freqTab  : Nat
  outPitch : Nat

def AttRec.of (b : List Byte) : AttRec :=
  let f := field b
  { qAddr := f 0 4, qPitch := f 4 4, m := f 8 2, qValid := f 10 2, qFmt := f 12 1, kFmt := f 13 1, vFmt := f 14 1,
    pFmt := f 15 1, dQk := f 16 2, dV := f 18 2, shape := f 20 1, mask := f 21 1, flags := f 22 1, keyPitch := f 24 4,
    valPitch := f 28 4, scale := f32 (BitVec.ofNat 32 (f 32 4)), qPos := f 36 4, qPerPos := f 40 2, keyEnd := f 44 4,
    window := f 48 4, prefixEnd := f 52 4, unit := f 56 4, ropeOff := f 60 2, ropeDims := f 62 2,
    ropeBase := f32 (BitVec.ofNat 32 (f 64 4)), freqTab := f 68 4, outPitch := f 72 4 }

def AttRec.invariant (r : AttRec) : Bool := r.flags % 2 = 1
def AttRec.ropeHalf (r : AttRec) : Bool := r.flags / 2 % 2 = 1

/-- Keys per block, B_k (R222). -/
def AttRec.blockKeys (r : AttRec) : Nat := if r.shape = 0 then 256 else 128

/-- Does a record follow R225? -/
def attRecOk (b : List Byte) : Bool :=
  let r := AttRec.of b
  let lim := if r.shape = 0 then 512 else 1024
  let kv (f : Nat) : Bool := f == 3 || f == 4 || f == 10
  decide (r.shape ≤ 1 ∧ r.mask ≤ 3 ∧ r.flags < 4 ∧ field b 23 1 = 0 ∧ field b 42 2 = 0 ∧ field b 76 52 = 0) &&
  (r.qFmt == 3 || r.qFmt == 4) && kv r.kFmt && kv r.vFmt && (r.pFmt == 3 || r.pFmt == 1) &&
  decide (1 ≤ r.m ∧ r.m ≤ 4096 ∧ r.qValid ≤ r.m ∧ r.dQk % 64 = 0 ∧ 64 ≤ r.dQk ∧ r.dQk ≤ lim ∧ r.dV % 64 = 0 ∧ 64 ≤ r.dV ∧
    r.dV ≤ lim ∧ r.qPitch % 64 = 0 ∧ r.dQk ≤ r.qPitch ∧ r.keyPitch % 64 = 0 ∧ r.valPitch % 64 = 0 ∧ r.outPitch % 64 = 0 ∧
    1 ≤ r.qPerPos ∧ r.qPerPos ≤ 4096 ∧ 1 ≤ r.window ∧ r.ropeOff % 32 = 0 ∧ r.ropeDims % 32 = 0 ∧ r.ropeDims ≤ 256 ∧
    r.ropeOff + r.ropeDims ≤ r.dQk) &&
  (r.ropeDims == 0 || Val.lt (.num false 1 0) r.ropeBase)

/-- ATTN_CFG (R225, R226): the record becomes the current one. -/
def execAttnCfg (c : Fin 8) (s : State) : Out :=
  .next (s.issue c 1 0x22
    (fun w s =>
      let o := 64 * bitsOf w 19 0
      if !wsFits o 128 then some (eCore c 6) else if !attRecOk (s.ws c o 128) then some (eCore c 1) else none)
    fun w _ _ s => s.onPlane c fun p => { p with record := some (s.ws c (64 * bitsOf w 19 0) 128) })

/-! ### Rotary position codes (R230) -/

/-- The frequencies ω_i. -/
def State.omegas (s : State) (n : Nat) (r : AttRec) : List Val :=
  (List.range (r.ropeDims / 2)).map fun i =>
    let f := if r.freqTab = 0 then .num false 1 0 else f32 (BitVec.ofNat 32 (natOf (s.ws n (r.freqTab + 4 * i) 4)))
    rne ((ropeRho r.ropeBase i r.ropeDims).mul f)

/-- Round once to BF16. -/
def toBf16 (v : Val) : Val := Fmt.bf16.value (convert .bf16 v).bits

/-- Rotate the rotary section of a row at a position. -/
def rotate (r : AttRec) (om : List Val) (pos : Nat) (x : List Val) : List Val :=
  om.zipIdx.foldl (fun x (w, i) =>
    let h := r.ropeDims / 2
    let a := if r.ropeHalf then r.ropeOff + i else r.ropeOff + 2 * i
    let b := if r.ropeHalf then r.ropeOff + i + h else r.ropeOff + 2 * i + 1
    let (c, sn) := cosSinF32 ((Val.num false pos 0).mul w)
    let xa := x.getD a .zero
    let xb := x.getD b .zero
    (x.set a (toBf16 ((xa.mul c).sub (xb.mul sn)))).set b (toBf16 ((xa.mul sn).add (xb.mul c)))) x

/-! ### ATTN_KV -/

structure AttKv where
  keys  : Nat
  vals  : Nat
  nkeys : Nat
  tile  : Nat

def AttKv.of (w : Nat) : AttKv :=
  let k := bitsOf w 51 40
  { keys := 64 * bitsOf w 19 0, vals := 64 * bitsOf w 39 20, nkeys := if k = 0 then 4096 else k, tile := bitsOf w 54 52 }

/-- Tiles of a STATE set (R232): columns of tiles, and tiles in all. -/
def AttRec.tileCols (r : AttRec) : Nat := ceilDiv r.dV 512
def AttRec.tiles (r : AttRec) : Nat := ceilDiv r.m 512 * r.tileCols

/-- The position of a key slot; none when it is absent (R227). -/
def State.slotPos (s : State) (n : Nat) (k : AttKv) (j : Nat) : Option Nat :=
  let e := natOf (s.ws n (k.keys + 4 * (j / 256)) 4)
  if e = 0xFFFFFFFF then none else some (e + j % 256)

/-- The mask predicate for query position q and key position k (R231). -/
def AttRec.visible (r : AttRec) (q k : Nat) : Bool :=
  decide (k < r.keyEnd) &&
  match r.mask with
  | 1 => decide (k ≤ q)
  | 2 => decide (q < k + r.window ∧ k ≤ q)
  | 3 => decide (k ≤ q ∨ k < r.prefixEnd)
  | _ => true

def AttRec.rowPos (r : AttRec) (row : Nat) : Nat := r.qPos + row / r.qPerPos

/-- Is a key position visible to any streamed row? -/
def AttRec.seen (r : AttRec) (k : Nat) : Bool := (List.range r.qValid).any fun q => r.visible (r.rowPos q) k

/-- A key block: the present slots visible to some row, in slot order, with their positions. -/
structure KeyBlock where
  first : Nat
  slots : List (Nat × Nat)

/-- The blocks with a visible slot, in order; the others are skipped (R228, R235). -/
def State.keyBlocks (s : State) (n : Nat) (r : AttRec) (k : AttKv) : List KeyBlock :=
  let bk := r.blockKeys
  ((List.range (ceilDiv k.nkeys bk)).map fun b =>
    { first := b * bk,
      slots := (List.range (min bk (k.nkeys - b * bk))).filterMap fun j =>
        match s.slotPos n k (b * bk + j) with
        | some p => if r.seen p then some (b * bk + j, p) else none
        | none => none : KeyBlock }).filter fun b => !b.slots.isEmpty

/-- The invariant-mode rule over the visible slots (R239): the position of the last one, or none where a slot breaks it. -/
def invariantScan (unit : Nat) : Option Nat → List (Nat × Nat) → Option (Option Nat)
  | last, [] => some last
  | last, (_, p) :: rest =>
    if p / 4096 == unit && (match last with
      | some l => decide (l < p)
      | none => true) then invariantScan unit (some p) rest else none

/-- Group sizes of R229 for scores and for P·V. -/
def AttRec.scoreGroup (r : AttRec) : Nat := if r.kFmt = 10 then 16 else 32
def AttRec.valueGroup (r : AttRec) : Nat := if r.pFmt = 1 then 1 else if r.vFmt = 10 then 16 else 32

/-- Is a state poisoned (R234)? -/
def AttState.poisoned (a : AttState) : Bool := (f32 a.m).isNan

def noState (_ : Nat) : AttState := AttState.identity

/-- The states of a row in each of its tiles, column 0 first (R232). -/
def Plane.rowStates (p : Plane) (r : AttRec) (tile row : Nat) : List AttState :=
  (List.range r.tileCols).map fun c => look noState p.att (attKey (tile + row / 512 * r.tileCols + c) (row % 512))

/-- Put a row: its output vector and its state in every tile. -/
def Plane.putRow (p : Plane) (r : AttRec) (tile row : Nat) (o : List Word) (a : AttState) : Plane :=
  (List.range r.tileCols).foldl (fun p c =>
    let t := tile + row / 512 * r.tileCols + c
    let p := p.setRow t (row % 512) ((o.drop (512 * c)).take 512)
    { p with att := store noState p.att (attKey t (row % 512)) a }) p

/-- The output vector of a row. -/
def Plane.outVec (p : Plane) (r : AttRec) (tile row : Nat) : List Word :=
  ((List.range r.tileCols).map fun c =>
    p.row (tile + row / 512 * r.tileCols + c) (row % 512) (min 512 (r.dV - 512 * c))).flatten

/-- exp2 of a difference in FP32 (R146, R233). -/
def expDiff (a b : Val) : Val := exp2V (rne (a.sub b))

/-- What one key block does to one row (R233, R234): `ts` the scaled scores of its slots, by slot, with their value rows; none for a
slot not visible to the row. DESIGN CHOICE (log 126): a visible slot whose p is +0 adds nothing, whatever its value row holds.
DESIGN CHOICE (log 127): the output row of the first block is scaled as it stands, also where a MATMUL wrote the tile. -/
def Plane.updateRow (p : Plane) (r : AttRec) (tile row : Nat) (ts : List (Nat × Option Val × List Val)) : Plane :=
  let sts := p.rowStates r tile row
  if sts.any AttState.poisoned then p else
  let st := sts.headD AttState.identity
  let vis := ts.filterMap fun t => t.2.1
  if vis.any fun t => !t.isFinite then p.putRow r tile row (List.replicate r.dV nan32) ⟨nan32, nan32⟩
  else
    let m := f32 st.m
    let mNew := vis.foldl Val.max m
    if !mNew.isFinite then p else
    let alpha := expDiff m mNew
    let pf := fmtOf r.pFmt
    let ps := ts.filterMap fun (j, t, v) => match t with
      | some t =>
        let x := pf.value (convert pf (expDiff t mNew)).bits
        if x.isZero then none else some (j, x, v)
      | none => none
    let l := rne ((rne ((f32 st.l).mul alpha)).add (Val.sum (ps.map fun q => q.2.1)))
    let g := r.valueGroup
    let groups := ((ps.map fun q => q.1 / g).eraseDups).map fun i => ps.filter fun q => q.1 / g == i
    let o := (p.outVec r tile row).zipIdx.map fun (w, c) =>
      toF32 (groups.foldl (fun a qs => rne (a.add (Val.sum (qs.map fun q => q.2.1.mul (q.2.2.getD c .zero)))))
        (rne ((f32 w).mul alpha)))
    p.putRow r tile row o ⟨toF32 mNew, toF32 l⟩

/-- A key row, rotated at its position (R228 to R230). -/
def State.keyRow (s : State) (n : Nat) (r : AttRec) (om : List Val) (k : AttKv) (slot pos : Nat) : List Val :=
  let f := fmtOf r.kFmt
  rotate r om pos (rowVals f r.dQk (s.ws n (k.keys + 64 + slot * r.keyPitch) (rowBytes f r.dQk)))

def State.valueRow (s : State) (n : Nat) (r : AttRec) (k : AttKv) (slot : Nat) : List Val :=
  let f := fmtOf r.vFmt
  rowVals f r.dV (s.ws n (k.vals + slot * r.valPitch) (rowBytes f r.dV))

def State.queryRow (s : State) (n : Nat) (r : AttRec) (om : List Val) (row : Nat) : List Val :=
  let f := fmtOf r.qFmt
  rotate r om (r.rowPos row) (rowVals f r.dQk (s.ws n (r.qAddr + row * r.qPitch) (rowBytes f r.dQk)))

/-- Stream every row of the record through one key block (R233). -/
def State.streamBlock (s : State) (n : Nat) (r : AttRec) (k : AttKv) (b : KeyBlock) : State :=
  let om := s.omegas n r
  let keys := b.slots.map fun (j, p) => (j - b.first, p, s.keyRow n r om k j p, s.valueRow n r k j)
  (List.range r.qValid).foldl (fun s row =>
    let q := s.queryRow n r om row
    let ts := keys.map fun (j, p, kr, vr) =>
      let t := if r.visible (r.rowPos row) p then
          some (rne ((groupSum .zero r.scoreGroup ((q.zip kr).map fun x => x.1.mul x.2)).mul r.scale))
        else none
      (j, t, vr)
    s.onPlane n fun pl => pl.updateRow r k.tile row ts) s

/-- The blocks an ATTN_KV processes before one that breaks R239, the set's last position then, and whether one broke it. -/
def takeBlocks (unit : Nat) : Option Nat → List KeyBlock → List KeyBlock → List KeyBlock × Option Nat × Bool
  | last, [], acc => (acc, last, false)
  | last, b :: bs, acc =>
    match invariantScan unit last b.slots with
    | none => (acc, last, true)
    | some l => takeBlocks unit l bs (acc ++ [b])

/-- The record an ATTN_KV captures (R226). -/
def State.attRec? (s : State) (n : Nat) : Option AttRec := ((s.core n).plane.record).map AttRec.of

def State.attSet (s : State) (n tile : Nat) : AttSet := look (fun _ => AttSet.none_) (s.core n).plane.sets tile

/-- The working-store ranges an ATTN_KV reads lie within 64 MiB (R228). DESIGN CHOICE (log 129): of a loaded block, the bytes of the
slots that some streamed row sees are what it reads. -/
def State.attRangeOk (s : State) (n : Nat) (r : AttRec) (k : AttKv) : Bool :=
  wsFits k.keys 64 &&
  (let bs := s.keyBlocks n r k
   bs.isEmpty ||
    ((r.ropeDims == 0 || r.freqTab == 0 || wsFits r.freqTab (2 * r.ropeDims)) &&
     wsFits r.qAddr ((r.qValid - 1) * r.qPitch + rowBytes (fmtOf r.qFmt) r.dQk) &&
     bs.all fun b => b.slots.all fun (j, _) =>
       wsFits (k.keys + 64 + j * r.keyPitch) (rowBytes (fmtOf r.kFmt) r.dQk) &&
       wsFits (k.vals + j * r.valPitch) (rowBytes (fmtOf r.vFmt) r.dV)))

def attnKvCheck (w n : Nat) (s : State) : Option Nat :=
  match s.attRec? n with
  | none => some (eCore n 1)
  | some r =>
    let k := AttKv.of w
    if 8 < k.tile + r.tiles then some (eCore n 5)
    else if !s.attRangeOk n r k then some (eCore n 6)
    else none

/-- ATTN_KV (R233 to R239). -/
def State.attnKv (s : State) (n w pc : Nat) : State :=
  match (s.core n).plane.record with
  | none => s
  | some bytes =>
    let r := AttRec.of bytes
    let k := AttKv.of w
    let bs := s.keyBlocks n r k
    let (bs, last, broke) := if r.invariant then takeBlocks r.unit (s.attSet n k.tile).lastPos bs []
      else (bs, (s.attSet n k.tile).lastPos, false)
    let s := bs.foldl (fun s b => s.streamBlock n r k b) s
    let s := if bs.isEmpty then s else s.onPlane n fun p =>
      { p with sets := store (fun _ => AttSet.none_) p.sets k.tile (AttSet.mk bytes ((List.range r.tiles).map (k.tile + ·)) last) }
    if broke then s.failIssued n 1 (eCore n 1) pc else s

def execAttnKv (c : Fin 8) (s : State) : Out :=
  .next (s.issue c 1 0x23 (fun w => attnKvCheck w c)
    fun w pc _ s => s.attnKv c w pc)

/-! ### ATTN_END -/

/-- The record ATTN_END works under (R236). -/
def State.endRec (s : State) (n tile : Nat) : Option (List Byte) :=
  let a := s.attSet n tile
  if a.tiles.isEmpty then (s.core n).plane.record else some a.record

structure AttEnd where
  dst  : Nat
  tile : Nat
  fmt  : Nat
  part : Bool

def AttEnd.of (w : Nat) : AttEnd := ⟨64 * bitsOf w 19 0, bitsOf w 22 20, bitsOf w 26 23, opfOf w = 1⟩

/-- Bytes of one output row, and from one to the next (R236, R237). -/
def AttEnd.rowLen (a : AttEnd) (r : AttRec) : Nat :=
  if a.part then 64 + 4 * r.dV else r.dV * (fmtOf a.fmt).bits / 8

def AttEnd.stride (a : AttEnd) (r : AttRec) : Nat :=
  if a.part then 64 + 4 * r.dV else if r.outPitch = 0 then roundUp (a.rowLen r) 64 else r.outPitch

def attnEndCheck (w n : Nat) (s : State) : Option Nat :=
  let a := AttEnd.of w
  match (s.core n).plane.record, s.endRec n a.tile with
  | some _, some b =>
    let r := AttRec.of b
    if 8 < a.tile + r.tiles then some (eCore n 5)
    else if r.qValid ≠ 0 ∧ !wsFits a.dst ((r.qValid - 1) * a.stride r + a.rowLen r) then some (eCore n 6)
    else none
  | _, _ => some (eCore n 1)

/-- One row of a normalised output: the bytes, and its saturations (R236). -/
def normalRow (f : Fmt) (sts : List AttState) (o : List Word) : List Byte × Nat :=
  let l := f32 (sts.headD AttState.identity).l
  let cs := o.map fun w =>
    if sts.any AttState.poisoned then convert f .nan
    else if l.isZero then convert f .zero
    else divTo f (f32 w) l
  ((cs.map fun c => bytesOf (f.bits / 8) c.bits).flatten, (cs.filter Conv.sat).length)

/-- One row of a partial (R237). A row in the identity state writes o = +0, whatever a MATMUL has left in its tile. -/
def partialRow (sts : List AttState) (o : List Word) : List Byte :=
  let bad := sts.any AttState.poisoned
  let a := sts.headD AttState.identity
  let o := if a = AttState.identity then o.map fun _ => 0#32 else o
  bytesOf 4 (if bad then nan32 else a.m).toNat ++ bytesOf 4 (if bad then nan32 else a.l).toNat ++ List.replicate 56 0#8 ++
    (o.map fun w => bytesOf 4 (if bad then nan32 else w).toNat).flatten

/-- ATTN_END (R236, R237): write the rows, then reset the set to the identity. -/
def State.attnEnd (s : State) (n w : Nat) : State :=
  let a := AttEnd.of w
  match s.endRec n a.tile with
  | none => s
  | some b =>
    let r := AttRec.of b
    let s := (List.range r.qValid).foldl (fun s row =>
      let p := (s.core n).plane
      let sts := p.rowStates r a.tile row
      let o := p.outVec r a.tile row
      if a.part then s.setWs n (a.dst + row * a.stride r) (partialRow sts o)
      else
        let (bs, k) := normalRow (fmtOf a.fmt) sts o
        (s.setWs n (a.dst + row * a.stride r) bs).addSat n k) s
    s.onPlane n fun p => (List.range r.tiles).foldl (fun p t => p.clearTile (a.tile + t)) p

def execAttnEnd (c : Fin 8) (s : State) : Out :=
  .next (s.issue c 1 0x24 (fun w => attnEndCheck w c) fun w _ _ s => s.attnEnd c w)

end Sys2Proof.Machine
end

