-- ==== Sys2Proof/Machine/Vector.lean ====
section
/-! DEFINITION. The vector unit and the row statistics unit: VCFG, VOP, RSTAT (R49 to R51, R98, R99, R137 to R145). -/

namespace Sys2Proof.Machine

/-! ### VCFG (R98) -/

structure Shape where
  len    : Nat
  rows   : Nat
  fmtA   : Fmt
  fmtB   : Fmt
  fmtD   : Fmt
  pitch  : Nat
  scalar : Val

def Shape.of (v : BitVec 72) : Shape :=
  let w := v.toNat
  { len := bitsOf w 12 0, rows := bitsOf w 25 13, fmtA := fmtOf (bitsOf w 29 26), fmtB := fmtOf (bitsOf w 33 30),
    fmtD := fmtOf (bitsOf w 37 34), pitch := bitsOf w 47 38, scalar := Fmt.bf16.value (bitsOf w 63 48) }

/-- The shape in force; none before the first VCFG of the command (R98). -/
def State.shape (s : State) (n : Nat) : Option Shape := ((s.core n).vcfg).map Shape.of

def execVcfg (c : Fin 8) (s : State) : Out :=
  .next (s.issue c 2 0x40 noCheck fun w _ _ s => s.onCore c fun k => { k with vcfg := some (BitVec.ofNat 72 w) })

/-- Bytes from one row of an operand to the next (R98). -/
def Shape.stride (h : Shape) (f : Fmt) : Nat := if h.pitch = 0 then roundUp (rowBytes f h.len) 64 else 64 * h.pitch

/-- Bytes from the base of an operand to its last byte. -/
def Shape.extent (h : Shape) (f : Fmt) : Nat := (h.rows - 1) * h.stride f + rowBytes f h.len

def Shape.srcRow (h : Shape) (s : State) (n : Nat) (f : Fmt) (base r : Nat) : List Val :=
  rowVals f h.len (s.ws n (base + r * h.stride f) (rowBytes f h.len))

def Shape.tallyRow (h : Shape) (s : State) (n tile r : Nat) : List Val :=
  ((s.core n).plane.row tile r h.len).map fun w => h.fmtA.value w.toNat

/-- R138: the ranges overlap other than by starting together. DESIGN CHOICE: a range runs from its first byte to its last, the gaps that PITCH
leaves between rows included, and ranges that start together count as equal whatever their formats and strides. -/
def clash (a alen d dlen : Nat) : Bool := a != d && decide (a < d + dlen ∧ d < a + alen)

/-- The rules of R98 and R137 that every vector instruction shares. -/
def Shape.ok (h : Shape) (tally : Bool) : Bool :=
  (!tally || (decide (h.len ≤ 512 ∧ h.rows ≤ 512) && (h.fmtA == .fp32 || h.fmtA == .int32)))

/-! ### VOP (R99, R137 to R139) -/

structure Vop where
  dst   : Nat
  a     : Nat
  tile  : Nat
  b     : Nat
  tally : Bool
  op    : Nat

def Vop.of (w : Nat) : Vop :=
  { dst := 64 * bitsOf w 19 0, a := 64 * bitsOf w 39 20, tile := bitsOf w 22 20, b := 64 * bitsOf w 59 40,
    tally := bitsOf w 60 60 = 1, op := bitsOf w 66 61 }

def Vop.binary (v : Vop) : Bool := decide (1 ≤ v.op ∧ v.op ≤ 6)
def Vop.reduces (v : Vop) : Bool := v.op == 0x10 || v.op == 0x11

def Vop.dstLen (v : Vop) (h : Shape) : Nat := if v.reduces then h.rows * (h.fmtD.bits / 8) else h.extent h.fmtD

def vopCheck (w n : Nat) (s : State) : Option Nat :=
  let v := Vop.of w
  match s.shape n with
  | none => some (eCore n 1)
  | some h =>
    let bad := !h.ok v.tally || (if v.reduces then h.fmtD.isMx else h.fmtD.isMx && h.len % h.fmtD.block != 0) ||
      (!v.tally && clash v.a (h.extent h.fmtA) v.dst (v.dstLen h)) || (v.binary && clash v.b (h.extent h.fmtB) v.dst (v.dstLen h))
    if bad then some (eCore n 1)
    else if !wsFits v.dst (v.dstLen h) || (!v.tally && !wsFits v.a (h.extent h.fmtA)) ||
      (v.binary && !wsFits v.b (h.extent h.fmtB)) then some (eCore n 6)
    else none

/-- One element of an elementwise operation, exact: the rounding is the conversion to FMT_D. -/
def vopElem (op : Nat) (sc a b d : Val) : Val :=
  match op with
  | 0x01 => a.add b
  | 0x02 => a.sub b
  | 0x03 => a.mul b
  | 0x04 => (a.mul b).add d
  | 0x05 => a.max b
  | 0x06 => a.min' b
  | 0x07 => a.abs
  | 0x08 => a.negate
  | 0x09 => a.mul sc
  | 0x0A => a.add sc
  | _ => a

/-- One level of the lane tree (R49): an absent right operand leaves the left one unchanged. -/
def treeLevel : List Val → List Val
  | a :: b :: r => rne (a.add b) :: treeLevel r
  | l => l

/-- The root of the tree over the lanes present, after nine levels. -/
def laneTree : Nat → List Val → Val
  | 0, l => l.headD .zero
  | n + 1, l => laneTree n (treeLevel l)

/-- RSUM of a row (R139). -/
def rowSum (xs : List Val) : Val :=
  match (blocksOf (ceilDiv xs.length 512) 512 xs).map (laneTree 9) with
  | [] => .zero
  | v :: vs => vs.foldl (fun a b => rne (a.add b)) v

/-- RMAX of a row (R139). -/
def rowMax : List Val → Val
  | [] => .zero
  | v :: vs => vs.foldl Val.max v

/-- What row r of a VOP writes: pieces at offsets from DST, and saturations. -/
def State.vopRow (s : State) (n : Nat) (v : Vop) (h : Shape) (r : Nat) : List (Nat × List Byte) × Nat :=
  let a := if v.tally then h.tallyRow s n v.tile r else h.srcRow s n h.fmtA v.a r
  if v.reduces then
    let c := convert h.fmtD (if v.op = 0x10 then rowSum a else rowMax a)
    let k := h.fmtD.bits / 8
    ([(r * k, bytesOf k c.bits)], if c.sat then 1 else 0)
  else
    let b := if v.binary then h.srcRow s n h.fmtB v.b r else []
    let d := if v.op = 4 then h.srcRow s n h.fmtD v.dst r else []
    let vs := a.zipIdx.map fun (x, i) => vopElem v.op h.scalar x (b.getD i .zero) (d.getD i .zero)
    let (ps, k) := encodeRow h.fmtD vs
    (ps.map fun p => (r * h.stride h.fmtD + p.1, p.2), k)

/-- Write rows that have all been computed from the state before (R138). -/
def State.writeRows (s : State) (n base : Nat) (rows : List (List (Nat × List Byte) × Nat)) : State :=
  (rows.foldl (fun s r => s.setRow n base r.1) s).addSat n ((rows.map fun r => r.2).sum)

def State.vop (s : State) (n w : Nat) : State :=
  let v := Vop.of w
  match s.shape n with
  | none => s
  | some h => s.writeRows n v.dst ((List.range h.rows).map (s.vopRow n v h))

def execVop (c : Fin 8) (s : State) : Out :=
  .next (s.issue c 2 0x41 (fun w => vopCheck w c) fun w _ _ s => s.vop c w)

/-! ### RSTAT (R140 to R145) -/

structure Rstat where
  src   : Nat
  tile  : Nat
  dst   : Nat
  tally : Bool
  out   : Nat
  cont  : Bool
  keep  : Bool
  mode  : Nat

def Rstat.of (w : Nat) : Rstat :=
  { src := 64 * bitsOf w 19 0, tile := bitsOf w 2 0, dst := 64 * bitsOf w 39 20, tally := bitsOf w 40 40 = 1,
    out := bitsOf w 42 41, cont := bitsOf (opfOf w) 0 0 = 1, keep := bitsOf (opfOf w) 1 1 = 1, mode := bitsOf (opfOf w) 3 2 }

/-- Where row r's output begins, from DST, and its length (R142, R145). -/
def Rstat.outAt (i : Rstat) (h : Shape) (r : Nat) : Nat × Nat :=
  if i.mode = 1 ∨ i.mode = 2 then (192 * r, 192)
  else
    let len := if i.out = 3 then 16 else 4
    (if i.mode = 3 ∧ h.pitch ≠ 0 then 64 * h.pitch * r else len * r, len)

def rstatCheck (w n : Nat) (s : State) : Option Nat :=
  let i := Rstat.of w
  match s.shape n with
  | none => some (eCore n 1)
  | some h =>
    let fmtBad := if i.tally then h.fmtA != .fp32 else h.fmtA.isMx || h.fmtA.isInt
    let bad := !h.ok i.tally || fmtBad || ((i.cont || i.keep) && decide (512 < h.rows)) ||
      (i.mode == 3 && (h.len != 1 || i.tally))
    let srcLen := if i.mode = 3 then 192 * h.rows else h.extent h.fmtA
    let last := i.outAt h (h.rows - 1)
    if bad then some (eCore n 1)
    else if (!i.tally && !wsFits i.src srcLen) || (!i.keep && !wsFits i.dst (last.1 + last.2)) then some (eCore n 6)
    else none

/-- The integer of a finite value in units of 2^−149 (R50). -/
def inUnits (v : Val) (k : Int) : Int :=
  match v with
  | .num neg m e => Val.mant neg m e k
  | _ => 0

/-- Add one element to a row state (R50, R140). DESIGN CHOICE (log 131): beyond 2³² − 1 elements the count and the sums go on exactly. -/
def RowState.feed (t : RowState) (v : Val) : RowState :=
  let x := inUnits v (-149)
  { count := t.count + 1, sum1 := t.sum1 + x, sum2 := t.sum2 + (x * x).toNat,
    flags := match v with
      | .nan => Nat.lor t.flags 1
      | .inf false => Nat.lor t.flags 2
      | .inf true => Nat.lor t.flags 4
      | _ => t.flags }

/-- A dyadic value over an integer, rounded once to FP32. -/
def overNat (v : Val) (d : Nat) : Word :=
  match v with
  | .num neg m e => ratF32 (if neg then -(m : Int) else (m : Int)) d e
  | _ => nan32

/-- A statistics record's content (R142). -/
structure StatRec where
  count   : Nat
  centre  : Word
  centred : Bool
  exp1    : Int
  exp2    : Int
  flags   : Nat
  sum1    : Int
  sum2    : Int

def StatRec.of (b : List Byte) : StatRec :=
  { count := field b 0 8, centre := BitVec.ofNat 32 (field b 8 4), centred := field b 16 1 / 8 % 2 = 1,
    exp1 := decodeInt 16 (field b 12 2), exp2 := decodeInt 16 (field b 14 2), flags := field b 16 1 % 8,
    sum1 := decodeInt 320 (field b 24 40), sum2 := decodeInt 600 (field b 64 75) }

def StatRec.bytes (t : StatRec) : List Byte :=
  bytesOf 8 t.count ++ bytesOf 4 t.centre.toNat ++ bytesOf 2 (BitVec.ofInt 16 t.exp1).toNat ++
  bytesOf 2 (BitVec.ofInt 16 t.exp2).toNat ++ bytesOf 1 (t.flags + if t.centred then 8 else 0) ++ List.replicate 7 0#8 ++
  bytesOf 40 (BitVec.ofInt 320 t.sum1).toNat ++ bytesOf 75 (BitVec.ofInt 600 t.sum2).toNat ++ List.replicate 53 0#8

/-- Mean, mean square and variance of a record (R51, R144), and whether the variance was clamped. -/
def StatRec.finish (t : StatRec) : Word × Word × Word × Bool :=
  let c := if t.centred then f32 t.centre else .zero
  if t.flags ≠ 0 ∨ t.count = 0 ∨ !c.isFinite then (nan32, nan32, nan32, false)
  else
    let n := Val.num false t.count 0
    let v1 := Val.ofInt t.sum1 t.exp1
    let v2 := Val.ofInt t.sum2 t.exp2
    let two := Val.num false 2 0
    let d := (n.mul v2).sub (v1.mul v1)
    let neg := d.isNeg && !d.isZero
    (overNat ((n.mul c).add v1) t.count,
     overNat ((v2.add ((two.mul c).mul v1)).add (n.mul (c.mul c))) t.count,
     if neg then 0#32 else overNat d (t.count * t.count), neg)

def RowState.record (t : RowState) : StatRec := ⟨t.count, 0#32, false, -149, -298, t.flags, t.sum1, (t.sum2 : Int)⟩

/-- The centred record about m (R143): Σ(x − m) and Σ(x − m)² from the exact sums. DESIGN CHOICE: a NaN or infinite element, which FLAGS
reports, counts in COUNT and enters the raw sums as 0, so SUM1 and SUM2 take −m and m² for it. -/
def RowState.centre (t : RowState) (m : Word) : StatRec :=
  let v := f32 m
  if !v.isFinite then ⟨t.count, m, true, -149, -298, Nat.lor t.flags 1, 0, 0⟩
  else
    let a := inUnits v (-149)
    let n : Int := t.count
    ⟨t.count, m, true, -149, -298, t.flags, t.sum1 - n * a, (t.sum2 : Int) - 2 * a * t.sum1 + n * a * a⟩

def noRow (_ : Nat) : RowState := RowState.empty

/-- The finished bytes of one row under OUT (R145). -/
def finishBytes (out : Nat) (t : StatRec) : List Byte :=
  let (mean, sq, var, _) := t.finish
  match out with
  | 0 => bytesOf 4 mean.toNat
  | 1 => bytesOf 4 sq.toNat
  | 2 => bytesOf 4 var.toNat
  | _ => bytesOf 4 mean.toNat ++ bytesOf 4 sq.toNat ++ bytesOf 4 var.toNat ++ List.replicate 4 0#8

/-- AIR_CLAMP_CNT, sticky (R60, R327). -/
def State.addClamp (s : State) (k : Nat) : State :=
  if k = 0 then s else s.setReg 0x0700054 (BitVec.ofNat 32 (min ((s.reg 0x0700054).toNat + k) 0xFFFFFFFF))

/-- RSTAT (R140 to R145). An instruction without KEEP leaves every row state empty (R141). DESIGN CHOICE: a FINISH counts a clamp where
it writes the variance (OUT 2 or 3). -/
def State.rstat (s : State) (n w : Nat) : State :=
  let i := Rstat.of w
  match s.shape n with
  | none => s
  | some h =>
    if i.mode = 3 then
      let recs := (List.range h.rows).map fun r => StatRec.of (s.ws n (i.src + 192 * r) 192)
      let s := (recs.zipIdx.foldl (fun s (t, r) => s.setWs n (i.dst + (i.outAt h r).1) (finishBytes i.out t)) s)
      s.addClamp ((recs.filter fun t => (i.out = 2 ∨ i.out = 3) && t.finish.2.2.2).length)
    else
      let fed := (List.range h.rows).map fun r =>
        let xs := if i.tally then h.tallyRow s n i.tile r else h.srcRow s n h.fmtA i.src r
        xs.foldl RowState.feed (if i.cont then look noRow (s.core n).rows r else RowState.empty)
      let s := s.onCore n fun k => { k with
        rows := if i.keep then fed.zipIdx.foldl (fun t (x, r) => if r < 512 then store noRow t r x else t) k.rows else [] }
      if i.keep then s
      else
        let outs := fed.zipIdx.map fun (t, r) =>
          if i.mode = 1 then t.record.bytes
          else if i.mode = 2 then (t.centre (BitVec.ofNat 32 (natOf (s.ws n (i.dst + 192 * r) 4)))).bytes
          else finishBytes i.out t.record
        outs.zipIdx.foldl (fun s (b, r) => s.setWs n (i.dst + (i.outAt h r).1) b) s

def execRstat (c : Fin 8) (s : State) : Out :=
  .next (s.issue c 2 0x42 (fun w => rstatCheck w c) fun w _ _ s => s.rstat c w)

end Sys2Proof.Machine
end

