-- ==== Sys2Proof/Machine/Scan.lean ====
section
/-! DEFINITION. The scan unit: the ranking order, the scan record and SCAN (R265 to R270, R333, R334). -/

namespace Sys2Proof.Machine

/-! ### Ranked lists (R269) -/

/-- Does hit `a` rank before hit `b`? NaN below every other score; equal scores by the lower id. -/
def Hit.before (a b : Hit) : Bool :=
  let x := f32 a.score
  let y := f32 b.score
  if x.isNan then y.isNan && decide (a.id < b.id)
  else if y.isNan then true
  else if Val.lt y x then true
  else if Val.lt x y then false
  else decide (a.id < b.id)

/-- Put a hit into a ranked list, after every hit that does not rank below it. -/
def insertHit (h : Hit) : List Hit → List Hit
  | [] => [h]
  | x :: r => if h.before x then h :: x :: r else x :: insertHit h r

/-- Keep the best `k` of a list and more hits. -/
def keepBest (k : Nat) (l : List Hit) (hs : List Hit) : List Hit :=
  hs.foldl (fun l h => (insertHit h l).take k) l

/-- The entries of a written list: the hits, then id 0xFFFF_FFFF with score −∞ up to `k`. -/
def hitBytes (k : Nat) (l : List Hit) : List Byte :=
  (l.map fun h => bytesOf 4 h.id.toNat ++ bytesOf 4 h.score.toNat).flatten ++
  (List.replicate (k - l.length) (bytesOf 4 0xFFFFFFFF ++ bytesOf 4 negInf32.toNat)).flatten

/-- Bytes from one list to the next. -/
def listStride (k : Nat) : Nat := roundUp (64 + 8 * k) 64

/-- Read a written list back: its COUNT entries. -/
def hitsOf (b : List Byte) (count : Nat) : List Hit :=
  (List.range count).map fun i => ⟨BitVec.ofNat 32 (field b (64 + 8 * i + 4) 4), BitVec.ofNat 64 (field b (64 + 8 * i) 4)⟩

/-! ### The scan record (R268, R333) -/

structure ScanRec where
  query  : Nat
  qPitch : Nat
  nq     : Nat
  mode   : Nat
  fmt    : Nat
  depth  : Nat
  reduce : Nat
  flags  : Nat
  items  : Nat
  iPitch : Nat
  nItems : Nat
  iAux   : Nat
  qAux   : Nat
  ids    : Nat
  idBase : Nat
  k      : Nat
  scratch : Nat
  out    : Nat
  ropeOff : Nat
  ropeDims : Nat
  qAuxVs : Nat
  vFlags : Nat

def ScanRec.of (b : List Byte) : ScanRec :=
  let f := field b
  { query := f 0 4, qPitch := f 4 4, nq := f 8 2, mode := f 10 1, fmt := f 11 1, depth := f 12 2, reduce := f 14 1,
    flags := f 15 1, items := f 16 4, iPitch := f 20 4, nItems := f 24 4, iAux := f 28 4, qAux := f 32 4, ids := f 36 4,
    idBase := f 40 4, k := f 44 2, scratch := f 46 1, out := f 48 4, ropeOff := f 52 2, ropeDims := f 54 2,
    qAuxVs := f 64 4, vFlags := f 68 1 }

def ScanRec.cont (r : ScanRec) : Bool := r.flags % 2 = 1
def ScanRec.final (r : ScanRec) : Bool := r.flags / 2 % 2 = 1
def ScanRec.prenorm (r : ScanRec) : Bool := r.vFlags % 2 = 1
def ScanRec.vector (r : ScanRec) : Bool := decide (1 ≤ r.mode ∧ r.mode ≤ 3)

/-- Lists a record keeps. -/
def ScanRec.lists (r : ScanRec) : Nat := if r.reduce = 1 then 1 else r.nq

/-- Does a record follow the tables? -/
def scanRecOk (b : List Byte) : Bool :=
  let r := ScanRec.of b
  decide (r.qPitch % 64 = 0 ∧ r.iPitch % 64 = 0 ∧ 1 ≤ r.nq ∧ r.nq ≤ 4096 ∧ r.mode ≤ 4 ∧ r.depth % 64 = 0 ∧ 64 ≤ r.depth ∧
    r.depth ≤ 4096 ∧ r.reduce ≤ 1 ∧ r.flags < 4 ∧ 1 ≤ r.nItems ∧ r.nItems ≤ 16777216 ∧ 1 ≤ r.k ∧ r.k ≤ 4096 ∧
    field b 47 1 = 0 ∧ field b 56 8 = 0) &&
  (r.reduce == 1 || decide (r.nq * r.k ≤ 65536)) &&
  (if r.vector then
    pairOk r.fmt r.fmt && decide (r.vFlags < 2 ∧ field b 69 59 = 0) &&
      (r.iAux != 0 || r.mode == 1 || (r.mode == 2 && r.prenorm))
   else r.fmt == 3 && decide (r.iAux = 0 ∧ field b 64 64 = 0) && (r.mode == 0 || r.nItems == 256))

/-! ### Summaries (R265) -/

/-- The smallest FP32 code c in [lo, lo + 2^n) whose value squared is at or above v, given that lo + 2^n is one. -/
def sqrtSearch (v : Val) : Nat → Nat → Nat
  | 0, lo => lo
  | n + 1, lo =>
    let mid := lo + 2 ^ n - 1
    let x := f32 (BitVec.ofNat 32 mid)
    if Val.lt (x.mul x) v then sqrtSearch v n (lo + 2 ^ n) else sqrtSearch v n lo

/-- The smallest FP32 value at or above the square root of a value at or above zero. -/
def sqrtUp (v : Val) : Word := if v.isNan then nan32 else BitVec.ofNat 32 (sqrtSearch v 31 0)

/-- The elements of a rotary section, or those outside it, of each row. -/
def sectionOf (rows : List (List Val)) (ropeOff ropeDims : Nat) (rotary : Bool) : List (List Val) :=
  rows.map fun r => (r.zipIdx.filter fun x => decide (ropeOff ≤ x.2 ∧ x.2 < ropeOff + ropeDims) == rotary).map Prod.fst

/-- The centroid of 256 rows: the mean of each element outside the rotary section, converted to E4M3 (R43, R44). -/
def centroidOf (rows : List (List Val)) (ropeOff ropeDims : Nat) : List Conv :=
  let cs := sectionOf rows ropeOff ropeDims false
  (List.range (cs.headD []).length).map fun d => convert .e4m3 ((Val.sum (cs.map fun r => r.getD d .zero)).scale (-8))

/-- Means that saturate: CVT_SAT_CNT counts them (R44). -/
def summarySats (rows : List (List Val)) (ropeOff ropeDims : Nat) : Nat := ((centroidOf rows ropeOff ropeDims).filter Conv.sat).length

/-- The summary of 256 rows of values: the elements outside the rotary section give the centroid and the radius, the rotary
section the rotary norm. The record's bytes. -/
def summaryOf (rows : List (List Val)) (ropeOff ropeDims : Nat) : List Byte :=
  let cs := sectionOf rows ropeOff ropeDims false
  let cent := (centroidOf rows ropeOff ropeDims).map Conv.bits
  let cv := cent.map Fmt.e4m3.value
  let sq (l : List Val) : Val := Val.sum (l.map fun x => x.mul x)
  let top (l : List Val) : Val := l.foldl Val.max .zero
  let rad := top (cs.map fun r => sq ((r.zip cv).map fun x => x.1.sub x.2))
  let rn := top ((sectionOf rows ropeOff ropeDims true).map sq)
  bytesOf 4 256 ++ bytesOf 4 (sqrtUp rad).toNat ++ bytesOf 4 (sqrtUp rn).toNat ++ List.replicate 52 0#8 ++
    cent.map (BitVec.ofNat 8)

/-! ### SCAN -/

def ScanRec.itemRow (r : ScanRec) (s : State) (n i : Nat) : List Val :=
  rowVals (fmtOf r.fmt) r.depth (s.ws n (r.items + i * r.iPitch) (rowBytes (fmtOf r.fmt) r.depth))

def ScanRec.queryRow (r : ScanRec) (s : State) (n q : Nat) : List Val :=
  rowVals (fmtOf r.fmt) r.depth (s.ws n (r.query + q * r.qPitch) (rowBytes (fmtOf r.fmt) r.depth))

/-- The dot product of R47, or the exact sum of R48, in a stored format, with its tally bits. -/
def dotOf (fmt : Nat) (q x : List Val) : Val × Word :=
  let ps := (q.zip x).map fun p => p.1.mul p.2
  if fmt = 8 then
    let v := Val.sum ps
    (v, BitVec.ofInt 32 (inUnitsOf v))
  else
    let v := groupSum .zero (groupOf fmt) ps
    (v, toF32 v)
where
  inUnitsOf (v : Val) : Int := match v with
    | .num neg m e => Val.mant neg m e 0
    | _ => 0

def ScanRec.dot (r : ScanRec) (q x : List Val) : Val × Word := dotOf r.fmt q x

/-- What scales a vector of a search: ISCALE and INORM of an item, or QSCALE and QNORM of a query row (R333). -/
structure VsAux where
  scale : Val
  norm  : Val
  deriving DecidableEq, Repr

/-- An item without AUX. -/
def VsAux.none : VsAux := ⟨.num false 1 0, .zero⟩

def VsAux.of (b : List Byte) : VsAux := ⟨f32 (BitVec.ofNat 32 (field b 0 4)), f32 (BitVec.ofNat 32 (field b 4 4))⟩

/-- The score of a distance mode from the dot product (R334). -/
def vsScore (mode : Nat) (prenorm : Bool) (dot : Val) (q x : VsAux) : Word :=
  let d := rne ((dot.mul q.scale).mul x.scale)
  if mode = 1 ∨ (mode = 2 ∧ prenorm) then toF32 d
  else if mode = 2 then
    let den := q.norm.mul x.norm
    if den.isZero then nan32 else BitVec.ofNat 32 (divTo .fp32 d den).bits
  else toF32 (((d.scale 1).sub q.norm).sub x.norm)

def f32At (s : State) (n off : Nat) : Val := f32 (BitVec.ofNat 32 (natOf (s.ws n off 4)))

/-- The score of one item for one query row from its dot product (R267, R334). -/
def ScanRec.score (r : ScanRec) (s : State) (n q i : Nat) (dot : Val) : Word :=
  if r.mode = 0 then
    let o := r.items + i * r.iPitch
    let t := rne (dot.add (rne ((f32At s n (r.qAux + 8 * q)).mul (f32At s n (o - 60)))))
    toF32 (t.add (rne ((f32At s n (r.qAux + 8 * q + 4)).mul (f32At s n (o - 56)))))
  else
    vsScore r.mode r.prenorm dot (VsAux.of (s.ws n (r.qAuxVs + 8 * q) 8))
      (if r.iAux = 0 then VsAux.none else VsAux.of (s.ws n (r.iAux + 8 * i) 8))

/-- The id of item i. -/
def ScanRec.idOf (r : ScanRec) (s : State) (n i : Nat) : Dword :=
  BitVec.ofNat 64 (if r.ids = 0 then (r.idBase + i) % 2 ^ 32 else natOf (s.ws n (r.ids + 4 * i) 4))

/-- The dots of one item, one for each query row. -/
def ScanRec.dots (r : ScanRec) (qs : List (List Val)) (x : List Val) : List (Val × Word) := qs.map fun q => r.dot q x

/-- Score one item into the lists (R268: per query row, or by its maximum over the rows). -/
def ScanRec.enter (r : ScanRec) (s : State) (n i : Nat) (ds : List (Val × Word)) (t : Tab (List Hit)) : Tab (List Hit) :=
  let id := r.idOf s n i
  let scs := ds.zipIdx.map fun (d, q) => r.score s n q i d.1
  if r.reduce = 1 then
    let m := match scs.map f32 with
      | [] => .zero
      | v :: vs => vs.foldl Val.max v
    modify (fun _ => []) t 0 fun l => keepBest r.k l [⟨toF32 m, id⟩]
  else scs.zipIdx.foldl (fun t (w, q) => modify (fun _ => []) t q fun l => keepBest r.k l [⟨w, id⟩]) t

/-- The partial scores of a block in the SCRATCH tile (DEPTH above 512): item by row, the last group of query rows by column. -/
def ScanRec.scratchRow (r : ScanRec) (ds : List (Val × Word)) : List Word :=
  let w := (ds.map Prod.snd).drop ((r.nq - 1) / 512 * 512)
  w ++ List.replicate (512 - w.length) 0#32

/-- SCAN, modes 0 to 3. The bytes of a list's header that R269 does not state are free values of the record. -/
def State.scanItems (s : State) (n : Nat) (b : List Byte) : State :=
  let r := ScanRec.of b
  let qs := (List.range r.nq).map (r.queryRow s n)
  let held := if r.cont then (s.core n).scan.lists else []
  let (lists, plane) := (List.range r.nItems).foldl (fun (t, p) i =>
      let ds := r.dots qs (r.itemRow s n i)
      (r.enter s n i ds t, if 512 < r.depth then Plane.setRow p r.scratch (i % 512) (r.scratchRow ds) else p))
    (held, if 512 < r.depth then (s.core n).plane.resetStates r.scratch else (s.core n).plane)
  let s := s.onCore n fun c => { c with scan := ⟨lists, true⟩, plane := plane }
  let s := s.bump64 (pageScan + 0x60 + 8 * n) r.nItems
  if !r.final then s else
  (List.range r.lists).foldl (fun s q =>
    let l := look (fun _ => []) lists q
    s.setWs n (r.out + q * listStride r.k) (bytesOf 4 l.length ++ (List.range 60).map (Config.scanPad b q) ++ hitBytes r.k l)) s

/-- SCAN, mode 4: the summary of a page. -/
def State.scanSummary (s : State) (n : Nat) (r : ScanRec) : State :=
  let rows := (List.range 256).map (r.itemRow s n)
  (s.setWs n r.out (summaryOf rows r.ropeOff r.ropeDims)).addSat n (summarySats rows r.ropeOff r.ropeDims)

/-- Working-store ranges of a record. -/
def ScanRec.rangeOk (r : ScanRec) : Bool :=
  let row := rowBytes (fmtOf r.fmt) r.depth
  let rotary := ((List.range r.depth).filter fun i => decide (r.ropeOff ≤ i ∧ i < r.ropeOff + r.ropeDims)).length
  wsFits r.items ((r.nItems - 1) * r.iPitch + row) &&
  (if r.mode = 4 then wsFits r.out (64 + r.depth - rotary)
   else
    wsFits r.query ((r.nq - 1) * r.qPitch + row) && (r.ids == 0 || wsFits r.ids (4 * r.nItems)) &&
    (!r.final || wsFits r.out ((r.lists - 1) * listStride r.k + 64 + 8 * r.k)) &&
    (if r.mode = 0 then decide (60 ≤ r.items) && wsFits r.qAux (8 * r.nq)
     else wsFits r.qAuxVs (8 * r.nq) && (r.iAux == 0 || wsFits r.iAux (8 * r.nItems))))

def scanCheck (w n : Nat) (s : State) : Option Nat :=
  let o := 64 * bitsOf w 19 0
  if !wsFits o 128 then some (eCore n 6)
  else if !scanRecOk (s.ws n o 128) then some (eCore n 1)
  else
    let r := ScanRec.of (s.ws n o 128)
    if r.mode ≤ 3 ∧ 512 < r.depth ∧ 7 < r.scratch then some (eCore n 5)
    else if !r.rangeOk then some (eCore n 6) else none

def State.scan (s : State) (n w : Nat) : State :=
  let b := s.ws n (64 * bitsOf w 19 0) 128
  if (ScanRec.of b).mode = 4 then s.scanSummary n (ScanRec.of b) else s.scanItems n b

/-- SCAN (R268 to R270). It waits for an earlier ATTN_KV (R223). -/
def execScan (c : Fin 8) (s : State) : Out :=
  .next (s.issue c 1 0x25 (fun w => scanCheck w c) fun w _ _ s => s.scan c w)

end Sys2Proof.Machine
end

