-- ==== Sys2Proof/Machine/Tier.lean ====
section
/-! DEFINITION. Objects, the placement operations, residency, page-ins, the reserve profile, the T1 wipe and the patrol scrub
(R190 to R203, R209 to R217, R459). -/

namespace Sys2Proof.Machine

/-! ### Handles and residency -/

/-- Bytes of an item: a slice of a windowed object, a 2 MiB frame of a T2-backed one (R193). -/
def Entry.unit (e : Entry) : Nat := if e.policy = 2 then max e.slice 1 else 0x200000

def granuleBytes : Nat := 0x10000

/-- Slots an object has in T1: W, or its frames. -/
def Entry.slots (e : Entry) : Nat := if e.policy = 2 then e.window else e.t1Bytes / 0x200000

/-- Items of an object. -/
def Entry.items (e : Entry) : Nat := ceilDiv e.length e.unit

/-- The slot that holds an item. -/
def State.slotOf (s : State) (e : Entry) (item : Nat) : Option Nat :=
  ((s.cache e.index).slots.find? fun x => x.2 = item + 1).map Prod.fst

/-- The T1 offset of an object's byte; none while its item is not resident. -/
def State.objT1 (s : State) (e : Entry) (off : Nat) : Option Nat :=
  if e.policy = 1 then some (e.t1Base + off)
  else (s.slotOf e (off / e.unit)).map fun k => e.t1Base + k * e.unit + off % e.unit

/-- Cut a range of an object at its item boundaries. -/
def objParts (unit : Nat) : Nat → Nat → Nat → List (Nat × Nat)
  | 0, _, _ => []
  | fuel + 1, off, n =>
    if n = 0 then []
    else
      let k := min n (unit - off % unit)
      (off, k) :: objParts unit fuel (off + k) (n - k)

def Entry.parts (e : Entry) (off n : Nat) : List (Nat × Nat) :=
  if e.policy = 1 then [(off, n)] else objParts e.unit (n / e.unit + 2) off n

/-- The items of a range that are not resident. -/
def State.absent (s : State) (e : Entry) (off n : Nat) : List Nat :=
  if e.policy = 1 then [] else ((e.parts off n).filter fun p => (s.objT1 e p.1).isNone).map fun p => p.1 / e.unit

/-- Granules a range touches. -/
def granulesOf (off n : Nat) : List Nat :=
  if n = 0 then [] else (List.range ((off + n - 1) / granuleBytes - off / granuleBytes + 1)).map fun i => off / granuleBytes + i

/-- Does a range reach a lost granule (R212)? -/
def State.lostIn (s : State) (e : Entry) (off n : Nat) : Bool :=
  (s.cache e.index).lost != [] && (granulesOf off n).any fun g => look (fun _ => false) (s.cache e.index).lost g

/-- A write through the handle sets the dirty bit of every granule it touches (R202). -/
def State.markDirty (s : State) (e : Entry) (off n : Nat) : State :=
  if e.policy ≠ 3 then s
  else s.onCache e.index fun c => { c with dirty := (granulesOf off n).foldl (fun t g => store (fun _ => false) t g true) c.dirty }

/-- The checks of a handle for a range (R23, R195, R193), in order, with the entry where all pass. A code of class 2 says that
the returned state has already taken the event (T1_UE in the table itself). Lost granules are met as they are reached (R212). -/
def State.checkHandle (s : State) (h : Nat) (lo hi : Int) (write : Bool) (own : Option Nat) : Except Nat Entry × State :=
  let i := h % 2 ^ 16
  if h = 0 then (.error eHandleInvalid, s)
  else match s.readT1 (s.ptBase + 64 * i) 64 own with
    | (none, s) => (.error eT1Ue, s)
    | (some b, s) =>
      let e := Entry.ofBytes i b
      (if e.policy = 0 then .error eHandleInvalid
       else if e.gen ≠ h / 2 ^ 16 then .error eHandleStale
       else if lo < 0 ∨ (e.length : Int) < hi then .error eObjRange
       else if write ∧ (e.policy = 2 ∨ e.readOnly) then .error eObjReadOnly
       else .ok e, s)

/-- A poisoned word in the placement entries that handles name (R190). -/
def State.entriesUe (s : State) (hs : List Nat) : Option Nat := hs.findSome? fun h => s.poisonIn (s.ptBase + 64 * (h % 2 ^ 16)) 64

/-- The checks of a handle for a range that is used whole: those above, then its lost granules (R212). -/
def State.checkRange (s : State) (h : Nat) (lo hi : Int) (write : Bool) (own : Option Nat) : Except Nat Entry × State :=
  match s.checkHandle h lo hi write own with
  | (.ok e, s) => (if s.lostIn e lo.toNat (hi - lo).toNat then .error eObjLost else .ok e, s)
  | r => r

/-- A check of handle `h` has failed: a class 1 code ends the command, with the index of the entry in its ERR_INFO (R219); a class 2 code has
been taken. -/
def State.failHandle (s : State) (id h code : Nat) : State :=
  if errClass code = 2 then s else s.failCommand id code 0#32 (if code / 0x40 % 0x40 = 5 then h % 2 ^ 16 * 2 ^ 16 else 0)

/-- Bytes of an object whose range is resident. -/
def State.objBytes (s : State) (e : Entry) (off n : Nat) : List Byte :=
  ((e.parts off n).map fun p => match s.objT1 e p.1 with
    | some a => s.t1 a p.2
    | none => List.replicate p.2 0#8).flatten

/-- The first poisoned word of an object's range. -/
def State.objPoison (s : State) (e : Entry) (off n : Nat) : Option Nat :=
  (e.parts off n).findSome? fun p => match s.objT1 e p.1 with
    | some a => s.poisonIn a p.2
    | none => none

/-- Write bytes of an object whose range is resident. -/
def State.setObj (s : State) (e : Entry) (off : Nat) (bs : List Byte) : State :=
  let s := (e.parts off bs.length).foldl (fun s p => match s.objT1 e p.1 with
    | some a => s.setT1 a ((bs.drop (p.1 - off)).take p.2)
    | none => s) s
  s.markDirty e off bs.length

/-! ### Page-ins asked for -/

def State.pageOf (s : State) (obj item : Nat) : Option PageIn := s.tier.pages.find? fun p => p.obj = obj && p.item = item

def State.setPages (s : State) (l : List PageIn) : State := { s with tier := { s.tier with pages := l } }

/-- Ask for an item: a demand turns a waiting prefetch of the same item into a demand (R201, R210). -/
def State.wantPage (s : State) (obj item : Nat) (prefetch : Bool) : State :=
  match s.pageOf obj item with
  | none => s.setPages (s.tier.pages ++ [⟨obj, item, 0, .waiting, none, prefetch⟩])
  | some _ => s.setPages (s.tier.pages.map fun p =>
      if p.obj = obj ∧ p.item = item then { p with prefetch := p.prefetch && prefetch } else p)

/-- The slices that a stream's first touch of slice `item` schedules (R200). -/
def Entry.ahead (e : Entry) (item : Nat) : List Nat :=
  if e.policy ≠ 2 then []
  else (List.range (e.window - 1)).filterMap fun i =>
    let k := item + 1 + i
    if k < e.items then some k else if e.wrap then some (k % e.items) else none

def State.schedule (s : State) (e : Entry) (item : Nat) : State :=
  (e.ahead item).foldl (fun s k => if (s.slotOf e k).isSome || k == item then s else s.wantPage e.index k true) s

/-! ### The reserve ports (R215 to R217) -/

def State.resPort (s : State) (p : Nat) : ResPort := look (fun _ => ResPort.reset) s.tier.ports p

def State.onResPort (s : State) (p : Nat) (f : ResPort → ResPort) : State :=
  { s with tier := { s.tier with ports := modify (fun _ => ResPort.reset) s.tier.ports p f } }

/-- A port that carries requests: enabled by RES_CFG, trained, and answered by its appliance. -/
def State.resUp (s : State) (p : Nat) : Bool := (s.resPort p).up && (s.stg (pageMem + 0x110)).getLsbD p

/-- The port and the appliance address of a granule (R192, R202). -/
def Entry.place (e : Entry) (g : Nat) : Nat × Nat :=
  if e.reserve = 2 then (g % 2, e.t2Base + g / 2 * granuleBytes) else (e.reserve % 2, e.t2Base + g * granuleBytes)

/-- The header flit of R215 with its link word. -/
def resHeader (type tag addr units flits : Nat) : List Byte :=
  bytesOf 1 type ++ [0#8] ++ bytesOf 2 tag ++ bytesOf 6 addr ++ bytesOf 2 units ++ List.replicate 44 0#8 ++ bytesOf 8 (flits * 2 ^ 46)

def State.sendRes (s : State) (p type tag addr units : Nat) (data : List Byte) : State :=
  let n := 1 + ceilDiv data.length 64
  let s := s.send (.reserve p type tag addr units data)
  s.transmit (16 + p) ⟨0, type, tag, s.chipId, 0, n, flitsOf (resHeader type tag addr units n) ++ flitsOf data, none⟩

/-- A tag not outstanding on the port. -/
def State.freeTag (s : State) (p : Nat) : Nat :=
  let used := (s.tier.t2.filter fun r => r.port = p && r.sent).map T2Req.tag
  let first := (s.resPort p).nextTag
  (((List.range 1024).map fun i => (first + i) % 1024).find? fun t => !used.contains t).getD 0

/-- Send waiting requests while the appliance takes more (MAX_TAGS). -/
def State.pumpT2 : Nat → State → State
  | 0, s => s
  | n + 1, s =>
    let room (p : Nat) : Bool := decide ((s.tier.t2.filter fun r => r.port = p && r.sent).length < (s.resPort p).maxTags)
    match s.tier.t2.findIdx? fun r => !r.sent && !r.dead && s.resUp r.port && room r.port with
    | none => s
    | some k =>
      match s.tier.t2[k]? with
      | none => s
      | some r =>
        let tag := s.freeTag r.port
        let s := { s with tier := { s.tier with t2 := s.tier.t2.set k { r with tag := tag, sent := true } } }
        let s := s.onResPort r.port fun p => { p with nextTag := (tag + 1) % 1024 }
        let s := if r.write then s.sendRes r.port 0x03 tag r.addr 1024 r.data else s.sendRes r.port 0x01 tag r.addr 1024 []
        State.pumpT2 n s

def State.pump (s : State) : State := s.pumpT2 s.tier.t2.length

/-! ### Placement operations: outcome -/

/-- Record the outcome of the operation (R221). -/
def State.ptDone (s : State) (result : Nat) : State :=
  let o := s.tier.ptOp
  State.setReg { s with tier := { s.tier with ptOp := { o with busy := false, want := [], waits := false } } } (pageMem + 0x68)
    (BitVec.ofNat 32 (result * 2 ^ 4 + o.index * 2 ^ 8))

/-- End a FLUSH or PREFETCH whose transfers have ended. -/
def State.ptSettle (s : State) : State :=
  let o := s.tier.ptOp
  if !o.busy then s
  else if o.op = 3 then
    if s.tier.t2.any fun r => r.flush && !r.dead then s else s.ptDone (if o.err then 6 else 0)
  else if o.want = [] then s.ptDone (if o.err then 6 else 0) else s

/-! ### Page-ins -/

/-- The reads that bring an item into a slot: all 2 MiB of a frame (R202), the granules of a slice within LENGTH (R200). -/
def Entry.reads (e : Entry) (item slot : Nat) : List T2Req :=
  let per := e.unit / granuleBytes
  (List.range per).filterMap fun i =>
    let g := item * per + i
    if e.policy = 3 ∨ g * granuleBytes < e.length then
      let (p, a) := e.place g
      some ⟨p, 0, false, e.index, g, a, e.t1Base + slot * e.unit + i * granuleBytes, 0, false, false, false, []⟩
    else none

def T2Req.item (r : T2Req) (e : Entry) : Nat := r.granule / (e.unit / granuleBytes)

/-- End every request that waits for an item of an object (R211). -/
def State.failWaiters (s : State) (obj item code : Nat) : State :=
  let s := allCores.foldl (fun s n =>
    [0, 3].foldl (fun s e =>
      match ((s.core n).eng.flyOf e).find? fun i => i.halted = some (obj, item) with
      | some i => s.coreFail n e code i.pc (obj * 2 ^ 16)
      | none => s) s) s
  (s.cmd.flights.filter fun f => f.halted = some (obj, item) && f.stage != .ended).foldl
    (fun s f => s.failCommand f.id code 0#32 (obj * 2 ^ 16)) s

/-- Let every instruction and MOVE that waits for an item go on (R209, R210). -/
def State.resumeWaiters (s : State) (obj item : Nat) : State :=
  let free (l : List InFlight) : List InFlight := l.map fun i => if i.halted = some (obj, item) then { i with halted := none } else i
  let s := allCores.foldl (fun s n => s.onEng n fun g => (g.onFly 0 free).onFly 3 free) s
  { s with cmd := { s.cmd with flights := s.cmd.flights.map fun f => if f.halted = some (obj, item) then { f with halted := none } else f } }

/-- Mark requests as abandoned; those not yet sent are forgotten. DESIGN CHOICE (log 121): the spec does not say when the tag of an abandoned
read is free again; here it is outstanding, and counts against MAX_TAGS, until an answer to it comes or its port is lost (R211, R217). -/
def State.killT2 (s : State) (p : T2Req → Bool) : State :=
  { s with tier := { s.tier with
    t2 := (s.tier.t2.map fun r : T2Req => if p r then { r with dead := true } else r).filter fun r : T2Req => r.sent || !r.dead } }

/-- A FLUSH or PREFETCH under way meets an error. -/
def State.ptErr (s : State) : State := { s with tier := { s.tier with ptOp := { s.tier.ptOp with err := true } } }

/-- Abandon a page-in (R211): its reads count for nothing, its slot is free again, and its waiters end. -/
def State.failPage (s : State) (e : Entry) (item code : Nat) : State :=
  let demand := match s.pageOf e.index item with
    | some p => !p.prefetch
    | none => false
  let s := s.setPages (s.tier.pages.filter fun p => !(p.obj = e.index && p.item = item))
  let s := s.killT2 fun r => decide (r.obj = e.index) && !r.write && r.item e == item
  let s := { s with tier := { s.tier with
    ptOp := if item ∈ s.tier.ptOp.want ∧ s.tier.ptOp.index = e.index then
      { s.tier.ptOp with want := s.tier.ptOp.want.filter (· != item), err := true } else s.tier.ptOp } }
  let s := if demand then s.failWaiters e.index item code else s
  s.ptSettle

/-- An item has arrived whole: it is resident. -/
def State.pageArrived (s : State) (e : Entry) (p : PageIn) : State :=
  let s := s.onCache e.index fun c => { c with slots := store noCount c.slots p.slot (p.item + 1) }
  let s := s.setPages (s.tier.pages.filter fun q => !(q.obj = p.obj && q.item = p.item))
  let s := s.bump (pageMem + 0x5C)
  let s := if p.prefetch && e.policy == 2 then s.bump (pageMem + 0x64) else s
  let s := { s with tier := { s.tier with ptOp := if s.tier.ptOp.index = e.index then
    { s.tier.ptOp with want := s.tier.ptOp.want.filter (· != p.item) } else s.tier.ptOp } }
  (s.resumeWaiters p.obj p.item).ptSettle

def PageIn.sameAs (p q : PageIn) : Bool := p.obj == q.obj && p.item == q.item

/-- Begin the reads of a page-in whose slot is clear; one that needs a port that is down fails (R217). DESIGN CHOICE (log 121): of the two codes
of R211 the spec does not say which a read that is never sent ends with; here T2_READ_ERR. -/
def State.startReads (s : State) (e : Entry) (p : PageIn) : State :=
  let rs := e.reads p.item p.slot
  if rs.any fun r => !s.resUp r.port then s.failPage e p.item eT2ReadErr
  else
    let s := s.setPages (s.tier.pages.map fun q => if q.sameAs p then { p with stage := .reading } else q)
    State.pump { s with tier := { s.tier with t2 := s.tier.t2 ++ rs } }

/-- Go on with a page-in that evicts, once no write of its victim is outstanding (R203). -/
def State.evictDone (s : State) (e : Entry) : State :=
  match s.tier.pages.find? fun p => p.obj = e.index && p.stage == .evicting &&
      !(s.tier.t2.any fun r => r.write && !r.dead && r.obj = e.index && some (r.item e) == p.victim) with
  | none => s
  | some p => s.startReads e p

/-- A write-back has failed twice (R212). MEM_ERR_INFO takes the entry as it takes any code (R219). -/
def State.wbLost (s : State) (e : Entry) (g : Nat) : State :=
  let s := s.onCache e.index fun c => { c with lost := store (fun _ => false) c.lost g true }
  (s.setReg (pageMem + 0x78) (BitVec.ofNat 32 g)).advisory eT2WbFail (e.index * 2 ^ 16) none

/-- Write back granules of an object (R203, R212): each is read from T1 now. Where the port is down, the write and its retry both fail at
once; where a word of the granule is poisoned, both fail at the read that finds it (R190). -/
def State.writeBack (s : State) (e : Entry) (flush : Bool) (gs : List (Nat × Nat)) : State :=
  let s := gs.foldl (fun s (g, a) =>
    let s := s.onCache e.index fun c => { c with dirty := store (fun _ => false) c.dirty g false }
    let (p, t2) := e.place g
    let lost (s : State) : State :=
      let s := s.wbLost e g
      if flush then s.ptErr else s
    if !s.resUp p then lost s
    else match s.readT1 a granuleBytes none with
      | (none, s) => lost (s.readT1 a granuleBytes none).2
      | (some d, s) =>
        { s with tier := { s.tier with t2 := s.tier.t2 ++ [⟨p, 0, true, e.index, g, t2, a, 0, flush, false, false, d⟩] } }) s
  s.pump

/-- Dirty granules of an item, with their T1 offsets in a slot. -/
def State.dirtyOf (s : State) (e : Entry) (item slot : Nat) : List (Nat × Nat) :=
  let per := e.unit / granuleBytes
  (List.range per).filterMap fun i =>
    let g := item * per + i
    if look (fun _ => false) (s.cache e.index).dirty g then some (g, e.t1Base + slot * e.unit + i * granuleBytes) else none

/-- Does a MOVE write this object? -/
def Flight.movesTo (f : Flight) (e : Entry) : Bool := f.opcode == 0x40 && f.get 17 1 == 2 && f.get 48 4 % 2 ^ 16 == e.index

/-- Items of an object that a read still under way for a MOVE will land in, or in which a granule is half read: they are pinned (R201, R203). -/
def State.pinned (s : State) (e : Entry) : List Nat :=
  (s.cmd.requests.filterMap fun r => match r.owner, r.land with
    | .command id, some pos => (s.flight? id).bind fun f => if f.movesTo e then some ((f.get 56 8 + pos) / e.unit) else none
    | _, _ => none) ++
  ((s.cmd.flights.filter fun f => f.movesTo e && f.stage == .running).map fun f =>
    f.parts.map fun p => (f.get 56 8 + p.1) / e.unit).flatten

/-- The slot a page-in takes: the slice's own slot, a free frame, or the next frame in clock order; none while every candidate is
being filled (R200, R203). -/
def State.takeSlot (s : State) (e : Entry) (item : Nat) : Option Nat :=
  let busy := (s.tier.pages.filter fun p => p.obj = e.index && p.stage != .waiting).map PageIn.slot
  if e.policy = 2 then (if busy.contains (item % e.window) then none else some (item % e.window))
  else
    let c := s.cache e.index
    let pins := s.pinned e
    let frames := (List.range e.slots).filter fun k => !(look noCount c.slots k != 0 && pins.contains (look noCount c.slots k - 1))
    match frames.find? fun k => look noCount c.slots k == 0 && !busy.contains k with
    | some k => some k
    | none => ((List.range e.slots).map fun i => (c.hand + i) % e.slots).find? fun k => !busy.contains k && frames.contains k

/-- A control core starts a page-in that waits: it takes its slot, and writes back what its victim holds that T2 does not (R203). -/
def State.startPage (s : State) (e : Entry) (p : PageIn) : State :=
  match s.takeSlot e p.item with
  | none => s
  | some k =>
    let v := look noCount (s.cache e.index).slots k
    let dirty := if v = 0 then [] else s.dirtyOf e (v - 1) k
    let s := s.onCache e.index fun c => { c with
      slots := store noCount c.slots k 0,
      hand := if v = 0 ∨ e.policy = 2 then c.hand else (k + 1) % e.slots }
    let p := { p with slot := k, stage := .evicting, victim := if v = 0 then none else some (v - 1) }
    let s := s.setPages (s.tier.pages.map fun q => if q.sameAs p then p else q)
    (s.writeBack e false dirty).evictDone e

/-- May a waiting page-in start now? A prefetch gives way to every demand that waits, and the prefetches of an object whose slots are
free start in the order in which they were scheduled (R200, R201); an item whose write-backs are outstanding waits for their end (R203). -/
def State.mayPage (s : State) (e : Entry) (p : PageIn) : Bool :=
  let waiting := s.tier.pages.filter fun q => q.stage == .waiting
  let mine := waiting.filter fun q => q.obj == p.obj && q.prefetch && (s.takeSlot e q.item).isSome
  p.stage == .waiting &&
    !(p.prefetch && (waiting.any (fun q => !q.prefetch) || (mine.head?.map PageIn.item).getD p.item != p.item)) &&
    !(s.tier.t2.any fun r => r.write && !r.dead && r.obj == p.obj && r.item e == p.item)

/-- PAGE_IN (R200, R203, R209). A poisoned word in the entry is found as the entry is read (R190), and the page-in is not begun. -/
def execPageIn (index : BitVec 16) (item : Nat) (s : State) : Out :=
  if s.mem.wiping || s.fatal then .next s else
  match s.pageOf index.toNat item with
  | none => .next s
  | some p =>
    let e := s.entry index.toNat
    if !s.mayPage e p then .next s
    else match s.readT1 (s.ptBase + 64 * index.toNat) 64 none with
      | (none, s) => .next s
      | (some _, s) => .next (s.startPage e p)

/-- A read has failed (R211). -/
def State.readFailed (s : State) (r : T2Req) (code : Nat) : State :=
  let e := s.entry r.obj
  (s.failPage e (r.item e) code).pump

/-- A write has failed: once more, then it is lost (R212). The retry fails at once while its port is down. -/
def State.writeFailed (s : State) (r : T2Req) : State :=
  let e := s.entry r.obj
  if r.tries = 0 && s.resUp r.port then
    State.pump { s with tier := { s.tier with t2 := s.tier.t2 ++ [{ r with tries := 1, sent := false }] } }
  else
    let s := s.wbLost e r.granule
    let s := if r.flush then s.ptErr else s
    ((s.evictDone e).ptSettle).pump

/-- Take the outstanding request of a tag off a port. -/
def State.takeT2 (s : State) (p tag : Nat) : Option T2Req × State :=
  match s.tier.t2.find? fun r => r.port = p && r.sent && r.tag = tag with
  | none => (none, s)
  | some r => (some r, { s with tier := { s.tier with t2 := s.tier.t2.filter fun q => !(q.port = p && q.sent && q.tag = tag) } })

/-- The data of a read lands; the last of it makes the item resident. -/
def State.landT2 (s : State) (q : T2Req) (data : List Byte) : State :=
  let e := s.entry q.obj
  let s := s.setT1 q.t1 data
  match s.pageOf q.obj (q.item e) with
  | none => s
  | some p =>
    if s.tier.t2.any fun x => !x.write && !x.dead && x.obj = q.obj && x.item e == q.item e then s
    else s.pageArrived e p

/-- RD_DATA with the data of a request that is outstanding. During a wipe of T1 data that would land wait for its end (R191); an abandoned
request takes none. -/
def State.takeRdData (s : State) (p tag : Nat) (data : List Byte) (again : Instr) : State :=
  match s.takeT2 p tag with
  | (none, _) => s
  | (some q, t) =>
    if q.write || data.length != granuleBytes then s
    else if q.dead then t.pump
    else if s.mem.wiping then { s with mem := { s.mem with held := s.mem.held ++ [again] } }
    else (t.landT2 q data).pump

/-- Every request that needs a reserve port fails, sent or not (R211, R212, R217). -/
def State.failPort (s : State) (p : Nat) : State :=
  let mine (r : T2Req) : Bool := r.port == p && !r.dead
  let ws := s.tier.t2.filter fun r => mine r && r.write
  let rs := s.tier.t2.filter fun r => mine r && !r.write
  let s := { s with tier := { s.tier with t2 := s.tier.t2.filter fun r => r.port != p } }
  let s := rs.foldl (fun s r => s.readFailed r eT2ReadErr) s
  ws.foldl State.writeFailed s

/-- A reserve port is down: its appliance must greet again, and what needs the port fails. -/
def State.reserveLost (s : State) (p : Nat) : State := (s.onResPort p fun _ => ResPort.reset).failPort p

/-- Does a reserve port bring in its appliance's messages? Only an UP port carries them (R369). -/
def State.hears (s : State) (r : Fin 2) (o : Out) : Out := if s.heard (16 + r.val) then o else .next s

/-- RD_DATA (R216). -/
def execRdData (r : Fin 2) (tag : Fin 1024) (data : List Byte) (s : State) : Out :=
  s.hears r (.next (s.takeRdData r tag data (.rdData r tag data)))

/-- WR_ACK (R216): the granule is durable. -/
def execWrAck (r : Fin 2) (tag : Fin 1024) (s : State) : Out :=
  s.hears r <| match s.takeT2 r tag with
  | (none, _) => .next s
  | (some q, s') =>
    if !q.write then .next s
    else if q.dead then .next s'.pump
    else .next (((s'.bump (pageMem + 0x60)).evictDone (s'.entry q.obj)).ptSettle).pump

/-- ERR of an appliance (R211, R212). -/
def execResErr (r : Fin 2) (tag : Fin 1024) (_status : Byte) (s : State) : Out :=
  s.hears r <| match s.takeT2 r tag with
  | (none, _) => .next s
  | (some q, s) =>
    let s := s.bump (pageMem + 0x54)
    .next (if q.dead then s.pump else if q.write then s.writeFailed q else s.readFailed q eT2ReadErr)

/-- T2_TIMEOUT (R211): the answer, should it come, changes nothing. -/
def execT2Timeout (r : Fin 2) (tag : Fin 1024) (s : State) : Out :=
  s.live <| match s.tier.t2.find? fun q => q.port = r.val && q.sent && q.tag = tag.val with
  | none => .next s
  | some q =>
    if q.write || q.dead then .next s
    else .next ((s.bump (pageMem + 0x58)).readFailed q eT2Timeout)

/-- HELLO_ACK (R217): the port comes up. -/
def execHelloAck (r : Fin 2) (capacity : Dword) (maxTags : BitVec 12) (s : State) : Out :=
  if maxTags.toNat = 0 ∨ 1024 < maxTags.toNat ∨ s.heard (16 + r.val) = false then .next s
  else
    let s := s.setReg (pageMem + 0xC0 + 8 * r.val) (capacity.truncate 32)
    let s := s.setReg (pageMem + 0xC4 + 8 * r.val) ((capacity >>> 32).truncate 32 &&& 0xFFFF#32)
    .next (s.onResPort r fun p => { p with up := true, maxTags := maxTags.toNat }).pump

/-! ### CREATE, FREE, FLUSH, PREFETCH (R197 to R199) -/

/-- PT_STAGE as bytes. -/
def State.ptStage (s : State) : List Byte :=
  ((List.range 16).map fun w => bytesOf 4 (s.reg (pageMem + 0x80 + 4 * w)).toNat).flatten

/-- Indices of the valid objects (R192): only listed bytes of the table can be a policy other than 0. -/
def State.objects (s : State) : List Nat :=
  let b := s.ptBase
  (s.mem.t1.filter fun e => decide (b ≤ e.1 ∧ e.1 < b + 0x400000 ∧ (e.1 - b) % 64 = 4 ∧ e.2 ≠ 0#8)).map fun e => (e.1 - b) / 64

/-- Is every field that the host supplies within its range (R192, R198)? -/
def entryOk (b : List Byte) : Bool :=
  let e := Entry.ofBytes 0 b
  decide (1 ≤ e.policy ∧ e.policy ≤ 3 ∧ e.flags < 16 ∧ e.reserve ≠ 3 ∧ e.length % granuleBytes = 0 ∧ granuleBytes ≤ e.length ∧
    e.length ≤ 2 ^ 48 ∧ e.t1Base % granuleBytes = 0 ∧ e.t1Base + e.t1Bytes ≤ t1Bytes ∧ field b 52 12 = 0) &&
  (if e.policy = 1 then decide (e.window = 0 ∧ e.t1Bytes = e.length ∧ e.t2Base = 0 ∧ e.slice = 0)
   else if e.policy = 2 then
     decide (2 ≤ e.window ∧ e.window ≤ 64 ∧ e.slice % granuleBytes = 0 ∧ 0 < e.slice ∧ e.t1Bytes = e.window * e.slice ∧
       e.t2Base % granuleBytes = 0 ∧ e.t2Base < 2 ^ 48)
   else decide (e.window = 0 ∧ e.slice = 0 ∧ e.t1Bytes % 0x200000 = 0 ∧ 4 * 0x200000 ≤ e.t1Bytes ∧
       e.t2Base % granuleBytes = 0 ∧ e.t2Base < 2 ^ 48))

/-- Does a region overlap the table or the region of a valid object (R194)? -/
def State.overlaps (s : State) (off n : Nat) : Bool :=
  let hit (b l : Nat) : Bool := decide (off < b + l ∧ b < off + n)
  hit s.ptBase 0x400000 || s.objects.any fun i => hit (s.entry i).t1Base (s.entry i).t1Bytes

/-- CREATE (R198). -/
def State.ptCreate (s : State) (i : Nat) : State :=
  let img := s.ptStage
  let e := s.entry i
  let n := Entry.ofBytes i img
  if !entryOk img then s.ptDone 1
  else if e.policy ≠ 0 then s.ptDone 2
  else if s.overlaps n.t1Base n.t1Bytes then s.ptDone 5
  else if n.policy ≠ 1 ∧ 256 ≤ s.cachedObjects.length then s.ptDone 4
  else
    let h := i + e.gen * 2 ^ 16
    let s := s.setT1 (s.ptBase + 64 * i) (bytesOf 4 h ++ slice img 4 44 ++ bytesOf 4 0 ++ slice img 52 12)
    let s := (s.onCache i fun _ => ObjCache.none_).setReg (pageMem + 0x6C) (BitVec.ofNat 32 h)
    s.ptDone 0

/-- FREE (R197, R198): the generation rises, skipping 0; what the object held in T1 and had under way is dropped. -/
def State.ptFree (s : State) (i : Nat) : State :=
  let e := s.entry i
  if e.policy = 0 then s.ptDone 7
  else if s.streams i ≠ 0 then s.ptDone 3
  else
    let g := if e.gen = 0xFFFF then 1 else e.gen + 1
    let s := s.setT1 (s.ptBase + 64 * i) (bytesOf 4 (i + g * 2 ^ 16) ++ [0#8])
    let s := s.onCache i fun _ => ObjCache.none_
    let s := s.setPages (s.tier.pages.filter fun p => p.obj ≠ i)
    (s.killT2 fun r => r.obj == i).ptDone 0

/-- FLUSH (R199). It also waits for the write-backs of the object that are outstanding already: what they write was written before. -/
def State.ptFlush (s : State) (i : Nat) : State :=
  let e := s.entry i
  if e.policy = 0 then s.ptDone 7
  else if e.policy = 1 then s.ptDone 0
  else
    let gs := ((s.cache i).slots.map fun x => s.dirtyOf e (x.2 - 1) x.1).flatten
    let t2 := s.tier.t2.map fun r : T2Req => if r.write && r.obj == i && !r.dead then { r with flush := true } else r
    (State.writeBack { s with tier := { s.tier with t2 := t2 } } e true gs).ptSettle

/-- PREFETCH (R197, R198). -/
def State.ptPrefetch (s : State) (i : Nat) : State :=
  let e := s.entry i
  let off := field s.ptStage 0 8
  let len := field s.ptStage 8 8
  if e.policy = 0 then s.ptDone 7
  else if len = 0 ∨ e.length < off + len then s.ptDone 1
  else if e.policy = 1 then s.ptDone 0
  else
    let items := s.absent e off len
    let s := items.foldl (fun s k => s.wantPage i k true) s
    State.ptSettle { s with tier := { s.tier with ptOp := { s.tier.ptOp with want := items } } }

/-- Read placement entries as the control cores do (R190, R219): has every one been read? -/
def State.readEntries (s : State) (is : List Nat) : Bool × State :=
  is.foldl (fun (ok, s) i => if !ok then (ok, s) else match s.readT1 (s.ptBase + 64 * i) 64 none with
    | (some _, s) => (true, s)
    | (none, s) => (false, s)) (true, s)

/-- Run a placement operation. It reads its entry, and CREATE those of the valid objects (R194); a poisoned word is found as an entry is read
(R190): the table is not changed, and the RESULT, which the spec does not give, is a free value. -/
def State.ptRun (s : State) (op i : Nat) : State :=
  let s := { s with tier := { s.tier with ptOp := ⟨true, op, i, [], false, false⟩ } }
  match s.readEntries (if op = 1 then i :: s.objects.filter (· != i) else [i]) with
  | (false, s) =>
    let (v, s) := s.draw
    s.ptDone (v.toNat % 16)
  | (true, s) => if op = 1 then s.ptCreate i else if op = 2 then s.ptFree i else if op = 3 then s.ptFlush i else s.ptPrefetch i

/-- Begin a placement operation, or discard the write while one runs (R197); one that arrives in a wipe is busy and waits for its end. -/
def State.ptBegin (s : State) (op i : Nat) (again : Instr) : State :=
  if s.tier.ptOp.busy then s.errBit pageMem 1
  else if s.mem.wiping then
    { s with
      tier := { s.tier with ptOp := ⟨true, op, i, [], false, true⟩ }
      mem := { s.mem with held := s.mem.held ++ [again] } }
  else s.ptRun op i

/-- A write of PT_OP (R197, R221). -/
def State.ptOpWrite (s : State) (v : Word) : State :=
  let op := v.toNat % 16
  let i := v.toNat / 2 ^ 8 % 2 ^ 16
  let bad := decide (v.toNat / 2 ^ 4 % 2 ^ 4 ≠ 0 ∨ v.toNat / 2 ^ 24 ≠ 0)
  if s.fatal then s
  else if bad || !(decide (1 ≤ op ∧ op ≤ 4)) then
    (if s.tier.ptOp.busy then s.errBit pageMem 1
     else ({ s with tier := { s.tier with ptOp := ⟨true, op, i, [], false, false⟩ } }).ptDone 8)
  else if op = 1 then s.ptBegin 1 i (.create (BitVec.ofNat 16 i))
  else if op = 2 then s.ptBegin 2 i (.free (BitVec.ofNat 16 i))
  else if op = 3 then s.ptBegin 3 i (.flush (BitVec.ofNat 16 i))
  else s.ptBegin 4 i (.prefetch (BitVec.ofNat 16 i))

def execCreate (i : BitVec 16) (s : State) : Out := .next (s.ptOpWrite (BitVec.ofNat 32 (1 + i.toNat * 2 ^ 8)))
def execFree (i : BitVec 16) (s : State) : Out := .next (s.ptOpWrite (BitVec.ofNat 32 (2 + i.toNat * 2 ^ 8)))
def execFlush (i : BitVec 16) (s : State) : Out := .next (s.ptOpWrite (BitVec.ofNat 32 (3 + i.toNat * 2 ^ 8)))
def execPrefetch (i : BitVec 16) (s : State) : Out := .next (s.ptOpWrite (BitVec.ofNat 32 (4 + i.toNat * 2 ^ 8)))

/-- PT_OP_BAD (R197): the write of a word that names no operation. -/
def execPtOpBad (v : Word) (s : State) : Out := .next (s.ptOpWrite v)

/-! ### The wipe and the scrub (R190, R191, R459) -/

/-- A T1 wipe starts: what T1 held is gone, and with it every object. Accesses wait from now on. DEDUCED (log 122): the spec gives no RESULT for
a FLUSH or PREFETCH under way then; here it is FREE_ENTRY (7), as for an operation on an entry that has become free (R197, R459). -/
def State.startWipe (s : State) : State :=
  let s := { s with
    mem := { s.mem with t1 := [], tables := [], poison := [], wiping := true },
    tier := { s.tier with caches := [], pages := [] } }
  let s := s.killT2 fun _ => true
  if s.tier.ptOp.busy && !s.tier.ptOp.waits then s.ptDone 7 else s

/-- T1_WIPE (R191, R220): a write of BLK_CTRL.WIPE, discarded while any command is in flight: one without a record yet (R27). -/
def State.wipeWrite (s : State) : State :=
  if s.mem.wiping || s.fatal then s
  else if s.cmd.flights ≠ [] then s.errBit pageMem 0
  else s.startWipe

def execT1Wipe (s : State) : Out := .next s.wipeWrite

/-- The end of a wipe: every entry of the placement table is free, with generation 1 (R459). -/
def State.endWipe (s : State) : State :=
  let b := s.ptBase
  { s with mem := { s.mem with
    t1 := restrict (fun k => decide (k < b ∨ b + 0x400000 ≤ k)) s.mem.t1
    wiping := false, tables := [b] } }

/-- PATROL_SCRUB of one code word (R191). -/
def execPatrolScrub (w : BitVec 32) (r : EccResult) (s : State) : Out :=
  if s.mem.wiping || s.fatal || !(s.reg (pageMem + 8)).getLsbD 1 || s.isPoisoned w.toNat then .next s
  else match r with
    | .ok => .next s
    | .corrected => .next (s.bump (pageMem + 0x44))
    | .uncorrectable =>
      .next (State.reportUe { s with mem := { s.mem with poison := store (fun _ => false) s.mem.poison w.toNat true } } w.toNat none)

end Sys2Proof.Machine
end

