-- ==== Sys2Proof/Machine/Index.lean ====
section
/-! DEFINITION. The records of vector search: the index, its views, the side object and the log (R329 to R332, R340). -/

namespace Sys2Proof.Machine

/-- The entry a handle names, where the handle is in force. -/
def State.handle? (s : State) (h : Nat) : Option Entry :=
  let e := s.entry (h % 2 ^ 16)
  if h ≠ 0 ∧ e.policy ≠ 0 ∧ e.gen = h / 2 ^ 16 then some e else none

/-! ### The index record (R329, R331) -/

structure View where
  vec      : Nat
  aux      : Nat
  ids      : Nat
  count    : Nat
  foldSeq  : Nat
  sideHead : Nat
  deriving DecidableEq, Repr

def View.of (b : List Byte) : View := ⟨field b 0 4, field b 4 4, field b 8 4, field b 12 4, field b 16 8, field b 24 8⟩

structure Index where
  idTab     : Nat
  side      : Nat
  metric    : Nat
  fmt       : Nat
  flags     : Nat
  dim       : Nat
  idBase    : Nat
  idCap     : Nat
  published : Nat
  sideCap   : Nat
  logCap    : Nat
  sideTail  : Nat
  view0     : View
  view1     : View
  deriving DecidableEq, Repr

def indexBytes : Nat := 256

def Index.of (b : List Byte) : Index :=
  { idTab := field b 0 4, side := field b 4 4, metric := field b 8 1, fmt := field b 9 1, flags := field b 10 1, dim := field b 12 2,
    idBase := field b 16 4, idCap := field b 20 4, published := field b 24 8, sideCap := field b 32 4, logCap := field b 36 4,
    sideTail := field b 40 8, view0 := View.of (slice b 64 64), view1 := View.of (slice b 128 64) }

def Index.prenorm (x : Index) : Bool := x.flags % 2 = 1
/-- The number of the active view. -/
def Index.active (x : Index) : Nat := x.flags / 2 % 2
def Index.view (x : Index) (v : Nat) : View := if v = 0 then x.view0 else x.view1

/-- Every handle that the record holds. -/
def Index.handles (x : Index) : List Nat :=
  [x.idTab, x.side, x.view0.vec, x.view0.aux, x.view0.ids, x.view1.vec, x.view1.aux, x.view1.ids].filter (· != 0)

/-- Bytes of a stored vector, and from one to the next. -/
def Index.rowLen (x : Index) : Nat := rowBytes (fmtOf x.fmt) x.dim
def Index.pitch (x : Index) : Nat := roundUp x.rowLen 64

/-! ### The side object (R332) -/

def Index.auxOff (x : Index) : Nat := roundUp (x.sideCap * x.pitch) 64
def Index.idsOff (x : Index) : Nat := roundUp (x.auxOff + x.sideCap * 8) 64
def Index.seqOff (x : Index) : Nat := roundUp (x.idsOff + x.sideCap * 4) 64
def Index.logOff (x : Index) : Nat := roundUp (x.seqOff + x.sideCap * 8) 64
def Index.logPitch (x : Index) : Nat := 64 + x.pitch
def Index.sideLen (x : Index) : Nat := x.logOff + x.logCap * x.logPitch

/-- Does a record follow the table of R329, its handles those of resident objects? -/
def State.indexOk (s : State) (x : Index) : Bool :=
  decide (1 ≤ x.metric ∧ x.metric ≤ 3 ∧ (x.fmt = 1 ∨ x.fmt = 3 ∨ x.fmt = 4 ∨ x.fmt = 7 ∨ x.fmt = 8) ∧ x.flags < 4 ∧
    x.dim % 64 = 0 ∧ 64 ≤ x.dim ∧ x.dim ≤ 4096 ∧ x.idBase + x.idCap ≤ 0xFFFFFFFF ∧ 1 ≤ x.sideCap ∧ x.sideCap ≤ 2 ^ 24 ∧
    1 ≤ x.logCap ∧ x.logCap ≤ 65536) &&
  match s.handle? x.idTab, s.handle? x.side with
  | some t, some d => t.policy == 1 && decide (32 * x.idCap ≤ t.length) && d.policy == 1 && decide (x.sideLen ≤ d.length)
  | _, _ => false

/-- Does a view follow the table of R331, apart from its reserved bytes? VEC is resident or T2-backed. -/
def State.viewOk (s : State) (x : Index) (v : View) : Bool :=
  let holds (h n : Nat) : Bool := match s.handle? h with
    | some e => decide (n ≤ e.length)
    | none => false
  let len := if v.count = 0 then 0 else (v.count - 1) * x.pitch + x.rowLen
  holds v.vec len && (match s.handle? v.vec with
    | some e => e.policy != 2
    | none => false) &&
  (v.aux == 0 || holds v.aux (8 * v.count)) && (v.ids == 0 || holds v.ids (4 * v.count)) && decide (v.sideHead ≤ x.sideTail)

/-- Do both views of a record follow the table? The spec gives an index that has had one view only no other form for its second: here its
64 bytes may be zero while it is not active. -/
def State.viewsOk (s : State) (x : Index) (b : List Byte) : Bool :=
  [0, 1].all fun v =>
    let w := slice b (64 + 64 * v) 64
    (v != x.active && w.all (· == 0#8)) || (s.viewOk x (x.view v) && (slice w 32 32).all (· == 0#8))

/-- The log entries of the LOG area (R340). -/
structure LogEntry where
  seq    : Nat
  id     : Nat
  kind   : Nat
  iscale : Nat
  inorm  : Nat
  attr   : Nat
  row    : List Byte
  deriving DecidableEq, Repr

def LogEntry.of (b : List Byte) : LogEntry :=
  ⟨field b 0 8, field b 8 4, field b 12 1, field b 16 4, field b 20 4, field b 24 8, b.drop 64⟩

def State.logEntries (s : State) (x : Index) (side : Entry) (n : Nat) : List LogEntry :=
  (List.range n).map fun i => LogEntry.of (s.objBytes side (x.logOff + i * x.logPitch) (64 + x.rowLen))

def insertsIn (l : List LogEntry) : Nat := (l.filter fun e => e.kind = 0).length

/-- Does a PUBLISH of `n` entries on the index object `obj` reuse a side slot that a query in flight under a former view still reads
(R345)? -/
def State.publishHeld (s : State) (h n : Nat) : Bool :=
  match s.handle? h with
  | none => false
  | some e =>
    let x := Index.of (s.objBytes e 0 indexBytes)
    match s.handle? x.side with
    | none => false
    | some d =>
      s.indexOk x && decide (n ≤ x.logCap) && s.queries.any fun q =>
        q.old && q.index == e.index &&
          decide (q.sideHead + x.sideCap < x.sideTail + insertsIn (s.logEntries x d n))

end Sys2Proof.Machine
end

