-- ==== Sys2Proof/Machine/Lms.lean ====
section
/-! DEFINITION. The hash-based signatures of RFC 8554 that R467 and R472 name: LMOTS_SHA256_N32_W4 one-time keys, LMS trees of SHA-256, and
HSS of two levels: verification of the vendor's signatures, and the identity key with its signatures. PRESUMED (log 123): the formats and
constants are those of the RFC, which the spec names and does not reproduce. -/

namespace Sys2Proof.Machine.Lms

/-- A number as `n` bytes, the highest first (u8str, u16str and u32str of the RFC). -/
def str (n v : Nat) : List Byte := (bytesOf n v).reverse

/-- The number that `n` bytes at an offset spell, the highest first. -/
def numAt (bs : List Byte) (o n : Nat) : Nat := natOf (slice bs o n).reverse

/-- Typecode of LMOTS_SHA256_N32_W4. -/
def otsType : Nat := 3

/-- Typecode of LMS_SHA256_M32 with a tree of height h (h = 5, 10, 15, 20, 25). -/
def treeType (h : Nat) : Nat := h / 5 + 4

/-- The 67 digits of a digest and of its checksum, four bits each. -/
def digits (q : List Byte) : List Nat :=
  let nibbles (bs : List Byte) : List Nat := (bs.map fun b => [b.toNat / 16, b.toNat % 16]).flatten
  let d := nibbles q
  (d ++ nibbles (str 2 ((d.map (15 - ·)).sum * 16))).take 67

/-- Go on with a hash chain of one-time key q: steps j to j + n − 1 of chain i. -/
def chain (id : List Byte) (q i : Nat) : Nat → Nat → List Byte → List Byte
  | 0, _, t => t
  | n + 1, j, t => chain id q i n (j + 1) (sha256 (id ++ str 4 q ++ str 2 i ++ str 1 j ++ t))

/-- The digest that a one-time key signs. -/
def otsDigest (id : List Byte) (q : Nat) (c msg : List Byte) : List Byte := sha256 (id ++ str 4 q ++ str 2 0x8181 ++ c ++ msg)

/-- A one-time public key from the ends of its chains. -/
def otsKey (id : List Byte) (q : Nat) (ends : List (List Byte)) : List Byte := sha256 (id ++ str 4 q ++ str 2 0x8080 ++ ends.flatten)

/-- A leaf, and an inner node, of a tree. -/
def leaf (id : List Byte) (node : Nat) (key : List Byte) : List Byte := sha256 (id ++ str 4 node ++ str 2 0x8282 ++ key)
def inner (id : List Byte) (node : Nat) (l r : List Byte) : List Byte := sha256 (id ++ str 4 node ++ str 2 0x8383 ++ l ++ r)

/-! ### Verification -/

/-- The one-time public key that a signature gives for a message. -/
def otsCandidate (id : List Byte) (q : Nat) (sig msg : List Byte) : List Byte :=
  let d := digits (otsDigest id q (slice sig 4 32) msg)
  otsKey id q (d.zipIdx.map fun (a, i) => chain id q i (15 - a) a (slice sig (36 + 32 * i) 32))

/-- The root that a path leads to from a node. -/
def climb (id : List Byte) : List (List Byte) → Nat → List Byte → List Byte
  | [], _, t => t
  | p :: rest, node, t => climb id rest (node / 2) (if node % 2 = 1 then inner id (node / 2) p t else inner id (node / 2) t p)

/-- Bytes of an LMS signature of a tree of height h. -/
def sigBytes (h : Nat) : Nat := 2188 + 32 * h

/-- Does an LMS signature verify under a public key of 56 bytes? -/
def verify (h : Nat) (pub msg sig : List Byte) : Bool :=
  let id := slice pub 8 16
  let q := numAt sig 0 4
  let key := otsCandidate id q (slice sig 4 2180) msg
  let path := (List.range h).map fun i => slice sig (2188 + 32 * i) 32
  numAt pub 0 4 == treeType h && numAt pub 4 4 == otsType && numAt sig 4 4 == otsType && numAt sig 2184 4 == treeType h &&
  decide (q < 2 ^ h) && climb id path (2 ^ h + q) (leaf id (2 ^ h + q) key) == slice pub 24 32

/-- Does an HSS signature of two levels verify under a public key of 60 bytes (R467)? -/
def hssVerify (h : Nat) (pub msg sig : List Byte) : Bool :=
  let n := sigBytes h
  let second := slice sig (4 + n) 56
  numAt pub 0 4 == 2 && numAt sig 0 4 == 1 && verify h (slice pub 4 56) second (slice sig 4 n) &&
  verify h second msg (slice sig (60 + n) n)

/-! ### Keys from a seed (Appendix A of the RFC) -/

/-- The secret start of chain i of one-time key q. -/
def secret (id seed : List Byte) (q i : Nat) : List Byte := sha256 (id ++ str 4 q ++ str 2 i ++ [0xFF#8] ++ seed)

/-- One-time public key q. -/
def otsPublic (id seed : List Byte) (q : Nat) : List Byte :=
  otsKey id q ((List.range 67).map fun i => chain id q i 15 0 (secret id seed q i))

/-- A node of a tree of height h, `d` levels above the leaves. -/
def node (h : Nat) (id seed : List Byte) : Nat → Nat → List Byte
  | 0, r => leaf id r (otsPublic id seed (r - 2 ^ h))
  | d + 1, r => inner id r (node h id seed d (2 * r)) (node h id seed d (2 * r + 1))

/-- An LMS public key. -/
def treePublic (h : Nat) (id seed : List Byte) : List Byte := str 4 (treeType h) ++ str 4 otsType ++ id ++ node h id seed h 1

/-- An LMS signature of leaf q, with the randomizer `c`. -/
def sign (h : Nat) (id seed : List Byte) (q : Nat) (c msg : List Byte) : List Byte :=
  let d := digits (otsDigest id q c msg)
  str 4 q ++ str 4 otsType ++ c ++ (d.zipIdx.map fun (a, i) => chain id q i a 0 (secret id seed q i)).flatten ++ str 4 (treeType h) ++
    ((List.range h).map fun i => node h id seed i (Nat.xor ((2 ^ h + q) / 2 ^ i) 1)).flatten

/-! ### The identity key (R472) -/

/-- The height of its trees. -/
def idHeight : Nat := 15

/-- I and SEED of the top tree of identity seed S. -/
def topId (s : List Byte) : List Byte := (sha256 (s ++ [1#8])).take 16
def topSeed (s : List Byte) : List Byte := sha256 (s ++ [2#8])

/-- I and SEED of second-level tree j. -/
def subId (s : List Byte) (j : Nat) : List Byte := (sha256 (s ++ [3#8] ++ str 4 j)).take 16
def subSeed (s : List Byte) (j : Nat) : List Byte := sha256 (s ++ [4#8] ++ str 4 j)

/-- The 60-byte identity public key. -/
def idPublic (s : List Byte) : List Byte := str 4 2 ++ treePublic idHeight (topId s) (topSeed s)

/-- The randomizer of a one-time signature, which the RFC leaves to the signer: a free value of the seed, the level, the tree and the leaf. -/
def randomizer (s : List Byte) (level tree q : Nat) : List Byte := bytesOf 32 (Config.otsRandomizer s level tree q).toNat

/-- Identity signature N over a message (R472): top-tree leaf N >> 15 signs the key of its second-level tree, whose leaf N AND 0x7FFF signs the
message. -/
def idSign (s : List Byte) (n : Nat) (msg : List Byte) : List Byte :=
  let j := n / 2 ^ 15
  let q := n % 2 ^ 15
  let second := treePublic idHeight (subId s j) (subSeed s j)
  str 4 1 ++ sign idHeight (topId s) (topSeed s) j (randomizer s 0 0 j) second ++ second ++
    sign idHeight (subId s j) (subSeed s j) q (randomizer s 1 j q) msg

/-- The vendor's public key in ROM. -/
def vendorKey : List Byte := (List.range 60).map Config.vendorKey

/-- Does a vendor signature area of 5,760 bytes hold a signature over a message that verifies, and zeros after it (R467)? -/
def vendorSigned (msg area : List Byte) : Bool :=
  (area.drop 5716).all (· == 0#8) && hssVerify 20 vendorKey msg (slice area 0 5716)

end Sys2Proof.Machine.Lms
end

