-- ==== Sys2Proof/Machine/Power.lean ====
section
/-! DEFINITION. The power controller (chapter 15): estimation, the average cap, issue limits, frequency changes, droop, calibration,
intercalary load, hints, alerts, temperature and the regulator. -/

namespace Sys2Proof.Machine

def State.onPower (s : State) (f : Power → Power) : State := { s with power := f s.power }

/-! ### Settings in force (R435) -/

def State.pwrCap (s : State) : Nat := (s.stg 0x0100100).toNat % 2 ^ 11
def State.pwrWindow (s : State) : Nat := (s.stg 0x0100104).toNat % 2 ^ 5
/-- FIXED in force: always on a CZ-5120-E (R3, R422). -/
def State.pwrFixed (s : State) : Bool := (s.stg 0x0100108).getLsbD 0 || Config.isVariantE
def State.boostEn (s : State) : Bool := (s.stg 0x0100108).getLsbD 1
def State.idlePoint (s : State) : Nat := (s.stg 0x0100108).toNat / 4 % 16

def State.hintEn (s : State) : Bool := (s.stg 0x0100118).getLsbD 6

/-- Do the reasons of R430 act now? 0 AVG_CAP, 1 DROOP, 2 THERMAL, 3 ALERT, 4 HINT. -/
def State.throttled (s : State) (r : Nat) : Bool :=
  let p := s.power
  match r with
  | 0 => allCores.any fun c => p.capOf c < 64
  | 1 => p.clamp
  | 2 => decide (p.kTherm < 64) || p.refused
  | 3 => p.alert && s.alertEn
  | _ => decide (p.point < p.hintFrom)

/-! ### Voltage (R421, R433) -/

/-- VDD_CORE of a point in mV. -/
def pointMv (i : Nat) : Nat := if h : i < 16 then (Config.voltagePoint ⟨i, h⟩).toNat else 0

/-- The present VDD_CORE in mV: the point voltage and the pre-position, the total held to 0.90 V (R428). -/
def State.vddCore (s : State) : Nat := min (pointMv s.power.vpoint + s.power.raise) (max 900 (pointMv s.power.vpoint))

/-- The present VDD_CORE current in mA: the VDD_CORE estimate divided by V (R426). -/
def State.coreAmps (s : State) : Nat := s.power.vdd / 2 / s.vddCore

/-- VR_CFG.ADDR (R433). -/
def State.vrAddress (s : State) : Nat := (s.stg 0x010011C).toNat / 2 ^ 8 % 2 ^ 7

/-- The packet error code of a VOUT_COMMAND: over the address, the command and the two bytes of the voltage (R510). -/
def State.voutPec (s : State) (value : Nat) : Byte :=
  BitVec.ofNat 8 (pec (bytesOf 1 (2 * s.vrAddress) ++ [0x21#8] ++ bytesOf 2 (Config.voutWord value).toNat))

/-- Put a PMBus transaction on the bus: VOUT_COMMAND with a voltage in mV, or the read of VOUT_MODE (R433, R510). -/
def State.pmbSend (s : State) (command value : Nat) : State :=
  s.send (.pmbus s.vrAddress command value (if command = 0x21 then some (s.voutPec value) else none))

/-- A new PMBus transaction: those before it have ended. -/
def State.pmbus (s : State) (command value : Nat) : State :=
  (s.pmbSend command value).onPower fun p => { p with pmbLast := [(command, value)], pmbTries := 0 }

def State.setVolt (s : State) : State := s.pmbus 0x21 s.vddCore

/-- A transaction has failed once more: it is sent again, with what follows it, or it is PWR_PMBUS_FAIL (R433). -/
def State.pmbFailed (s : State) (l : List (Nat × Nat)) (tries : Nat) : State :=
  if tries < 3 then (l.foldl (fun s x => s.pmbSend x.1 x.2) s).onPower fun p => { p with pmbLast := l, pmbTries := tries + 1 }
  else (s.onPower fun p => { p with pmbFail := true, pmbLast := [], pmbTries := 0 }).fatalStop 0x3044

/-- PMBUS_TIMEOUT (R433): a NACK, a reply whose packet error code is wrong (R510), or no reply. While two transactions may still fail (the
VOUT_MODE read at boot and the first voltage), which of them it was is a free value: the row does not say. -/
def execPmbusTimeout (s : State) : Out :=
  match s.power.pmbLast with
  | [] => .next s
  | [x] => .next (s.pmbFailed [x] s.power.pmbTries)
  | x :: rest =>
    let (v, s) := s.draw
    .next (if v.getLsbD 0 then s.pmbFailed (x :: rest) s.power.pmbTries else s.pmbFailed rest 0)

/-! ### Frequency changes (R422, R423, R425) -/

/-- Begin a change to a neighbouring point: a raise commands its voltage first. -/
def State.startChange (s : State) (target : Nat) : State :=
  let s := s.onPower fun p => { p with change := some target, due := false }
  if s.power.point < target then (s.onPower fun p => { p with vpoint := target }).setVolt else s

/-- One point toward another. -/
def stepToward (a b : Nat) : Nat := if a < b then a + 1 else a - 1

def State.changeToward (s : State) (b : Nat) : State :=
  if s.power.change.isSome ∨ s.power.point = b then s else s.startChange (stepToward s.power.point b)

/-- The switch: the arithmetic clock moves; a lowered voltage is commanded after it. While a hint holds the chip out of boost, the point goes on
down to 13 (R428). -/
def State.switchPoint (s : State) (target : Nat) : State :=
  let down := decide (target < s.power.point)
  let s := s.onPower fun p => { p with point := target, vpoint := target, change := none, due := false }
  let s := if down then s.setVolt else s
  if s.power.hintFrom ≠ 0 ∧ 13 < target then s.changeToward 13 else s

/-- FREQUENCY_SWITCH (R423, R425): due now; it waits while a clamp or its hold-off runs. -/
def execFrequencySwitch (s : State) : Out :=
  match s.power.change with
  | none => .next s
  | some t =>
    if s.power.clamp ∨ s.power.holdoff then .next (s.onPower fun p => { p with due := true })
    else .next (s.switchPoint t)

/-- PWR_FREQ_ABANDON (R425). -/
def execPwrFreqAbandon (s : State) : Out :=
  let p := s.power
  if p.change.isSome && p.due && (p.clamp || p.holdoff) then
    let s := s.onPower fun p => { p with change := none, due := false, vpoint := p.point }
    .next ((s.setVolt.bump 0x0100064).advisory 0x4041 0 none)
  else .next s

/-! ### The average cap (R416, R417, R419) -/

/-- Energy of a domain over the last PWR_WINDOW seconds: cores 0 to 7, T1 8, links 9, other 10. -/
def State.windowEnergy (s : State) (d : Nat) : Nat :=
  ((s.power.buckets.take (1000 * s.pwrWindow)).map fun b => look noCount b d).sum

def domains : List Nat := [0, 1, 2, 3, 4, 5, 6, 7, 8, 9, 10]

def State.windowTotal (s : State) : Nat := (domains.map s.windowEnergy).sum

/-- One watt over the window, in picojoules. -/
def State.windowWatt (s : State) : Nat := 10 ^ 12 * s.pwrWindow

/-- What the window averages of T1, links and other exceed their shares by, over the window. -/
def State.excess (s : State) : Nat :=
  let share (pct : Nat) : Nat := s.pwrCap * s.windowWatt * pct / 100
  (s.windowEnergy 8 - share 12) + (s.windowEnergy 9 - share 14) + (s.windowEnergy 10 - share 4)

/-- The next cap limit of a core. Everything is multiplied by 8 and by the window. -/
def State.nextCap (s : State) (c : Nat) : Nat :=
  let a := 8 * s.windowEnergy c + s.excess
  let share := 8 * (s.pwrCap * s.windowWatt * 875 / 10000)
  let k := s.power.capOf c
  if share < a then max (k - 1) 1 else if 64 * a < 63 * share then min (k + 1) 64 else k

/-! ### Estimation (R414, R415) -/

/-- The hottest valid sensor, 1/16 °C, and its index. A reading that marked its sensor failed counts in no run (R431). -/
def State.hottest (s : State) : Option (Int × Nat) :=
  (List.range 64).foldl (fun b i =>
    if look (fun _ => false) s.power.failed i || (s.reg (0x0100200 + 4 * i)).getLsbD 16 then b
    else
      let t := (BitVec.ofNat 16 (s.reg (0x0100200 + 4 * i)).toNat).toInt
      match b with
      | none => some (t, i)
      | some (x, j) => if x < t then some (t, i) else some (x, j)) none

/-- Counters of each domain (R414). -/
def domainCounters (d : Nat) : List Nat :=
  if d < 8 then (List.range 6).map (6 * d + ·) else if d = 8 then [48, 49, 50, 51]
  else if d = 9 then [52, 53, 54, 55, 56, 57, 58, 59] else [60, 61, 62, 63]

def weightOf (i : Nat) : Nat := if h : i < 64 then Config.powerWeight ⟨i, h⟩ else 0

/-- Flits that ports have sent (0x70) or received (0x78). -/
def State.flitSum (s : State) (ports : List Nat) (o : Nat) : Nat := (ports.map fun p => s.count (pageLink p + o)).sum

/-- The activity counter i since the reset, in the order of R414: six for each core, T1, links, other. None for the events that no command of
the model makes or that the model does not see (row activations, refresh and scrub operations, host-port bytes, control-core instructions, always-on
activity): what those count is a free value. -/
def State.activityCount (s : State) (i : Nat) : Option Nat :=
  let core (k : Nat) : Nat := (allCores.map fun n => look noCount (s.core n).eng.acts k).sum
  if i < 48 then some (look noCount (s.core (i / 6)).eng.acts (i % 6))
  else if i = 48 then some (s.count (pageMem + 0xD0))
  else if i = 49 then some (s.count (pageMem + 0xD8))
  else if 52 ≤ i ∧ i < 58 then
    let ports := if i < 54 then List.range 12 else if i < 56 then [12, 13, 14, 15] else [16, 17]
    some (s.flitSum ports (if i % 2 = 0 then 0x70 else 0x78))
  else if i = 61 then some (core 6)
  else if i = 62 then some (core 7)
  else none

/-- The activity counters that the model counts. -/
def countedActs : List Nat := (List.range 64).filter fun i => (i < 50 ∨ 52 ≤ i ∧ i < 58) ∨ i = 61 ∨ i = 62

/-- Events of counter i in the interval that ends now (R414). -/
def State.events (s : State) (i : Nat) : Nat × State :=
  match s.activityCount i with
  | some n => (n - look noCount s.power.acts i, s)
  | none =>
    let (v, s) := s.draw
    (v.toNat % 2 ^ 32, s)

/-- Energy at the present VDD_CORE of an energy at the voltage of point 13 (R414). -/
def State.scaleVdd (s : State) (e : Nat) : Nat := e * s.vddCore ^ 2 / pointMv 13 ^ 2

/-- A domain's estimate in picojoules for one interval (R414): its events by their weights, and its static power over 2 µs from the leakage table
of the image that runs. -/
def State.domainEstimate (s : State) (d : Nat) : Nat × State :=
  let (e, s) := (domainCounters d).foldl (fun (a, s) i =>
    let (n, s) := s.events i
    (a + weightOf i * n, s)) ((0 : Nat), s)
  let t : Int := match s.hottest with
    | some (t, _) => t / 80
    | none => 0
  (s.scaleVdd e + 2000 * Config.leakage (look (fun _ => []) s.sec.images 4) d s.vddCore t, s)

/-! ### Droop thresholds (R426) -/

def State.calLight (s : State) : Bool := decide (4 * s.power.cal.power < 1000 * s.pwrCap)

def State.droopThreshold (s : State) (d : Nat) : Nat × Bool :=
  if h : d < 32 then
    let useCal := s.power.cal.valid && !s.calLight
    let base : Int := if useCal then (s.power.cal.means.getD d 0 : Int) - Config.droopMargin ⟨d, h⟩
      else Config.droopTestThreshold ⟨d, h⟩
    let amps : Int := (s.coreAmps : Int) - (if useCal then s.power.cal.amps else Config.droopTestCurrent)
    ((base - (Config.droopLambda ⟨d, h⟩ : Int) * amps / 100000).toNat % 2 ^ 16, useCal)
  else (0, false)

def State.setThresholds (s : State) : State :=
  (List.range 32).foldl (fun s d =>
    let (t, cal) := s.droopThreshold d
    s.setReg (0x0100300 + 4 * d) (BitVec.ofNat 32 (t + if cal then 0 else 2 ^ 16))) s

/-- CAL_OP.START (R426, R435). A write while BUSY is discarded, and sets LIVE_WRITE (R491). -/
def State.calOp (s : State) : State :=
  if s.fatal then s
  else if s.power.cal.busy then s.errBit pagePower 0
  else s.onPower fun p => { p with cal := { p.cal with busy := true, sumP := 0, sumI := 0, ticks := 0 } }

def execCalStart (s : State) : Out := .next s.calOp

/-- CAL_COMPLETE (R426). -/
def execCalComplete (means : List Nat) (s : State) : Out :=
  let c := s.power.cal
  if !c.busy then .next s
  else
    let heavy := c.valid && !s.calLight
    let pw := if c.ticks = 0 then s.power.estimate / 2000 else c.sumP / c.ticks
    let am := if c.ticks = 0 then s.coreAmps else c.sumI / c.ticks
    let s := s.onPower fun p => { p with
      cal := { c with valid := true, busy := false, heavy := heavy, means := means, power := pw, amps := am } }
    .next (if heavy && s.calLight then s.advisory 0x4045 0 none else s)

/-! ### Intercalary load (R427) -/

/-- A barrier wait, a BARRIER without ARRIVE_ONLY or a WAIT holds the chip. -/
def State.chipWaits (s : State) : Bool :=
  s.cmd.flights.any fun f => f.stage == .running &&
    ((f.opcode == 0x41 && f.get 16 1 % 2 == 0) || f.opcode == 0x43)

/-- A plane that may run intercalary load. -/
def State.planeIdle (s : State) (c : Nat) : Bool :=
  let g := (s.core c).eng
  !g.gated && (g.flight.isNone || ((g.flyOf 1).isEmpty && match s.head c 1 with
    | some (w, _) => !s.waitOk c w.toNat
    | none => false))

/-- The floor L in picojoules of one interval, with the wait's record brought up to date. -/
def State.icFloor (s : State) : Nat × Option (Nat × Nat) :=
  let cfg := (s.stg 0x010010C).toNat
  let wait := if !s.chipWaits then none
    else match s.power.wait with
      | none => some (s.power.estimate, 0)
      | some (e, n) => some (e, n + 1)
  let lb := match wait with
    | some (e, n) => if 2 * n < cfg / 2 ^ 8 % 2 ^ 16 then e * (cfg % 128) / 100 else 0
    | none => 0
  (max lb (s.power.estimate - 28000000), wait)

/-- Rows that a plane streams in an interval of 2 µs at an issue fraction of j/64: 250 (point + 1) arithmetic cycles (R418, R421). -/
def State.slotRows (s : State) (j : Nat) : Nat := 250 * (s.power.point + 1) * j / 64

/-- The energy that intercalary load adds on core c at a fraction of j/64, held to the core's issue limit: rows streamed, by their weight (R414,
R420, R427). -/
def State.icEnergy (s : State) (j c : Nat) : Nat := s.scaleVdd (weightOf (6 * c) * s.slotRows (min j (s.issueK c)))

/-- Intercalary load where the estimate `e` falls below the floor (R427): the least issue fraction, in 1/64, that the weights predict will reach
it on the idle planes, or all slots where none does; and the energy that it adds on each plane. -/
def State.intercalary (s : State) (e floor : Nat) : Nat × List (Nat × Nat) :=
  let idle := allCores.filter s.planeIdle
  if (s.stg 0x010010C).getLsbD 7 = false ∨ floor ≤ e ∨ idle = [] then (0, [])
  else
    let added (j : Nat) : Nat := (idle.map (s.icEnergy j)).sum
    let j := (((List.range 64).map (· + 1)).find? fun j => decide (floor ≤ e + added j)).getD 64
    (j, idle.map fun c => (c, s.icEnergy j c))

/-- POWER_TICK (R414 to R419, R426, R427, R430): one interval of 2 µs. A commit that waits for the tick applies at it (R435, R495). -/
def execPowerTick (s : State) : Out :=
  if s.fatal || !s.power.lit then .next s else
  let (es, s) := domains.foldl (fun (l, s) d => let (e, s) := s.domainEstimate d; (l ++ [(d, e)], s)) (([] : List (Nat × Nat)), s)
  let acts := countedActs.foldl (fun t i => store noCount t i ((s.activityCount i).getD 0)) []
  let e0 := (es.map Prod.snd).sum
  let (floor, wait) := s.icFloor
  let (ic, extra) := s.intercalary e0 floor
  let runs := allCores.any fun c => (s.core c).eng.flight.isSome
  -- the VDD_CORE share of the estimate is not stated by number
  let (v, s) := s.draw
  let e := e0 + (extra.map Prod.snd).sum
  let s := s.onPower fun p =>
    let b := es.foldl (fun t x => modify noCount t x.1 (· + x.2)) (if p.tick = 0 then [] else p.buckets.headD [])
    let b := extra.foldl (fun t x => modify noCount t x.1 (· + x.2)) b
    let old := if p.tick = 0 then p.buckets else p.buckets.tail
    { p with
      tickAt := some s.time, energy := p.energy + e, estimate := e, vdd := v.toNat % (e + 1), buckets := (b :: old).take 30000,
      tick := if p.tick = 499 then 0 else p.tick + 1, ic := ic, wait := wait, acts := acts,
      idle := if p.ran || runs then 0 else p.idle + 1, ran := runs }
  let ks := allCores.map fun c => (c, s.nextCap c)
  let s := s.onPower fun p => { p with kCap := ks.foldl (fun t x => store k64 t x.1 x.2) p.kCap }
  let above := decide (s.pwrCap * s.windowWatt < s.windowTotal)
  let s := s.onPower fun p => { p with
    capSat := above && allCores.all (fun c => p.capOf c == 1),
    limited := p.limited || allCores.any (fun c => s.issueK c < 64),
    cal := if p.cal.busy then
      { p.cal with sumP := p.cal.sumP + e / 2000, sumI := p.cal.sumI + s.coreAmps, ticks := p.cal.ticks + 1 } else p.cal }
  let s := [0, 2, 3, 4].foldl (fun s r => if s.throttled r then s.bump64 (0x0100070 + 8 * r) 2 else s) s
  .next s.setThresholds

/-! ### The point (R422) -/

/-- The conditions for boost, the temperature apart. -/
def State.boostOk (s : State) : Bool :=
  let p := s.power
  !p.limited && (allCores.all fun c => s.issueK c == 64) && decide (10 * s.windowTotal ≤ 9 * (s.pwrCap * s.windowWatt)) &&
  !p.clamped && !p.clamp && decide (p.hintFrom = 0)

/-- The hottest valid sensor is at most 95 °C. -/
def State.coolEnough (s : State) : Bool :=
  match s.hottest with
  | some (t, _) => decide (t ≤ 1520)
  | none => true

/-- No action that goes before boost acts beside those that its conditions name: no intercalary load, no pre-position (R420). -/
def State.noneBefore (s : State) : Bool := decide (s.power.ic = 0 ∧ s.power.raise = 0)

/-- POINT_DECISION (R422, R437): once every 1 ms. A limit or clamp that stands counts in the next 1 ms too. -/
def execPointDecision (s : State) : Out :=
  if s.fatal || !s.power.lit then .next s else
  let p := s.power
  let idle := decide (50 ≤ p.idle) && !p.ran && allCores.all (fun c => (s.core c).eng.flight.isNone)
  let s' := s.onPower fun p => { p with
    limited := allCores.any fun c => s.issueK c < 64
    clamped := p.clamp
    refused := s.boostEn && !s.pwrFixed && !idle && !s.coolEnough }
  if p.change.isSome then .next s'
  else if s.pwrFixed then .next (s'.changeToward 13)
  else if idle then .next (if s.idlePoint < p.point then s'.changeToward s.idlePoint else s')
  else if s.boostEn then
    (if s.boostOk && s.coolEnough then .next (if p.point < 15 && s.noneBefore then s'.changeToward 15 else s')
     else .next (if 13 < p.point then s'.changeToward 13 else s'))
  else .next (if 13 < p.point then s'.changeToward 13 else s')

/-! ### Droop (R424, R425) -/

/-- DROOP_DETECT (R424): a detection during a clamp extends it; a new clamp ends the hold-off. -/
def execDroopDetect (_d : Fin 32) (s : State) : Out :=
  if !s.power.lit then .next s else
  let s := if s.power.clamp then s else (s.bump 0x0100068).onPower fun p => { p with clampAt := s.time }
  .next (s.onPower fun p => { p with clamp := true, holdoff := false, clamped := true, limited := true, clampLast := s.time })

/-- CLAMP_RELEASE (R424, R425, R430): 1 µs after the latest detection. THR_DUR takes the whole microseconds that the clamp was in force. -/
def execClampRelease (s : State) : Out :=
  if s.power.clamp then
    let ns := s.power.clampNs + 1000 + (s.power.clampLast - s.power.clampAt)
    .next ((s.bump64 0x0100078 (ns / 1000)).onPower fun p => { p with clamp := false, holdoff := true, clampNs := ns % 1000 })
  else .next s

/-- HOLDOFF_END (R425): a switch that waits goes on. -/
def execHoldoffEnd (s : State) : Out :=
  if !s.power.holdoff then .next s
  else
    let s := s.onPower fun p => { p with holdoff := false }
    match s.power.change with
    | some t => .next (if s.power.due then s.switchPoint t else s)
    | none => .next s

/-! ### Hints (R428) -/

/-- The largest fused λ, in µV per ampere. -/
def lambdaMax : Nat := (List.range 32).foldl (fun m d => if h : d < 32 then max m (Config.droopLambda ⟨d, h⟩) else m) 0

/-- The pre-position of a heavy hint in mV, at the present VDD_CORE. -/
def State.hintRaise (s : State) (level : Nat) : Nat :=
  let want := level * 7 * s.pwrCap * 100000 / (64 * s.vddCore)
  lambdaMax * (want - s.coreAmps) / 1000000

/-- Remove a pre-position. -/
def State.removeRaise (s : State) : State :=
  if s.power.raise = 0 then s else (s.onPower fun p => { p with raise := 0 }).setVolt

/-- A hint takes effect (R428, R399): a heavy one raises VDD_CORE at once and leaves boost before its phase. -/
def State.takeHint (s : State) (h : Hint) : State :=
  if !s.hintEn then s else
  let s := s.onPower fun p => { p with hint := some h, hintFrom := 0 }
  if h.kind ≠ 0 then s else
  let r := s.hintRaise h.level
  let s := if r = s.power.raise then s else (s.onPower fun p => { p with raise := r }).setVolt
  if (s.stg 0x0100118).toNat % 64 ≤ h.level ∧ 13 < s.power.point then
    (s.onPower fun p => { p with hintFrom := p.point }).changeToward 13
  else s

/-- HINT_PHASE_START (R428). -/
def execHintPhaseStart (s : State) : Out :=
  match s.power.hint with
  | none => .next s
  | some h =>
    if h.active then .next s
    else
      let s := s.onPower fun p => { p with hint := some { h with active := true } }
      .next (if h.kind = 0 then s else s.removeRaise)

/-- HINT_PHASE_END (R428). -/
def execHintPhaseEnd (s : State) : Out :=
  match s.power.hint with
  | none => .next s
  | some h =>
    if !h.active then .next s
    else
      let s := s.onPower fun p => { p with hint := none, hintFrom := 0 }
      .next (if h.kind = 0 then s.removeRaise else s)

/-! ### Alerts and temperature (R429, R431, R432) -/

/-- PMB_ALERT (R429). -/
def execPmbAlert (s : State) : Out :=
  .next (s.onPower fun p => { p with alert := true, limited := p.limited || s.alertEn })

/-- ALERT_RELEASE (R429): 100 µs after the signal is released. -/
def execAlertRelease (s : State) : Out := .next (s.onPower fun p => { p with alert := false })

/-- ALERT_N is driven low (R429): by the controller, which runs from boot step 4, so in no reset (R470, R506). -/
def State.alertLow (s : State) : Bool :=
  s.power.lit && (decide (s.power.kTherm < 64) || match s.hottest with
    | some (t, _) => decide ((((s.stg 0x0100110).toNat / 256 % 256 : Nat) : Int) * 16 ≤ t)
    | none => false)

/-- FAULT_N is driven low (R445): in no reset (R506). -/
def State.faultLow (s : State) : Bool := s.fatal && !s.sec.inReset

def State.failedSensors (s : State) : Nat := (s.power.failed.filter Prod.snd).length

/-- One sensor's reading, 1/16 °C. -/
def State.readSensor (s : State) (i : Nat) (t : Int) : State :=
  let was := look (fun _ => false) s.power.failed i
  let bad := was || decide (t < -640 ∨ 2400 < t)
  let s := s.setReg (0x0100200 + 4 * i) (BitVec.ofNat 32 ((BitVec.ofInt 16 t).toNat + if bad then 2 ^ 16 else 0))
  if bad && !was then
    (s.onPower fun p => { p with failed := store (fun _ => false) p.failed i true }).advisory 0x4046 (i * 2 ^ 16) none
  else s

/-- SENSOR_READ (R431). -/
def execSensorRead (readings : List Int) (s : State) : Out :=
  if !s.power.lit then .next s else
  let s := (readings.take 64).zipIdx.foldl (fun s x => s.readSensor x.2 x.1) s
  let throttle : Int := (((s.stg 0x0100110).toNat % 256 : Nat) : Int) * 16
  let s := match s.hottest with
    | some (t, i) => s.setReg 0x010004C (BitVec.ofNat 32 ((BitVec.ofInt 16 t).toNat + i * 2 ^ 16))
    | none => s
  let first := decide (s.power.kTherm = 64)
  let report (s : State) : State := if first then s.advisory 0x4042 0 none else s
  if 8 < s.failedSensors then .next (report (s.onPower fun p => { p with kTherm := 16, limited := true }))
  else match s.hottest with
    | none => .next s
    | some (t, _) =>
      if throttle ≤ t then
        .next (report (s.onPower fun p => { p with kTherm := max (p.kTherm - 4) 1, limited := true }))
      else if t < throttle - 48 then .next (s.onPower fun p => { p with kTherm := min (p.kTherm + 1) 64 })
      else .next s

/-- THERMTRIP (R432): THERMTRIP_N is asserted and latched, and the sticky TRIP flag set. -/
def execThermtrip (_sensor : Fin 64) (s : State) : Out := .next (s.onPower fun p => { p with trip := true, tripPin := true })

/-- PWR_STATUS (R435). -/
def State.pwrStatus (s : State) : Word :=
  let p := s.power
  let b (c : Bool) (k : Nat) : Nat := if c then 2 ^ k else 0
  BitVec.ofNat 32 (p.point + b s.pwrFixed 4 + b (decide (13 < p.point)) 5 + b p.clamp 6 + b (s.throttled 2) 7 + b (s.throttled 0) 8 +
    b (s.throttled 3) 9 + b (s.throttled 4) 10 + b (decide (p.ic ≠ 0)) 11 + b p.change.isSome 12 + b p.capSat 13)

/-- CAL_STAT (R435). -/
def State.calStat (s : State) : Word :=
  let c := s.power.cal
  BitVec.ofNat 32 ((if c.valid then 1 else 0) + (if c.valid && s.calLight then 2 else 0) + (if c.busy then 4 else 0) +
    c.power / 1000 % 4096 * 16)

end Sys2Proof.Machine
end

