-- ==== Sys2Proof/Machine/Reset.lean ====
section
/-! DEFINITION. The resets (R455 to R462, R498) and the outcome of a refused commit (R493). -/

namespace Sys2Proof.Machine

/-! ### Refusing a commit -/

/-- The blocks that CHIP_COMMIT_MASK names. -/
def State.namedBlocks (s : State) : List Nat :=
  let m := (s.reg 0x58).toNat + (s.reg 0x5C).toNat * 2 ^ 32
  (List.range 64).filter fun b => m.testBit b

/-- A swap that waited for a commit waits no more. -/
def Core.noSwap (c : Core) : Core := { c with sfu := { c.sfu with swapPending := false, compatPending := none } }

/-- Step 5 of R493. -/
def State.refuseCommit (s : State) (reason block detail : Nat) : State :=
  let bs := s.namedBlocks
  let s := allCores.foldl (fun s n => if bs.contains (0x10 + n) then s.onCore n Core.noSwap else s) s
  let s := { s with commit := { s.commit with
    busy := false, quiet := false, reason := reason, block := block, detail := detail, pending := [],
    refused := (s.commit.refused ++ bs).eraseDups,
    reasons := bs.foldl (fun t b => store noCount t b reason) s.commit.reasons } }
  (s.bump 0x70).errBit pageGlobal 1

/-! ### Cold and warm reset -/

/-- What OTP, the flash and the random generator hold, carried over a reset with a fresh DBG_NONCE. -/
def Security.carry (c : Security) : Security :=
  { Security.reset with
    lc := c.lc, provisioned := c.provisioned, seed := c.seed, fuses := c.fuses, minSvn := c.minSvn, flash := c.flash,
    draws := c.draws + 1, nonce := c.draws }

/-- COLD_RESET (R457, R458, R432, R471, R516): the TRIP flag survives while VDD_AON is held. A reset lasts until PWRGD and RESET_N are both
high, when BOOT comes about. -/
def State.coldReset (s : State) : State :=
  { State.reset with
    sec := s.sec.carry, power := { Power.reset with trip := s.power.trip }, free := s.free, out := s.out, pending := s.pending }

def execColdReset (s : State) : Out := .next s.coldReset

/-- Counters that their registers give as counts since cold reset (R162, R304, R327, R347, R410). R458 does not name them among what a warm
or a soft reset keeps; their own words are followed. -/
def sinceCold (off : Nat) : Bool :=
  decide (off = pageControl + 0x48 ∨ off = pageCirc + 0x50 ∨ off = pageScan + 0x48 ∨
    (pageCirc + 0x800 ≤ off ∧ off < pageCirc + 0x8C0 ∧ off % 16 < 8) ∨ (pageColl + 0xC0 ≤ off ∧ off < pageColl + 0xF0) ∨
    (0x1000000 ≤ off ∧ off % 0x200000 = 0x2010))

/-- Registers and counting registers of the always-on domain: the error log and the counts since cold reset of the global page, the
identity registers, and the power page's own registers (R450, R458). -/
def alwaysOn (off : Nat) : Bool :=
  sinceCold off || decide (off = 0x6C ∨ off = 0x70 ∨ (0x200 ≤ off ∧ off < 0x220 ∧ off ≠ 0x210) ∨ (0x400 ≤ off ∧ off < 0x600) ∨
    (0x818 ≤ off ∧ off < 0x860) ∨ (0x0100008 ≤ off ∧ off < 0x0100100) ∨ (0x0100200 ≤ off ∧ off < 0x0101000) ∨ off = 0x0400044)

/-- A warm reset (R457, R458). PWR_THERMTRIP outlives it (R445). -/
def State.warmReset (s : State) (lc : Bool) : State :=
  let tripped := s.fatal && (s.reg 0x210).toNat % 2 ^ 16 == 0x3043
  let r := { State.reset with
    sec := s.sec.carry,
    power := { Power.reset with energy := s.power.energy, trip := s.power.trip, tripPin := s.power.tripPin, cal := s.power.cal },
    free := s.free, out := s.out, pending := s.pending, fatal := tripped,
    win := { Window.reset with regs := restrict alwaysOn s.win.regs, counts := restrict alwaysOn s.win.counts } }
  let r := r.setReg 0x810 (if lc then 0x12#32 else 2#32)
  -- a mailbox operation and a discard under way are over
  let r := if s.sec.mbox.isSome then r.setReg 0x82C 0#32 else r
  let r := if s.disc.busy then r.setReg 0x208 (s.reg 0x208 &&& 0xFFFFFFFE#32) else r
  if tripped then r.setReg 0x210 (s.reg 0x210) else r

/-- WARM_RESET (R457, R462, R508, R516). While a cold reset is in force, RESET_N does not make it a warm one. -/
def execWarmReset (s : State) : Out :=
  .next (if s.sec.inReset && (s.reg 0x810).getLsbD 0 then s else s.warmReset false)

/-! ### Soft reset (R460) -/

/-- Pages that a soft reset keeps (R458). -/
def softKeeps (off : Nat) : Bool :=
  sinceCold off || decide (off < 0x4000 ∨ (0x0800000 ≤ off ∧ off < 0x0A02000) ∨ off = 0x0400044 ∨
    (0x0100070 ≤ off ∧ off < 0x0100098) ∨
    (0x1000000 ≤ off ∧ 0x60 ≤ off % 0x200000 ∧ off % 0x200000 < 0xC0))

/-- Staged words that a soft reset keeps: the group table returns to its reset values. -/
def softKeepsStaged (off : Nat) : Bool :=
  decide ((0x0800000 ≤ off ∧ off < 0x0A02000) ∨ (0x1000000 ≤ off ∧ (off % 0x200000 = 0x2100 ∨ off % 0x200000 = 0x2104)))

/-- Blocks whose BLK_STAGE_STAT lies on a page that a soft reset keeps. -/
def softKeepsBlock (b : Nat) : Bool := decide (b = 0 ∨ b = 0x0A ∨ (0x20 ≤ b ∧ b < 0x32) ∨ b = 0x3F)

/-- A mailbox operation that has not written its output ends NOT_READY (R461). -/
def State.endMailbox (s : State) (result : Nat) : State :=
  { s with sec := { s.sec with mbox := none } }.setReg 0x82C (BitVec.ofNat 32 (result * 16))

/-- A write of SOFT_RESET (R457, R460, R462). -/
def State.softResetWrite (s : State) (v : Word) : State :=
  if v ≠ 0x5354#32 then s
  else if s.sec.softReset ∨ s.fatal then s.errBit pageGlobal 0
  else
    let s := { s with sec := { s.sec with softReset := true } }.setReg 0x810 (s.reg 0x810 ||| 4#32)
    let s := if s.commit.busy then s.refuseCommit 0x10 0 0 else s
    let s := if s.sec.mbox.isSome then s.endMailbox 6 else s
    s.startDiscard 0 none none

def execSoftReset (v : Word) (s : State) : Out := .next (s.softResetWrite v)

/-- A core after a soft reset: its SFU stays. -/
def Core.soft (c : Core) : Core := { Core.reset with sfu := { c.sfu with swapPending := false, compatPending := none } }

/-- Step 2 of R460, and the begin of step 3, once the discard of step 1 is over: every queue is disabled, T0 and the tally stores are wiped, and
the wipe of T1 runs until T1_WIPE_END (R191). -/
def State.softWipe (s : State) : State :=
  if !s.sec.softReset || s.sec.softWiped then s else
  let s := (List.range 64).foldl (fun s q =>
    let o := 0x0A01000 + 0x40 * q
    if (s.stg o).getLsbD 0 then s.setActive o (s.stg o &&& 0xFFFFFFFE#32) else s) s
  let s := allCores.foldl (fun s n => s.onPlane n fun p => { Plane.reset with active := p.active }) s
  State.startWipe { s with mem := { s.mem with t0 := [] }, sec := { s.sec with softWiped := true } }

/-- Step 4 of R460: registers and counters. -/
def State.softResetRun (s : State) : State :=
  let p := s.power
  { s with
    win := { regs := restrict softKeeps s.win.regs, shadow := restrict softKeepsStaged s.win.shadow,
             active := restrict softKeepsStaged s.win.active,
             written := restrict (fun o => softKeepsStaged o && decide (o < 0x1000000)) s.win.written,
             counts := restrict softKeeps s.win.counts, latch := restrict (fun k => softKeeps (k / 8)) s.win.latch },
    commit := { Commit.reset with
      reason := s.commit.reason, block := s.commit.block, detail := s.commit.detail,
      refused := s.commit.refused.filter softKeepsBlock, reasons := restrict softKeepsBlock s.commit.reasons,
      applied := restrict softKeepsBlock s.commit.applied },
    cores := (s.cores.map fun c => (c.1, c.2.soft)).filter fun c => decide (c.2 ≠ Core.reset),
    sync := Sync.reset,
    tier := { Tier.reset with
      ports := s.tier.ports,
      t2 := (s.tier.t2.filter T2Req.sent).map fun r : T2Req => { r with dead := true } },
    coll := Coll.reset, circ := Circ.reset, queries := [],
    power := { Power.reset with
      point := p.point, vpoint := p.vpoint, change := p.change, due := p.due, clamp := p.clamp, holdoff := p.holdoff,
      clampAt := p.clampAt, clampLast := p.clampLast, clampNs := p.clampNs, alert := p.alert, energy := p.energy,
      estimate := p.estimate, vdd := p.vdd, buckets := p.buckets, tick := p.tick,
      trip := p.trip, tripPin := p.tripPin, lit := p.lit, pmbLast := p.pmbLast, pmbTries := p.pmbTries,
      acts := restrict (fun i => decide (52 ≤ i ∧ i < 58)) p.acts },
    sec := { s.sec with softReset := false, softWiped := false } }

/-- SOFT_RESET_END (R460): once the discard of its step 1 and the wipe of its step 3 are over. -/
def execSoftResetEnd (s : State) : Out :=
  if s.sec.softReset && s.sec.softWiped && !s.disc.busy && !s.mem.wiping then .next s.softResetRun else .next s

end Sys2Proof.Machine
end

