-- ==== Sys2Proof/Machine/Boot.lean ====
section
/-! DEFINITION. The boot sequence, the images, net boot, the leaf counter, the mailbox and the life cycle (R387, R388, R421, R463 to
R483). -/

namespace Sys2Proof.Machine

def State.onSec (s : State) (f : Security → Security) : State := { s with sec := f s.sec }

def flashDefault (_ : Nat) : Byte := 0xFF#8

def State.flashBytes (s : State) (off n : Nat) : List Byte := lookList flashDefault s.sec.flash off n

/-- Program flash bytes: NOR clears bits only. -/
def State.program (s : State) (off : Nat) (bs : List Byte) : State :=
  s.onSec fun c => { c with flash := storeList flashDefault c.flash off ((bs.zipIdx).map fun b => b.1 &&& look flashDefault c.flash (off + b.2)) }

/-- Erase a 4 KiB sector. -/
def State.eraseSector (s : State) (off : Nat) : State :=
  s.onSec fun c => { c with flash := restrict (fun k => decide (k < off ∨ off + 4096 ≤ k)) c.flash }

/-- An advisory of the security core (R484). -/
def State.secAdvise (s : State) (code : Nat) (more : Nat := 0) : State := s.advisory (0x4080 + code) more none

/-! ### The directory (R465, R466) -/

def State.dirOk (s : State) : Bool :=
  let d := s.flashBytes 0 4096
  field d 0 4 == 0x44495A43 && field d 4092 4 == (crc32c (d.take 4092)).toNat

/-- Flash offset and length of slot A (0) or B (1) of a kind; none where absent. -/
def State.imageSlot (s : State) (kind slot : Nat) : Option (Nat × Nat) :=
  if !s.dirOk then none else
  let e := s.flashBytes (16 + 16 * (2 * (kind - 1) + slot)) 16
  if field e 8 4 = 0 then none else some (field e 0 8, field e 8 4)

def State.mirrorAt (s : State) : Option Nat := if s.dirOk then some (natOf (s.flashBytes 144 8)) else none

/-- The board record becomes the reset value of the host port fields it names (R466). -/
def State.boardRecord (s : State) : State :=
  if !s.dirOk then s else
  let w (o n : Nat) : Word := BitVec.ofNat 32 (natOf (s.flashBytes o n))
  let s' := s.setActive 0x0A0010C (w 256 4)
  let s' := (List.range 4).foldl (fun t i => t.setActive (0x0A00110 + 4 * i) (w (260 + 4 * i) 4)) s'
  let s' := (s'.setActive 0x0A00120 (w 276 4 &&& 0xFFFF#32)).setActive 0x0A00124 (w 280 2)
  let s' := (s'.setActive 0x0A00128 (w 282 4)).setActive 0x0A0012C (w 286 2)
  let s' := (List.range 16).foldl (fun t i => t.setActive (0x0A00200 + 4 * i) (w (288 + 4 * i) 4)) s'
  s'.setActive 0x0A00130 (w 352 1 &&& 0xF#32)

/-! ### Images (R467, R468) -/

def maxImage : Nat := 16 * 2 ^ 20

def State.minSvn (s : State) (kind : Nat) : Nat := look noCount s.sec.minSvn kind

/-- The first step of R468 that an image fails; 0 where it passes all. -/
def State.imageFails (s : State) (kind : Nat) (img : List Byte) : Nat :=
  let f := field img
  if f 0 4 ≠ 0x4D495A43 ∨ f 4 1 ≠ kind ∨ f 5 1 ≠ 1 ∨ img.length ≠ 6016 + f 16 4 ∨ maxImage < img.length ∨ f 22 10 ≠ 0 ∨
      f 64 192 ≠ 0 then 1
  else if (f 20 1).testBit s.sec.lc = false then 2
  else if f 6 2 < s.minSvn kind ∨ 63 < f 6 2 then 3
  else if !Lms.vendorSigned (img.take 256) (slice img 256 5760) then 4
  else if slice img 32 32 ≠ sha256 (img.drop 6016) then 5
  else 0

/-- Record a rejected copy (R468). -/
def State.rejectImage (s : State) (kind step : Nat) : State := s.secAdvise 2 (kind * 2 ^ 16 + step * 2 ^ 20)

/-- Try the flash slots of a kind, A then B (R469). -/
def State.tryFlash (s : State) (kind : Nat) : State × Option (List Byte) :=
  [0, 1].foldl (fun (s, found) slot =>
    match found, s.imageSlot kind slot with
    | none, some (o, n) =>
      let img := s.flashBytes o (min n (6016 + natOf (s.flashBytes (o + 16) 4)))
      let step := s.imageFails kind img
      if step = 0 then (s, some img) else (s.rejectImage kind step, none)
    | _, _ => (s, found)) (s, (none : Option (List Byte)))

/-! ### The boot steps (R470) -/

/-- The order in which images are read. -/
def bootOrder : List Nat := [1, 4, 3, 2]

/-- A boot that fails: class 3, STAGE 15 (R469); net boot brings nothing more. -/
def State.bootFails (s : State) (code : Nat) : State := (s.onSec fun c => { c with stage := 15, needed := [] }).fatalStop code

/-- Does the fused voltage table pass R421? -/
def voltagesOk : Bool :=
  (List.range 16).all (fun i => decide (600 ≤ pointMv i ∧ pointMv i ≤ 900)) &&
  (List.range 15).all fun i => decide (pointMv i ≤ pointMv (i + 1))

/-- MIN_SVN rises once KIND 1 firmware with COMMIT_SVN runs (R468). -/
def State.raiseSvn (s : State) : State :=
  let run := look (fun _ => []) s.sec.images 1
  if run.getD 21 0#8 &&& 1#8 = 0#8 then s
  else s.onSec fun c => { c with minSvn := c.images.foldl (fun t x =>
    store noCount t x.1 (max (look noCount t x.1) (field x.2 6 2))) c.minSvn }

/-- Step 3: the security firmware runs; a recorded trip is reported (R471). -/
def State.startKind1 (s : State) : State :=
  let s := s.onSec fun c => { c with stage := 1 }
  if !s.power.trip then s
  else
    let s := ((s.recordCode 0x3043 0).logError 0x3043 0 false 0#32).setReg 0x810 (s.reg 0x810 ||| 8#32)
    s.onPower fun p => { p with trip := false }

/-- Step 5: T0, the tally stores and T1 are wiped, and R459 is applied: what net boot left there is gone. The wipe takes no step (log 11). -/
def State.bootWipe (s : State) : State :=
  let busy := s.mem.wiping
  let s := allCores.foldl (fun s n => s.onPlane n fun _ => Plane.reset) s
  let s := State.startWipe { s with mem := { s.mem with t0 := [] } }
  if busy then s else s.endWipe

/-- Step 4: the voltage table, VOUT_MODE and the first point (R421, R433, R470); the cores are gated no longer (R504). Then step 5. -/
def State.startKind4 (s : State) : State :=
  if !voltagesOk then s.bootFails 0x3047
  else
    let p := if s.pwrFixed then 13 else s.idlePoint
    let s := s.pmbus 0x20 0
    if !Config.regulatorLinear then (s.onPower fun q => { q with pmbFail := true, pmbLast := [] }).fatalStop 0x3044
    else
      let s := s.onPower fun q => { q with point := p, vpoint := p, raise := 0, lit := true }
      let s := s.setVolt.onPower fun q => { q with pmbLast := (0x20, 0) :: q.pmbLast }
      s.bootWipe.onSec fun c => { c with stage := 2 }

/-- Step 6: the SFU library goes into bank 0 of every core (R154). -/
def State.startKind3 (s : State) (img : List Byte) : State :=
  let payload := img.drop 6016
  let words (lo n : Nat) : Tab Word := (List.range n).filterMap fun i =>
    let w := Config.sfuImage payload (lo + i)
    if w = 0#32 then none else some (i, w)
  let bank : SfuBank := ⟨words 0 4096, words 4096 16384, BitVec.ofNat 64 (field img 8 8)⟩
  let s := allCores.foldl (fun s n => s.onCore n fun c => { c with sfu := { c.sfu with bank0 := bank, active := false } }) s
  s.onSec fun c => { c with stage := 3 }

/-- Step 7: the control cores run, and every port that EN enables starts training; the others are disabled. -/
def State.startLinks (s : State) : State :=
  (List.range 18).foldl (fun s p => if (s.stg (pageLink p + 0x100)).getLsbD 0 then s.train p else s.setPortState p 4) s

/-- An image that has passed its checks takes its place in the sequence. -/
def State.bootStep (s : State) (kind : Nat) (img : List Byte) : State :=
  let s := s.onSec fun c => { c with
    verified := c.verified ++ [kind], images := store (fun _ => []) c.images kind (img.take 256) }
  let s := s.raiseSvn
  if kind = 1 then s.startKind1
  else if kind = 4 then s.startKind4
  else if kind = 3 then s.startKind3 img
  else (s.onSec fun c => { c with stage := 4 }).startLinks

/-- Look for an image at its turn (R469, R470): in flash where BOOT_SEL permits it, and then by net boot where it permits that. -/
def State.seekImage (s : State) (k : Nat) : State :=
  if s.sec.bootSel = 1 ∨ s.sec.tried.contains k = true then s
  else
    let (s, img) := (s.onSec fun c => { c with tried := k :: c.tried }).tryFlash k
    match img with
    | some i => s.onSec fun c => { c with ready := store (fun _ => []) c.ready k i }
    | none =>
      if s.sec.bootSel = 0 then s
      else s.onSec fun c => { c with needed := store (fun _ => none) c.needed k (some NetImage.none_) }

/-- Go through the steps in order as far as the images are there. -/
def bootGo : List Nat → State → State
  | [], s => s
  | k :: rest, s =>
    if s.fatal then s
    else if s.sec.verified.contains k then bootGo rest s
    else
      let s := s.seekImage k
      let img := look (fun _ => []) s.sec.ready k
      if img ≠ [] then bootGo rest (s.bootStep k img)
      else if (look (fun _ => none) s.sec.needed k).isSome then s
      else s.bootFails 0x3081

/-! ### The leaf counter (R474, R475) -/

def leafSpan : Nat := 2 ^ 22

/-- The valid mirror records: slot and H and SEQ. -/
def State.mirrorRecords (s : State) (base : Nat) : List (Nat × Nat × Nat) :=
  (List.range 512).filterMap fun i =>
    let r := s.flashBytes (base + 16 * i) 16
    if field r 12 4 = (crc32c (r.take 12)).toNat then some (i, field r 0 8, field r 8 4) else none

/-- The record that counts: the highest SEQ. -/
def bestRecord (l : List (Nat × Nat × Nat)) : Option (Nat × Nat × Nat) :=
  l.foldl (fun b r => match b with
    | none => some r
    | some x => if x.2.2 < r.2.2 then some r else some x) none

/-- Append a mirror record and read it back; false where that fails. -/
def State.writeMirror (s : State) (h : Nat) : State × Bool :=
  match s.mirrorAt with
  | none => (s, false)
  | some base =>
    let (slot, seq) := match bestRecord (s.mirrorRecords base) with
      | some (i, _, q) => ((i + 1) % 512, q + 1)
      | none => (0, 1)
    let s := if slot % 256 = 0 then s.eraseSector (base + 16 * slot) else s
    let r := bytesOf 8 h ++ bytesOf 4 seq
    let r := r ++ bytesOf 4 (crc32c r).toNat
    let s := s.program (base + 16 * slot) r
    if s.flashBytes (base + 16 * slot) 16 == r then (s.onSec fun c => { c with limit := h }, true) else (s, false)

/-- N at a cold or warm reset (R475). -/
def State.readLeaf (s : State) : State :=
  let f := s.sec.fuses
  match s.mirrorAt.bind fun b => bestRecord (s.mirrorRecords b) with
  | some (_, h, _) =>
    if (f - 1) * leafSpan ≤ h ∧ h ≤ f * leafSpan then s.onSec fun c => { c with leaf := h, limit := h }
    else (s.onSec fun c => { c with leaf := f * leafSpan, limit := f * leafSpan }).secAdvise 5
  | none => (s.onSec fun c => { c with leaf := f * leafSpan, limit := f * leafSpan }).secAdvise 5

/-- Take the next leaf, reserving more in the mirror first (R474): the leaf, or the RESULT of the failure. -/
def State.takeLeaf (s : State) : State × Except Nat Nat :=
  let n := s.sec.leaf
  if 2 ^ 30 ≤ n then (s.secAdvise 6, .error 4)
  else
    let (s, ok) := if n < s.sec.limit then (s, true)
      else
        let h := min (n + 4096) (2 ^ 30)
        let s := if s.sec.fuses * leafSpan < h then s.onSec fun c => { c with fuses := c.fuses + 1 } else s
        s.writeMirror h
    if ok then (s.onSec fun c => { c with leaf := n + 1 }, .ok n) else (s.secAdvise 7, .error 5)

/-! ### BOOT -/

/-- BOOT (R463, R466, R469, R470, R508, R516): PWRGD and RESET_N are both high, and the chip leaves reset. BOOT_SEL is sampled; `programmed` is
what the board wrote to the flash since the last boot. -/
def execBoot (bootSel : BitVec 2) (programmed : List (Nat × Byte)) (s : State) : Out :=
  if !s.sec.inReset then .next s
  else
    let sel := bootSel.toNat
    let s := s.onSec fun c => { c with
      inReset := false, bootSel := sel, flash := programmed.foldl (fun t b => store flashDefault t b.1 b.2) c.flash }
    let s := s.boardRecord.readLeaf
    if s.sec.lc = 4 then .next s
    else if sel = 3 then .next (s.bootFails 0x3081)
    else
      -- with net boot only, every image is needed from the first; else an image is sought at its turn
      let s := if sel = 1 then s.onSec fun c => { c with
          needed := bootOrder.foldl (fun t k => store (fun _ => none) t k (some NetImage.none_)) c.needed }
        else s
      .next (bootGo bootOrder s)

/-! ### Net boot (R387, R388) -/

def State.netImage (s : State) (k : Nat) : Option NetImage := look (fun _ => none) s.sec.needed k

def State.setNet (s : State) (k : Nat) (n : Option NetImage) : State :=
  s.onSec fun c => { c with needed := store (fun _ => none) c.needed k n }

/-- The payload of a net-boot frame that the chip sends: it carries no bytes of an image, so LENGTH is 0 and CRC is that of none. -/
def netBytes (type image index : Nat) : List Byte :=
  bytesOf 2 0x4E42 ++ bytesOf 1 type ++ bytesOf 1 image ++ bytesOf 8 Config.serial.toNat ++ bytesOf 4 index ++ bytesOf 4 0 ++
  bytesOf 4 (crc32c []).toNat ++ List.replicate 8 0#8

/-- Send a net-boot frame to a MAC address. -/
def State.netSend (s : State) (mac type image index : Nat) : State := s.send (.netBoot mac 0x88B5 (netBytes type image index))

/-- Is this a net-boot frame to this chip: the EtherType, MAGIC and SERIAL of R387? -/
def netOurs (h : NbHdr) : Bool := h.etherType == 0x88B5#16 && h.magic == 0x4E42#16 && h.serial == Config.serial

/-- The MAC address that an image's offer came from. -/
def NetImage.mac (n : NetImage) : Nat := match n.offer with
  | some (_, mac) => mac
  | none => 0

/-- NB_ANNOUNCE, to every station: for each image still needed that has no offer. The index is the life-cycle state. -/
def execNbAnnounce (s : State) : Out :=
  .next (bootOrder.foldl (fun s k => match s.netImage k with
    | some n => if n.offer.isNone then s.netSend 0xFFFFFFFFFFFF 1 k s.sec.lc else s
    | none => s) s)

def NetImage.count (n : NetImage) : Nat := match n.offer with
  | some (len, _) => ceilDiv len 1024
  | none => 0

/-- Ask for blocks while fewer than 16 are outstanding. -/
def askBlocks : Nat → Nat → NetImage → State → NetImage × State
  | 0, _, n, s => (n, s)
  | fuel + 1, k, n, s =>
    if 16 ≤ n.open_.length ∨ n.count ≤ n.next then (n, s)
    else askBlocks fuel k { n with open_ := n.open_ ++ [n.next], next := n.next + 1 } (s.netSend n.mac 3 k n.next)

/-- NB_OFFER. -/
def execNbOffer (h : NbHdr) (length : Word) (mac : BitVec 48) (s : State) : Out :=
  let k := h.image.toNat
  match s.netImage k with
  | none => .next s
  | some n =>
    if n.offer.isSome || !netOurs h || decide (maxImage < length.toNat ∨ length.toNat = 0) then .next s
    else
      let (n, s) := askBlocks 16 k { n with offer := some (length.toNat, mac.toNat) } s
      .next (s.setNet k (some n))

/-- All blocks of an image have arrived: DONE, and the checks of R468. -/
def State.netDone (s : State) (k : Nat) (n : NetImage) : State :=
  let img := ((List.range n.count).map fun i => look (fun _ => []) n.blocks i).flatten
  let s := (s.netSend n.mac 5 k 0).setNet k none
  let step := s.imageFails k img
  let s := if step = 0 then
      s.onSec fun c => { c with ready := store (fun _ => []) c.ready k img, netUsed := true }
    else s.rejectImage k step
  bootGo bootOrder s

/-- NB_DATA. -/
def execNbData (h : NbHdr) (index : Word) (length : Word) (crc : Word) (payload : List Byte) (s : State) : Out :=
  let k := h.image.toNat
  let i := index.toNat
  match s.netImage k with
  | none => .next s
  | some n =>
    let len := match n.offer with
      | some (len, _) => min 1024 (len - 1024 * i)
      | none => 0
    if !n.open_.contains i || !netOurs h || length.toNat != payload.length || crc != crc32c payload || payload.length != len then .next s
    else
      let n := { n with open_ := n.open_.filter (· != i), blocks := store (fun _ => []) n.blocks i payload }
      let (n, s) := askBlocks 1 k n s
      if n.open_ = [] ∧ n.count ≤ n.next then .next (s.netDone k n) else .next (s.setNet k (some n))

/-- NB_READ_RETRY. -/
def execNbReadRetry (image : Byte) (index : Word) (s : State) : Out :=
  match s.netImage image.toNat with
  | none => .next s
  | some n => .next (if n.open_.contains index.toNat then s.netSend n.mac 3 image.toNat index.toNat else s)

/-- NB_TIMEOUT: net boot ends, so an image that the boot still waits for has no source left (R469). -/
def execNbTimeout (image : Byte) (s : State) : Out :=
  if (s.netImage image.toNat).isNone then .next s
  else .next (s.bootFails 0x3081)

/-- NB_ABORT: the sender gives the transfer up; the image is announced again. -/
def execNbAbort (h : NbHdr) (s : State) : Out :=
  match s.netImage h.image.toNat with
  | none => .next s
  | some _ => .next (if netOurs h then s.setNet h.image.toNat (some NetImage.none_) else s)

/-! ### Debug tokens and the life cycle (R478 to R482) -/

def State.nonce (s : State) : Nat := (Config.randomDraw s.sec.nonce).toNat % 2 ^ 128

def State.freshNonce (s : State) : State := s.onSec fun c => { c with nonce := c.draws, draws := c.draws + 1 }

def tokenBytes : Nat := 6016

/-- Does a token pass R482 for a KIND? -/
def State.tokenOk (s : State) (kind : Nat) (t : List Byte) : Bool :=
  let f := field t
  f 0 4 == 0x4B4F5444 && f 4 1 == kind && f 7 1 == 0 && f 32 224 == 0 && f 8 8 == Config.serial.toNat && f 16 16 == s.nonce &&
  Lms.vendorSigned (t.take 256) (slice t 256 5760)

def State.mboxAddr (s : State) : Nat := (s.reg 0x820).toNat + (s.reg 0x824).toNat % 2 ^ 10 * 2 ^ 32

/-- MBOX_ADDR names a 64-byte-aligned T1 range outside every protected region. -/
def State.mboxRange (s : State) (n : Nat) : Bool :=
  decide (s.mboxAddr % 64 = 0 ∧ s.mboxAddr + n ≤ t1Bytes) && !s.protected s.mboxAddr n

/-- The transitions of R479: none where forbidden, else whether a token is needed. -/
def State.lcNeeds (s : State) (target : Nat) : Option Bool :=
  let c := s.sec.lc
  if c = 4 then none
  else if target = 4 then some false
  else if Config.isVariantE then none
  else if c = 0 ∧ target = 1 then some true
  else if c = 1 ∧ target = 2 then (if s.sec.provisioned then some false else none)
  else if c = 2 ∧ target = 3 then some true
  else none

/-- A mailbox operation that is refused. -/
def State.mboxDenied (s : State) (result : Nat) : State :=
  (s.secAdvise 8).onSec fun c => { c with mbox := c.mbox.map fun m => { m with result := some result } }

def State.mboxResult (s : State) (result : Nat) : State :=
  s.onSec fun c => { c with mbox := c.mbox.map fun m => { m with result := some result } }

/-- Read the token at MBOX_ADDR, as it was when the OP was written: its bytes, or the RESULT of the failure. -/
def State.readToken (s : State) (addr : Nat) : State × Except Nat (List Byte) :=
  if !(decide (addr % 64 = 0 ∧ addr + tokenBytes ≤ t1Bytes)) then (s, .error 1)
  else match s.readT1 addr tokenBytes none with
    | (none, s) => (s, .error 2)
    | (some b, s) => (s, .ok b)

/-- Step 1 of R480, and step 2 where it passes. -/
def State.lcStart (s : State) (target addr : Nat) : State :=
  match s.lcNeeds target with
  | none => s.mboxDenied 3
  | some false => s.startDiscard 0 none none
  | some true =>
    match s.readToken addr with
    | (s, .error r) => if r = 1 then s.mboxResult 1 else s.mboxDenied 2
    | (s, .ok t) =>
      if s.tokenOk 2 t ∧ field t 5 1 = target then s.freshNonce.startDiscard 0 none none else s.mboxDenied 2

/-- Steps 3 and 4 of R480. -/
def State.lcFinish (s : State) (target : Nat) : State :=
  let s := s.onSec fun c => { c with lc := target, seed := if target = 3 then none else c.seed }
  s.warmReset true

def State.setMbox (s : State) (m : Mailbox) : State :=
  (s.onSec fun c => { c with mbox := some m }).setReg 0x82C 1#32

/-- A write of MBOX_OP (R477, R485). One while BUSY is discarded, and sets LIVE_WRITE (R491). A transition, which may read its token from T1 at
once, waits for the end of a wipe; the other operations reach T1 as they complete. In RETIRED there is no identity to show (R478).
DESIGN CHOICE (log 124): R485 lists no RESULT for an OP of 0, 6 or 7, which is ignored without one; a reserved bit of the word is ignored. -/
def State.mboxWrite (s : State) (v : Word) : State :=
  let op := v.toNat % 8
  let target := v.toNat / 2 ^ 8 % 8
  let addr := s.mboxAddr
  if s.sec.mbox.isSome then s.errBit pageGlobal 0
  else if op = 0 ∨ 5 < op ∨ s.fatal then s
  else
    let s := s.setMbox ⟨op, target, addr, none, none⟩
    if op = 1 then
      (if s.sec.lc ≠ 2 ∨ !s.sec.provisioned then s.mboxResult 3
       else if !s.mboxRange 6016 then s.mboxResult 1
       else match s.takeLeaf with
        | (s, .error r) => s.mboxResult r
        | (s, .ok n) => s.onSec fun c => { c with mbox := some ⟨op, target, addr, some n, none⟩ })
    else if op = 2 then (if s.sec.lc ≠ 2 then s.mboxDenied 3 else s)
    else if op = 3 then
      (if s.mem.wiping then { s with mem := { s.mem with held := s.mem.held ++ [.lcTransition (Fin.ofNat 8 target)] } }
       else s.lcStart target addr)
    else if op = 4 then (if s.sec.lc ≠ 1 ∨ s.sec.provisioned then s.mboxDenied 3 else s)
    else (if s.sec.seed.isNone ∨ s.sec.lc = 4 then s.mboxResult 3 else if !s.mboxRange 60 then s.mboxResult 1 else s)

/-- Go on with a transition that has waited: the operation is still there, and its discard has not begun. -/
def State.lcGo (s : State) : State :=
  match s.sec.mbox with
  | some m => if m.op = 3 ∧ m.result = none ∧ s.disc.busy = false then s.lcStart m.target m.addr else s
  | none => s

def execAttest (s : State) : Out := .next (s.mboxWrite 1#32)
def execDebugToken (s : State) : Out := .next (s.mboxWrite 2#32)
def execLcTransition (target : Fin 8) (s : State) : Out := .next (s.mboxWrite (BitVec.ofNat 32 (3 + target * 2 ^ 8)))
def execProvisionId (s : State) : Out := .next (s.mboxWrite 4#32)
def execGetPubkey (s : State) : Out := .next (s.mboxWrite 5#32)

/-- The identity seed S in OTP (R472, R473). -/
def State.idSeed (s : State) : List Byte := bytesOf 32 (Config.randomDraw (s.sec.seed.getD 0)).toNat

/-- The report of R476 with its signature. -/
def State.attReport (s : State) (n : Nat) : List Byte :=
  let img (k : Nat) : List Byte := look (fun _ => []) s.sec.images k
  let nonce := ((List.range 8).map fun w => bytesOf 4 (s.reg (0x840 + 4 * w)).toNat).flatten
  let flags := (if s.sec.perms.isSome then 1 else 0) + (if s.count 0x0400044 ≠ 0 then 2 else 0)
  let body := bytesOf 4 0x54535441 ++ bytesOf 2 1 ++ bytesOf 1 s.sec.lc ++ bytesOf 1 flags ++ bytesOf 8 Config.serial.toNat ++
    bytesOf 4 s.chipId ++ bytesOf 4 n ++ bytesOf 4 (2 ^ 30 - s.sec.leaf) ++ bytesOf 4 0 ++ nonce ++
    ([1, 2, 3, 4].map fun k => slice (img k) 32 32).flatten ++ (List.range 32).map Config.otpDigest ++
    [1, 2, 3, 4].map (fun k => BitVec.ofNat 8 (field (img k) 6 2)) ++ List.replicate 28 0#8
  body ++ Lms.idSign s.idSeed n body ++ List.replicate (6016 - 256 - 5396) 0#8

/-- PROVISION_ID (R473). -/
def State.provision (s : State) : State × Nat :=
  let s := s.onSec fun c => { c with
    seed := some c.draws, draws := c.draws + 1, provisioned := true, fuses := max c.fuses 1, leaf := 0, limit := 0 }
  match s.writeMirror 0 with
  | (s, true) => (s, 0)
  | (s, false) => (s.secAdvise 7, 5)

/-- What an operation that no check has ended does at its completion: its RESULT. -/
def State.mboxRun (s : State) (m : Mailbox) : State × Nat :=
  match m.op with
  | 1 => (s.setT1 m.addr (s.attReport (m.leaf.getD 0)), 0)
  | 2 =>
    match s.readToken m.addr with
    | (s, .error r) => (if r = 1 then s else s.secAdvise 8, r)
    | (s, .ok t) =>
      if s.tokenOk 1 t then (s.freshNonce.onSec fun c => { c with perms := some (field t 6 1 % 8) }, 0) else (s.secAdvise 8, 2)
  | 4 => s.provision
  | _ => (s.setT1 m.addr (Lms.idPublic s.idSeed), 0)

/-- MAILBOX_COMPLETE (R477, R480). -/
def execMailboxComplete (s : State) : Out :=
  s.live <| match s.sec.mbox with
  | none => .next s
  | some m =>
    match m.result with
    | some r => .next (s.endMailbox r)
    | none =>
      if s.mem.wiping then .next s
      else if m.op = 3 then (if s.disc.busy then .next s else .next (s.lcFinish m.target))
      else
        let (s, r) := s.mboxRun m
        .next (s.endMailbox r)

/-! ### Boot registers (R485) -/

def State.bootStatus (s : State) : Word :=
  let c := s.sec
  BitVec.ofNat 32 (c.stage + c.bootSel * 16 + (c.verified.map fun k => 2 ^ (5 + k)).sum + if c.netUsed then 2 ^ 10 else 0)

def State.lcState (s : State) : Word :=
  BitVec.ofNat 32 (s.sec.lc + (if s.sec.provisioned then 2 ^ 8 else 0) + if Config.isVariantE then 2 ^ 9 else 0)

def State.debugStat (s : State) : Word :=
  match s.sec.perms with
  | some v => BitVec.ofNat 32 (1 + 2 * v)
  | none => 0#32

def deviceReg : Word := BitVec.ofNat 32 (0x5120 + (if Config.isVariantE then 2 ^ 16 else 0) + Config.revision.toNat * 2 ^ 20)

end Sys2Proof.Machine
end

