-- ==== Sys2Proof/Machine/Sync.lean ====
section
/-! DEFINITION. Group barriers, hand-setting and the fences of the control cores (R120, R123 to R127, R131 to R133). -/

namespace Sys2Proof.Machine

/-! ### The tree of a group (R24, R25, R123) -/

/-- Does a member list hold an entry that R523 forbids? -/
def State.listBad (s : State) (g : Group) : Bool :=
  (List.range g.members).any fun i =>
    let k := unitKind (s.member g i)
    k == 3 || (k == 2 && i != g.position)

/-- A poisoned word in the member lists of a group's chain. -/
def State.listsUe (s : State) (g : Group) : Option Nat := (s.chain g).findSome? fun k => s.poisonIn k.list (4 * k.members)

/-- Do what reads the member lists of a group's chain: a poisoned word in them is `T1_UE`, and what needed the list is not done (R190). -/
def State.withLists (s : State) (g : Group) (f : State → State) : State :=
  match s.listsUe g with
  | some w => s.reportUe w none
  | none => f s

/-- The same for a group id; a group that this chip does not list has no list here. -/
def State.withGroup (s : State) (gid : Nat) (f : State → State) : State :=
  match s.group? gid with
  | some g => s.withLists g f
  | none => f s

/-- The state of the tally of subgroup h for barriers of group g, and, at (g, g), of g's own rounds. -/
def barKey (g h : Group) : Nat := g.entry * 256 + h.entry

/-- Is an entry broken (R127)? -/
def State.broken (s : State) (e : Nat) : Bool := (s.bar (e * 256 + e)).broken

/-- The groups of a chain, innermost first, whose arrivals this chip tallies. -/
def tallied (c : List Group) : List Group := c.reverse.takeWhile fun g => g.position == 0

/-! ### Errors (R127) -/

/-- The barriers of this chip on a group that still wait. -/
def State.barriersOn (s : State) (g : Group) : List Flight :=
  s.cmd.flights.filter fun f => f.opcode = 0x41 && f.group = g.id && f.stage == .running

/-- Record a barrier error: SYNC_ERR_INFO holds the offending member's position, for GROUP_EPOCH of the global block too (R127, R134). The
log entry names the queue and the TAG of the barrier that it ends, where one waits here (R450). -/
def State.recordBarrier (s : State) (code pos : Nat) (own : Option Flight) : State :=
  let info := pos % 2 ^ 12 * 2 ^ 16
  let s := s.recordCode code info
  let s := match own with
    | some f => s.logError code f.queue f.scope f.tagWord
    | none => s.logError code 0 false 0#32
  if (s.reg (pageSync + 0x6C)).toNat % 2 ^ 16 = 0 then s.setReg (pageSync + 0x6C) (BitVec.ofNat 32 (code + info)) else s

/-- The barriers on a group end with a code. -/
def State.endBarriers (s : State) (g : Group) (code pos : Nat) : State :=
  (s.barriersOn g).foldl (fun s f => s.endCommand f.id code (BitVec.ofNat 32 pos)) s

/-- A barrier error reaches this chip: it is recorded, the entry is broken, and the barriers on it end. -/
def State.barrierBreak (s : State) (g : Group) (code pos : Nat) : State :=
  ((s.recordBarrier code pos (s.barriersOn g).head?).onBar (barKey g g) fun b => { b with broken := true }).endBarriers g code pos

/-- Tell the members that a chip at `level` of the fan-out passes a barrier error on to. -/
def State.tellBarrier (s : State) (g : Group) (level code pos : Nat) : State :=
  s.eachMember g.id level fun s chip hdr => s.sendAwl chip 0 hdr (bytesOf 4 8 ++ bytesOf 4 0 ++ bytesOf 2 code ++ bytesOf 4 pos)
    (.barrierError chip g.id (field hdr 8 4) code pos)

/-- A barrier error that this chip finds on a group: it breaks the entry here, and every member is told. -/
def State.barrierError (s : State) (g : Group) (code pos : Nat) : State := (s.barrierBreak g code pos).tellBarrier g 0 code pos

/-! ### Releases -/

/-- Send a release on to the members of the groups that this chip tallies (R123). -/
def State.passRelease (s : State) (g : Group) (round : Nat) : State :=
  (tallied (s.chain g)).foldl (fun s h =>
    (List.range h.members).foldl (fun s i =>
      if i = h.position then s
      else s.sendAwl (s.headChip h i) 0 (fanBytes g 0) (bytesOf 4 7 ++ bytesOf 4 0 ++ bytesOf 6 round) (.release (s.headChip h i) g.id round)) s) s

/-- This chip, the root, releases a round: 1 is added to its release counter, and the release goes down the tree (R123). An addition that the
counter refuses ends the barriers that wait here (R131). -/
def State.releaseRound (s : State) (g : Group) (round : Nat) : State :=
  match s.addChip g.ctr 1 (srcWord s.chipId 5 0 0) with
  | (s, none) => s.passRelease g round
  | (s, some code) => ((s.ctrErr code g.ctr).passRelease g round).endBarriers g code g.ctr

/-! ### Arrivals (R124) -/

/-- Count an arrival for a round in a tally, or say what is wrong with it. -/
def Barrier.arrive (b : Barrier) (round : Nat) : Except Nat Barrier :=
  if round ≤ b.done then .error eBarrierStale
  else if b.done + 3 ≤ round then .error eBarrierAhead
  else if round = b.done + 1 then .ok { b with tally1 := b.tally1 + 1 }
  else .ok { b with tally2 := b.tally2 + 1 }

/-- Complete rounds while the first tally is full: the tally, and the rounds completed. -/
def Barrier.drain (members : Nat) : Nat → Barrier → List Nat → Barrier × List Nat
  | 0, b, ds => (b, ds)
  | n + 1, b, ds =>
    if b.tally1 = members then
      Barrier.drain members n { b with done := b.done + 1, tally1 := b.tally2, tally2 := 0 } (ds ++ [b.done + 1])
    else (b, ds)

/-- Send an arrival of round `round` for group `g` toward the tallying chip of `h`. -/
def State.sendArrival (s : State) (g h : Group) (round : Nat) : State :=
  s.sendAwl (s.headChip h 0) 0 (fanBytes g 0) (bytesOf 4 6 ++ bytesOf 4 h.id ++ bytesOf 6 round ++ bytesOf 2 h.position)
    (.arrival (s.headChip h 0) g.id h.id round h.position g.epoch)

/-- The group of a chain that holds `h` as its subgroup. -/
def outerOf : List Group → Nat → Option Group
  | a :: b :: rest, e => if b.entry = e then some a else outerOf (b :: rest) e
  | _, _ => none

/-- An arrival at this chip for subgroup `h` of group `g`; a completed round goes upward or is released. -/
def State.arrive : Nat → State → Group → Group → Nat → Nat → State
  | 0, s, _, _, _, _ => s
  | fuel + 1, s, g, h, round, pos =>
    match (s.bar (barKey g h)).arrive round with
    | .error code => s.barrierError g code pos
    | .ok b =>
      let (b, ds) := Barrier.drain h.members 3 b []
      let s := s.onBar (barKey g h) fun _ => b
      ds.foldl (fun s d =>
        if h.entry = g.entry then s.releaseRound g d
        else match outerOf (s.chain g) h.entry with
          | none => s
          | some o => if o.position = 0 then State.arrive fuel s g o d o.position else s.sendArrival g o d) s

/-- Has this chip's arrival a way to the chip that tallies it (R370)? -/
def State.arrivalWay (s : State) (g : Group) : Bool :=
  let h := (s.chain g).getLastD g
  h.position == 0 || (s.route s.chipId (s.headChip h 0)).isSome

/-- Enter a barrier on this chip (R124, R125): the round it took. -/
def State.barrierEnter (s : State) (g : Group) : Nat × State :=
  let round := (s.bar (barKey g g)).localRound + 1
  let s := s.onBar (barKey g g) fun b => { b with localRound := round }
  let h := (s.chain g).getLastD g
  (round, if h.position = 0 then s.arrive 17 g h round 0 else s.sendArrival g h round)

/-- BARRIER_ARRIVAL (R31, R123, R124, R127). -/
def execBarrierArrival (group sub : BitVec 20) (round : Nat) (epoch : Word) (pos : Nat) (s : State) : Out :=
  s.fromPeer (.next (match s.group? group.toNat with
    | none => s.recordBarrier eGroupEpoch pos none
    | some g => s.withLists g fun s =>
      if g.epoch ≠ epoch then s.barrierError g eGroupEpoch pos
      else match s.group? sub.toNat with
        | none => s.barrierError g eGroupEpoch pos
        | some h => if s.broken g.entry then s.barrierError g eBarrierBroken g.position else s.arrive 17 g h round pos))

/-- A barrier error that another chip found reaches this one (R127). The first report counts. A member list that R523 forbids ends the
barriers, and is no barrier error of R127: it breaks no entry. -/
def State.barrierTold (s : State) (g : Group) (e : BarrierReport) : State :=
  let s := s.tellBarrier g e.level e.code.toNat e.pos
  if e.code.toNat = eGroupList then s.endBarriers g eGroupList e.pos
  else if s.broken g.entry then s else s.barrierBreak g e.code.toNat e.pos

/-- A release that another chip sent: 1 is added to the release counter, and the release goes on. An addition that the counter refuses is
recorded here and ends nothing here (R131). -/
def State.takeRelease (s : State) (g : Group) (round : Nat) : State :=
  match s.addChip g.ctr 1 (srcWord s.chipId 5 0 0) with
  | (s, none) => s.passRelease g round
  | (s, some code) => (s.ctrErr code g.ctr).passRelease g round

/-- BARRIER_RELEASE (R123, R127): what comes down the tree of a group is the release of a round, or the error that ends the barrier on the
whole group, for which the spec names no step of its own. -/
def execBarrierRelease (group : BitVec 20) (round : Nat) (error : Option BarrierReport) (s : State) : Out :=
  s.fromPeer (.next (match s.group? group.toNat with
    | none => s
    | some g => s.withLists g fun s => match error with
      | none => s.takeRelease g round
      | some e => s.barrierTold g e))

/-- BARRIER_TIMEOUT (R126): the barrier of a command queue that still waits. -/
def execBarrierTimeout (q : Fin 64) (s : State) : Out :=
  match s.cmd.flights.find? fun f => f.queue = q.val && f.opcode = 0x41 && f.stage == .running with
  | none => .next s
  | some f =>
    match s.group? f.group with
    | none => .next s
    | some g =>
      if (s.stg (pageSync + 0x100)).toNat % 2 ^ 16 = 0 then .next s
      else .next (s.barrierError g eBarrierTimeout g.position)

/-! ### Hand-setting (R132, R133) -/

/-- SYNC_STATUS.HAND_SET_EN. -/
def State.handSetEn (s : State) : Bool := s.debugPerm 0

/-- A write of HAND_SET_HI applies the value to the counter that DBG_SEL selects. Every command in flight, also one whose part here is over,
gets the advisory. What was satisfied has been satisfied before; then the waits are evaluated again. The spec names no core counter for an
INDEX of 128 or more (here INDEX modulo 128), no value for a credit counter
beyond its 32 bits (here modulo 2^32), and no amount for the last source (here the value set). -/
def State.handSet (s : State) (hi : Word) : State :=
  if !s.handSetEn then s.errBit pageSync 1
  else
    let v := (s.reg (pageSync + 0x60)).toNat + hi.toNat % 2 ^ 16 * 2 ^ 32
    let sel := (s.reg (pageSync + 0x48)).toNat
    let i := sel % 2 ^ 12
    let n := sel / 2 ^ 12 % 8
    let onCore := sel / 2 ^ 15 % 2 = 1
    let credit := if onCore then decide (96 ≤ i % 128) else s.isCredit i
    let v := if credit then v % creditLimit else v
    let s := (s.bump (pageSync + 0x44)).advisory eSyncHandSet ((if onCore then i % 128 else i) * 2 ^ 16) none
    let s := { s with cmd := { s.cmd with flights := s.cmd.flights.map (Flight.fail · eSyncHandSet s.unit 0#32) } }
    if onCore then (s.setCoreCtr n (i % 128) v).noteLast (coreKey n (i % 128)) (srcWord s.chipId 6 0 0) v
    else ((((s.takeWaits i 64).setChipCtr i v).noteLast i (srcWord s.chipId 6 0 0) v).takeWaits i 64).wakeBarriers i

def execHandSet (hi : Word) (s : State) : Out := .next (s.handSet hi)

/-! ### Fences of the control cores (R120) -/

def noTags (_ : Nat) : List Nat := []

/-- A write of CTL_FENCE. -/
def State.ctlFence (s : State) (bits : Word) : State :=
  [0, 1, 2, 3].foldl (fun s c =>
    if bits.getLsbD c then
      { s with sync := { s.sync with fences := store noTags s.sync.fences c (look noTags s.sync.posted c) } }
    else s) s

def execCtlFence (bits : Word) (s : State) : Out := .next (s.ctlFence bits)

/-- The acknowledgement of a control core's remote write. -/
def State.controlAck (s : State) (c tag : Nat) : State :=
  let drop (t : Tab (List Nat)) : Tab (List Nat) := modify noTags t c fun l => l.filter (· != tag)
  { s with sync := { s.sync with posted := drop s.sync.posted, fences := drop s.sync.fences } }

end Sys2Proof.Machine
end

