-- ==== Sys2Proof/Machine/CmdBase.lean ====
section
/-! DEFINITION. Command queues and records: the registers of a queue, its head, the operators and their fields, the image block, and what a
command needs to start (R389 to R401, R496). -/

namespace Sys2Proof.Machine

/-! ### Registers of a queue (R411) -/

def cqPage (q : Nat) : Nat := 0x0A01000 + 0x40 * q

def State.cqEn (s : State) (q : Nat) : Bool := (s.stg (cqPage q)).getLsbD 0
def State.cqFormat (s : State) (q : Nat) : Nat := (s.stg (cqPage q)).toNat / 2 % 4
def State.cqSlots (s : State) (q : Nat) : Nat := 2 ^ ((s.stg (cqPage q)).toNat / 8 % 32)
def State.cqQp (s : State) (q : Nat) : Nat := (s.stg (cqPage q)).toNat / 2 ^ 8 % 2 ^ 8
def State.cqImm (s : State) (q : Nat) : Bool := (s.stg (cqPage q)).getLsbD 16
def State.cqBase (s : State) (q : Nat) : Nat := s.stg2 (cqPage q + 4) % 2 ^ 42
def State.cqHead (s : State) (q : Nat) : Nat := s.count (cqPage q + 0x1C)
def State.cqTail (s : State) (q : Nat) : Nat := s.count (cqPage q + 0x20)
def State.cplIndex (s : State) (q : Nat) : Nat := s.count (cqPage q + 0x24)
def State.setHead (s : State) (q v : Nat) : State := s.setCount (cqPage q + 0x1C) (v % 2 ^ 24)
def State.setTail (s : State) (q v : Nat) : State := s.setCount (cqPage q + 0x20) (v % 2 ^ 24)
def State.cplEntries (s : State) (q : Nat) : Nat := 2 ^ ((s.stg (cqPage q + 0xC)).toNat % 32)

def slotBytes (format : Nat) : Nat := if format = 1 then 32 else 64

/-- T1 offset of a slot. -/
def State.slotAt (s : State) (q i : Nat) : Nat := s.cqBase q + slotBytes (s.cqFormat q) * (i % s.cqSlots q)

/-- `n` slots from slot i, with wrap. -/
def State.slots (s : State) (q i n : Nat) : List Byte :=
  ((List.range n).map fun k => s.t1Seen (s.slotAt q (i + k)) (slotBytes (s.cqFormat q))).flatten

/-! ### Operators (R395) -/

/-- RECS of an operator; 0 where the opcode is not listed. -/
def recsOf (op : Nat) : Nat :=
  if op ∈ [0x01, 0x02, 0x03, 0x04, 0x14, 0x20, 0x21, 0x22, 0x23, 0x40, 0x41, 0x42, 0x43, 0x44] then 1
  else if op ∈ [0x10, 0x11, 0x12, 0x13, 0x15, 0x30] then 2 else 0

/-- Does a record carry the image block? -/
def hasImage (body : List Byte) : Bool :=
  let op := field body 0 1
  op ∈ [0x01, 0x02, 0x03, 0x04, 0x10, 0x11, 0x12, 0x13, 0x15] || (op == 0x30 && field body 52 1 == 0)

/-- The operator of a format-1 opcode (R394). -/
def format1Op (op1 : Nat) : Option Nat :=
  match op1 with
  | 0x01 => some 0x01 | 0x02 => some 0x02 | 0x03 => some 0x03 | 0x05 => some 0x20 | 0x06 => some 0x22 | 0x07 => some 0x21
  | 0x08 => some 0x40 | 0x09 => some 0x41 | 0x0A => some 0x42 | 0x0B => some 0x43 | 0x0C => some 0x04 | _ => none

/-! ### Fields (R392, R396 to R400) -/

/-- Every byte of a range is zero. -/
def zeroAt (b : List Byte) (o n : Nat) : Bool := (slice b o n).all (· == 0#8)

def imageFieldsOk (b : List Byte) : Bool :=
  let rmode := field b 20 2
  let args := field b 32 8
  let h := rmode / 4 % 32
  zeroAt b 22 2 && zeroAt b 40 8 &&
  decide (rmode < 128 ∧ (h = 15 ∨ h = 20) ∧ args % 64 = 0 ∧ args / 2 ^ 42 % 2 ^ 10 = 0 ∧
    args / 2 ^ 52 ≤ 64 ∧ args % 2 ^ 42 + 64 * (args / 2 ^ 52) ≤ t1Bytes)

def lenTabOk (b : List Byte) : Bool :=
  let t := field b 56 8
  decide (t / 2 ^ 42 % 2 ^ 6 = 0 ∧ 1 ≤ t / 2 ^ 48 ∧ t % 2 ^ 42 + 16 * (t / 2 ^ 48) ≤ t1Bytes)

/-- A tier 0 or 1 device address of the issuing chip. -/
def ownAddr (a : Nat) : Bool := decide (a / 2 ^ 44 = 0xFFFFF ∧ a / 2 ^ 42 % 4 ≤ 1)

def srcFmtOk (f : Nat) : Bool := decide (f = 0 ∨ f = 1 ∨ f = 2 ∨ f = 3 ∨ f = 4)

/-- The fields of R397 that belong to a circulation or a merge, where the command has none and so no chapter checks them: those of a
circulation without laces, and those of the merge of a plain ATTN_PREFILL. -/
def attnFieldsOk (b : List Byte) : Bool :=
  let op := field b 0 1
  let f := field b
  let merges := op == 0x11 || (op == 0x10 && (f 20 2).testBit 0)
  (op == 0x12 || f 64 1 != 0 || (decide (1 ≤ f 65 1 ∧ f 65 1 ≤ 16 ∧ 1 ≤ f 66 2) && (merges || decide (1 ≤ f 68 2 ∧ f 68 2 ≤ 256)))) &&
  (op != 0x10 || merges || decide (1 ≤ f 76 4 ∧ f 76 4 ≤ 65536 ∧ f 82 2 < 4096 ∧ f 84 1 < 96 ∧ f 85 1 ≤ 10))

/-- The body of a record follows its layout: no reserved bit is set and every field that has no code of its own is in range. -/
def bodyOk (b : List Byte) : Bool :=
  let op := field b 0 1
  let f := field b
  let n := b.length
  if op ≤ 4 then imageFieldsOk b && zeroAt b 48 (n - 48)
  else if op = 0x10 ∨ op = 0x11 ∨ op = 0x12 then
    let mask := f 64 1
    imageFieldsOk b && lenTabOk b && zeroAt b 54 2 && decide (mask < 64) && zeroAt b 70 2 && zeroAt b 86 2 && zeroAt b 92 4 &&
      zeroAt b 104 (n - 104) && (mask == 0 || f 62 2 == 1) && !(op == 0x11 && mask != 0) && !(op == 0x12 && !zeroAt b 72 32) &&
      attnFieldsOk b
  else if op = 0x13 then
    imageFieldsOk b && lenTabOk b && decide (f 54 1 ≤ 3 ∧ f 55 1 < 2) && srcFmtOk (f 76 1) && decide (f 77 1 ≤ 5) &&
      zeroAt b 80 (n - 80)
  else if op = 0x14 then zeroAt b 21 3 && zeroAt b 48 (n - 48) && decide (f 20 1 ≤ 4)
  else if op = 0x15 then
    imageFieldsOk b && zeroAt b 59 1 && zeroAt b 66 6 && zeroAt b 88 (n - 88)
  else if isColl op then zeroAt b 60 (n - 60) && decide (f 22 1 < 8)
  else if op = 0x30 then
    let o := f 52 1
    if o = 0 then imageFieldsOk b && zeroAt b 58 6 && zeroAt b 108 4 && zeroAt b 120 (n - 120)
    else if 2 < o then true
    else zeroAt b 16 32 && zeroAt b 53 11 && zeroAt b 80 (n - 80) && (if o = 1 then zeroAt b 68 4 else zeroAt b 65 7)
  else if op = 0x40 then
    let kindOk (k o : Nat) : Bool :=
      if k = 0 then zeroAt b (o + 8) 8
      else if k = 1 then f o 8 / 2 ^ 42 % 4 != 2 && zeroAt b (o + 8) 8
      else k == 2 && zeroAt b (o + 4) 4
    zeroAt b 18 6 && decide (1 ≤ f 24 8 ∧ f 24 8 ≤ 2 ^ 40) && kindOk (f 16 1) 32 && kindOk (f 17 1) 48 && zeroAt b 64 (n - 64)
  else if op = 0x41 then decide (f 16 1 < 2) && zeroAt b 17 (n - 17)
  else if op = 0x42 then
    let a := decodeInt64 (f 24 8)
    decide (f 16 4 < 2 ^ 20 ∧ f 20 2 < 4096 ∧ -(2 : Int) ^ 47 ≤ a ∧ a < (2 : Int) ^ 47) && zeroAt b 22 2 && zeroAt b 32 (n - 32) &&
      f 3 1 == 0
  else if op = 0x43 then
    decide (f 20 2 < 4096 ∧ f 24 8 < 2 ^ 48) && zeroAt b 16 4 && zeroAt b 22 2 && zeroAt b 36 (n - 36) && decide (f 3 1 < 2)
  else if op = 0x44 then decide (f 16 1 ≤ 1 ∧ f 17 1 ≤ 64) && zeroAt b 18 2 && zeroAt b 28 (n - 28)
  else true
where
  decodeInt64 (v : Nat) : Int := if v < 2 ^ 63 then v else (v : Int) - 2 ^ 64

/-- The header of a record follows R392. -/
def headerOk (b : List Byte) : Bool :=
  decide (field b 3 1 < 4 ∧ field b 8 4 < 2 ^ 20) && zeroAt b 12 4

/-! ### The head of a queue (R390, R403, R404) -/

/-- What stands at the head: its record as format 2, where it came from, what is left of the arrivals, and the code that its form already
earns it. -/
structure Head where
  body   : List Byte
  fmt1   : Bool
  origin : Origin
  rest   : List Arrival
  code   : Nat
  deriving DecidableEq, Repr

/-- Translate a format-1 slot (R393, R394), or say why not: the body copied is what the operator's RECS leave beside the header, and it lies
in T1. -/
def State.translate1 (s : State) (b : List Byte) : List Byte × Nat :=
  let stub := patch (slice b 0 64) 0 (bytesOf 4 (0x0200 + 0x10000 + field b 2 1 % 2 * 2 ^ 24))
  let stub := stub.take 20 ++ List.replicate 44 0#8
  let stub := stub.take 8 ++ bytesOf 4 (field b 16 4) ++ List.replicate 52 0#8
  match format1Op (field b 0 1) with
  | none => (stub, eCmdFmt1Op)
  | some op =>
    let recs := recsOf op
    let desc := field b 8 8
    let head := [BitVec.ofNat 8 op, 2#8, BitVec.ofNat 8 recs, BitVec.ofNat 8 (field b 2 1 % 2)] ++ slice b 4 4 ++ slice b 16 4 ++
      List.replicate 4 0#8
    if 1 < field b 2 1 ∨ field b 3 1 ≠ 0 ∨ !zeroAt b 20 12 ∨ desc % 64 ≠ 0 ∨ t1Bytes < desc + (64 * recs - 16) then
      (head ++ List.replicate (64 * recs - 16) 0#8, eCmdBadField)
    else (head ++ s.t1 desc (64 * recs - 16), 0)

/-- The command in the host's ring at slot `i`, `left` slots posted: none while they are not all there. -/
def State.ringHead (s : State) (q i left : Nat) (rest : List Arrival) : Option Head :=
  let b := s.slots q i 1
  if s.cqFormat q = 1 then
    if field b 1 1 ≠ 1 then some ⟨slice b 0 64, true, .ring i 1, rest, eCmdBadFormat⟩
    else
      let (body, code) := s.translate1 b
      some ⟨body, true, .ring i 1, rest, code⟩
  else
    let recs := field b 2 1
    if field b 1 1 ≠ 2 ∨ recs < 1 ∨ 4 < recs then some ⟨b, false, .ring i 1, rest, eCmdBadFormat⟩
    else if left < recs then none
    else
      let body := s.slots q i recs
      let code := if recs < recsOf (field b 0 1) then eCmdBadFormat else 0
      some ⟨body, false, .ring i recs, rest, code⟩

/-- The head of a queue: arrivals in order. A host's command arrives with the doorbell that posts the last of its slots (R403); the next
doorbell covers again what an earlier one has posted of it. -/
def State.headGo (s : State) (q : Nat) : List Arrival → Option Head
  | [] => none
  | .fan chip tag level body :: rest => some ⟨body, false, .fan chip tag level, rest, 0⟩
  | .host tail :: rest =>
    let h := s.cqHead q
    let left := (tail + 2 ^ 24 - h) % 2 ^ 24
    if left = 0 ∨ 2 ^ 23 ≤ left then s.headGo q rest
    else match s.ringHead q h left (.host tail :: rest) with
      | some x => some x
      | none => s.headGo q rest

def State.queueHead (s : State) (q : Nat) : Option Head := s.headGo q (s.queue q).arrivals

def Head.op (h : Head) : Nat := field h.body 0 1
def Head.scope (h : Head) : Bool := field h.body 3 1 % 2 = 1
def Head.group (h : Head) : Nat := field h.body 8 4 % 2 ^ 20

/-! ### Images (R177, R181, R396) -/

structure Image where
  entry    : Entry
  placed   : Bool
  id       : Nat
  coreMask : Nat
  flags    : Nat
  sections : Nat
  sfuLib   : Nat
  deriving DecidableEq, Repr

def Image.of (e : Entry) (b : List Byte) : Image :=
  { entry := e, placed := field b 56 1 = 1, id := field b 8 8, coreMask := field b 24 1, flags := field b 26 2,
    sections := field b 28 4, sfuLib := field b 32 8 }

/-- The image a record names, where its handle is in force. -/
def State.imageOf (s : State) (body : List Byte) : Option Image :=
  (s.handle? (field body 16 4)).map fun e => Image.of e (s.objBytes e 0 256)

/-- Offset and length of a core's section of a type. -/
def State.imageSection (s : State) (m : Image) (type core : Nat) : Option (Nat × Nat) :=
  (List.range m.sections).findSome? fun i =>
    let b := s.objBytes m.entry (256 + 16 * i) 16
    if field b 0 2 = type ∧ field b 2 1 = core then some (field b 8 4, field b 12 4) else none

/-! ### What a command needs to start (R401, R496) -/

/-- Cores of the command's image. -/
def State.needsCores (s : State) (h : Head) : List Nat :=
  if h.code = 0 ∧ hasImage h.body then match s.imageOf h.body with
    | some m => coresIn m.coreMask
    | none => []
  else []

/-- Laces of one level of a group's collectives (R311). -/
def State.levelLaces (s : State) (g : Group) (spread : Bool) : List Nat :=
  if 6 ≤ g.lace then [] else if spread then s.laceSet g.lace else [g.lace]

/-- Laces the command names. -/
def State.needsLaces (s : State) (h : Head) : List Nat :=
  if h.code ≠ 0 then []
  else if isColl h.op then match s.group? h.group with
    | some g => ((s.chain g).map fun k => s.levelLaces k ((field h.body 22 1).testBit 2)).flatten
    | none => []
  else if h.op = 0x10 ∨ h.op = 0x12 then coresIn (field h.body 64 1)
  else if h.op = 0x13 ∧ field h.body 54 1 ≠ 0 then [field h.body 77 1]
  else []

/-- Laces whose entries a command reads (R276): those that it names, those of its group that carry its merge or its inner collectives (R271,
R298, R336), and the primary lace of the set of each, which orders the members (R274). -/
def State.usesLaces (s : State) (op : Nat) (body : List Byte) : List Nat :=
  let chain (spread : Bool) : List Nat := match s.group? (field body 8 4 % 2 ^ 20) with
    | some g => ((s.chain g).map fun k => s.levelLaces k spread).flatten
    | none => []
  let ls :=
    if isColl op then chain ((field body 22 1).testBit 2)
    else if op = 0x10 ∨ op = 0x12 then coresIn (field body 64 1)
    else if op = 0x13 ∧ field body 54 1 ≠ 0 then [field body 77 1]
    else if op = 0x11 ∨ (field body 3 1 % 2 = 1 ∧ (op = 0x15 ∨ (op = 0x30 ∧ field body 52 1 = 0))) then chain false
    else []
  (ls ++ ls.map s.primary).eraseDups

/-- Does a circulation hold a lace, from the start of its command until it has completed on this chip (R288)? -/
def State.circHeld (s : State) (l : Nat) : Bool :=
  (s.circRun? l).isSome || s.cmd.flights.any fun f => circulates f && f.stage == .started && f.laces.contains l

/-- Does a collective command or an inner collective hold a lace (R317)? -/
def State.collHeld (s : State) (l : Nat) : Bool :=
  (s.collRun? l).isSome || s.cmd.flights.any fun f => isColl f.opcode && f.stage != .ended && f.laces.contains l

/-- Staged words written since the last apply or discard, in a range. -/
def State.writtenIn (s : State) (lo n : Nat) : Bool := s.win.written.any fun e => decide (lo ≤ e.1 ∧ e.1 < lo + n)

/-- Has the image that a record names been placed for it (R186)? -/
def State.imagePlaced (s : State) (body : List Byte) : Bool :=
  match s.imageOf body with
  | some m => m.placed && m.id == field body 24 8
  | none => false

/-- A pending commit holds the command back (R496). One of a core's block does so once the image has been found placed (R186). -/
def State.commitHolds (s : State) (h : Head) : Bool :=
  s.commit.busy && s.commit.quiet &&
  ((s.commit.pending.contains 0 && h.scope && match s.group? h.group with
      | some g => s.writtenIn (0x2000 + 32 * g.entry) 32
      | none => false) ||
   (s.commit.pending.contains 6 && h.code == 0 && (s.usesLaces h.op h.body).any fun l => s.writtenIn (pageCirc + 0x100 + 32 * l) 32) ||
   (s.imagePlaced h.body && (s.needsCores h).any fun n => s.commit.pending.contains (0x10 + n)))

/-- The last command that a queue started and that has not completed. -/
def State.lastFlight (s : State) (q : Nat) : Option Flight := (s.cmd.flights.filter fun f => f.queue = q).getLast?

/-- The order within a queue (R401, R118, R320). -/
def State.queueFree (s : State) (q : Nat) (h : Head) : Bool :=
  match s.lastFlight q with
  | none => true
  | some f => h.op != 0x42 && (f.get 3 1).testBit 1

/-- Does the check of R186 wait for a pending swap of this core? It does once the image has been found placed. -/
def State.swapHolds (s : State) (h : Head) (n : Nat) : Bool :=
  (s.core n).sfu.pending && s.imagePlaced h.body

/-- May the head of a queue start now, the choice between queues apart? The control cores run once boot has loaded KIND 2 (R470). -/
def State.startable (s : State) (q : Nat) : Option Head :=
  let k := s.queue q
  if !s.cqEn q || k.stopped || k.blocked || s.disc.busy || s.fatal || s.mem.wiping || s.sec.softReset || s.sec.stage != 4 then none
  else match s.queueHead q with
    | none => none
    | some h =>
      if s.queueFree q h && (s.needsCores h).all (fun n => (s.core n).eng.flight.isNone && !(s.core n).eng.resetting &&
            !s.swapHolds h n) &&
          (s.needsLaces h).all (fun l => if isColl h.op then !s.collHeld l else !s.circHeld l) &&
          !s.commitHolds h && !(h.code == 0 && h.op == 0x30 && field h.body 52 1 == 1 && s.publishHeld (field h.body 48 4) (field h.body 64 4))
      then some h else none

/-- Two heads need a resource of each other. -/
def State.rival (s : State) (a b : Head) : Bool :=
  (s.needsCores a).any (s.needsCores b).contains ||
  ((isColl a.op == isColl b.op) && (s.needsLaces a).any (s.needsLaces b).contains)

/-- The queue numbers in the order of service: after the queue served last. -/
def serviceOrder (last : Nat) : List Nat := (List.range 64).map fun i => (last + 1 + i) % 64

/-- Is this queue's head first among those that can start and need a resource of it (R401)? -/
def State.served (s : State) (q : Nat) (h : Head) : Bool :=
  (serviceOrder s.cmd.last).find? (fun r => r == q || match s.startable r with
    | some k => s.rival h k
    | none => false) == some q

end Sys2Proof.Machine
end

