-- ==== Sys2Proof/Machine/Cmds.lean ====
section
/-! DEFINITION. Commands from start to completion record, fan-out and gathering, RESTART and DROP, the device discard and the fatal
errors (R29 to R33, R86, R110, R186, R390 to R408, R441 to R452). -/

namespace Sys2Proof.Machine

/-! ### Position order in a group (R32) -/

/-- Positions from the scope group inward, as one key; keys compare as the positions do, outermost first. -/
def posKey (ps : List Nat) : Nat := (List.range 17).foldl (fun a k => a * 4096 + ps.getD k 0) 0

/-- This chip's positions along a chain. -/
def chainPos (c : List Group) : List Nat := c.map Group.position

/-! ### Fan-out (R30, R403) -/

/-- Send a command to member `i` of a group of its chain, or to the chip that stands for a member that is a group; `key` is the member's
place in position order. -/
def State.fanTo (s : State) (id : Nat) (g : Group) (level key i : Nat) : State :=
  match s.flight? id with
  | none => s
  | some f =>
    let chip := s.memberChip g i
    let tag := s.cmd.nextTag
    match s.sendMsg 0x05 s.chipId chip 0 tag 0 f.body.length f.queue (fanBytes g level) f.body with
    | (s, false) => s.failCommand id eAddrUnrouted (BitVec.ofNat 32 i)
    | (s, true) =>
      State.onFlight
        { s with cmd := { s.cmd with
          nextTag := (tag + 1) % 2 ^ 32
          requests := s.cmd.requests ++ [⟨tag, .command id, chip, 0, 0, none⟩] } } id fun f =>
        { f with branches := f.branches ++ [⟨tag, key, chip⟩] }

/-- Fan a command out to the groups of its chain from index `from_`: to every other member of each. -/
def State.fanOut (s : State) (id : Nat) (c : List Group) (from_ : Nat) : State :=
  ((c.zipIdx).drop from_).foldl (fun s (g, k) =>
    (List.range g.members).foldl (fun s i =>
      if i = g.position then s else s.fanTo id g (k + 1) (posKey ((chainPos c).take k ++ [i])) i) s) s

/-! ### The image of a command (R86, R110, R186, R396, R452) -/

/-- Copy the arguments into a core's working store and zero the rest of the argument block. -/
def State.copyArgs (s : State) (args n : Nat) : State :=
  let len := 64 * (args / 2 ^ 52)
  s.setWs n 0 (slice (s.t1Seen (args % 2 ^ 42) len) 0 4096)

/-- The identifier of the active bank of a core's special function unit. -/
def State.sfuActiveId (s : State) (n : Nat) : Nat :=
  let u := (s.core n).sfu
  (if u.active then u.bank1.id else u.bank0.id).toNat

/-- A core takes a command: counters, plane, rows and lists as R86, R75, R140 and R268 say, credits from the image. The idle time of the power
controller begins again (R422). -/
def State.takeCore (s : State) (id : Nat) (m : Image) (n : Nat) : State :=
  let credits := match s.imageSection m 2 n with
    | some (o, _) => (List.range 32).map fun i => field (s.objBytes m.entry (o + 64) 128) (4 * i) 4
    | none => []
  let s := s.onCore n fun k => { k with
    eng := { k.eng.release with flight := some id }
    plane := k.plane.invalidate, vcfg := none, rows := [], scan := ⟨[], false⟩, ctr := storeList noCount [] 96 credits }
  { s with power := { s.power with ran := true } }

/-- The checks of R186 and R452 and the check of RMODE.INVARIANT, in order. -/
def State.imageCode (s : State) (body : List Byte) (m : Image) : Option Nat :=
  let cores := coresIn m.coreMask
  if !m.placed || m.id != field body 24 8 then some eLiNotPlaced
  else if cores.any fun n => (s.reg 0x214).getLsbD n then some eCoreFailed
  else if cores.any fun n => (m.sfuLib != 0 && s.sfuActiveId n != m.sfuLib) || (s.core n).sfu.compat != m.flags.testBit 1 then
    some eLiSfuMismatch
  else if field body 20 2 % 2 ≠ m.flags % 2 then some eCmdBadField
  else none

/-- Bring a command's image to its cores, or end the command. -/
def State.startImage (s : State) (id : Nat) (body : List Byte) : State :=
  match s.checkRange (field body 16 4) 0 256 false (some id) with
  | (.error code, s) => s.failHandle id (field body 16 4) code
  | (.ok e, s) =>
    match s.readT1 e.t1Base 256 (some id) with
    | (none, s) => s
    | (some b, s) =>
      let m := Image.of e b
      let args := field body 32 8
      match s.readT1 (args % 2 ^ 42) (64 * (args / 2 ^ 52)) (some id) with
      | (none, s) => s
      | (some _, s) =>
        let cores := coresIn m.coreMask
        let s := cores.foldl (fun s n => s.copyArgs args n) s
        match s.imageCode body m with
        | some code => s.failCommand id code 0#32
        | none => (cores.foldl (fun s n => s.takeCore id m n) s).onFlight id fun f => { f with cores := cores }

/-! ### COMMAND_START (R401) -/

/-- Does a command name its group apart from its scope (R29)? -/
def namesGroup (op : Nat) : Bool := isColl op || op == 0x41 || op == 0x11

/-- The checks of a started command's form and group, in this order: its form, its fields, its group here, its group's lists. -/
def State.startCode (s : State) (h : Head) : Option Nat :=
  let grouped := h.scope || namesGroup h.op
  if h.code ≠ 0 then some h.code
  else if recsOf h.op = 0 then none
  else if !(headerOk h.body && bodyOk h.body) then some eCmdBadField
  else if !grouped then none
  else match s.group? h.group with
    | none => some eGroupEpoch
    | some g => if (s.chain g).any s.listBad then some eGroupList else none

/-- The index in its chain at which a command's fan-out from this chip begins: the host's command fans to every group of the chain,
a fanned-out one to those inside the group that its message named. -/
def Head.fanFrom (h : Head) : Nat :=
  match h.origin with
  | .ring _ _ => 0
  | .fan _ _ level => level

/-- Take the head of a queue into flight. -/
def State.takeHead (s : State) (q : Nat) (h : Head) : State :=
  let id := s.cmd.nextId
  let pos := if h.scope then match s.group? h.group with
      | some g => posKey (chainPos (s.chain g))
      | none => 0
    else 0
  let f : Flight :=
    { id := id, queue := q, origin := h.origin, fmt1 := h.fmt1, body := h.body, stage := .started, cores := [],
      laces := s.needsLaces h, error := 0, advisory := 0, unit := 0#32, detail := 0#32, result := 0, started := s.time,
      branches := [], round := 0, halted := none, pos := pos, errPos := pos, parts := [], scratch := [], lists := [],
      walked := [], dropped := false, cut := false }
  let s := { s with cmd := { s.cmd with flights := s.cmd.flights ++ [f], nextId := id + 1, last := q } }
  let s := s.onQueue q fun k => { k with arrivals := h.rest }
  let s := match h.origin with
    | .ring slot slots => s.setHead q (slot + slots)
    | .fan _ _ _ => s
  let s := s.bump (pageControl + 0x48)
  if h.fmt1 && h.code == 0 then s.bump (pageControl + 0x4C) else s

/-- A poisoned word in the slots of a ring command. -/
def State.slotPoison (s : State) (q : Nat) (h : Head) : Option Nat :=
  match h.origin with
  | .ring slot slots => (List.range slots).findSome? fun k => s.poisonIn (s.slotAt q (slot + k)) (slotBytes (s.cqFormat q))
  | .fan _ _ _ => none

/-- A poisoned word in the member lists that a started command reads (R190). -/
def State.listPoison (s : State) (h : Head) : Option Nat :=
  if h.code ≠ 0 ∨ !(h.scope || namesGroup h.op) then none
  else match s.group? h.group with
    | none => none
    | some g => s.listsUe g

/-- A barrier that each member's own command enters ends on the whole group where its list is bad (R523): the other members are told. A
group-scoped command ends there by R442. -/
def State.tellList (s : State) (h : Head) (code : Nat) : State :=
  match if h.op = 0x41 ∧ h.scope = false ∧ code = eGroupList then s.group? h.group else none with
  | some g => s.tellBarrier g 0 code g.position
  | none => s

/-- Start a command that may start. -/
def State.start (s : State) (q : Nat) (h : Head) : State :=
  match s.slotPoison q h with
  | some w => s.reportUe w none
  | none =>
    let id := s.cmd.nextId
    let s := s.takeHead q h
    match s.startCode h, s.listPoison h with
    | some code, _ => (s.tellList h code).failCommand id code 0#32
    | none, some w => s.reportUe w (some id)
    | none, none =>
      if recsOf h.op = 0 then s else
      let s := if h.scope then match s.group? h.group with
          | some g => s.fanOut id (s.chain g) h.fanFrom
          | none => s
        else s
      match s.flight? id with
      | none => s
      | some f => if f.stage != .started then s else if hasImage h.body then s.startImage id h.body else s

def execCommandStart (q : Fin 64) (s : State) : Out :=
  match s.startable q with
  | none => .next s
  | some h => if s.served q h then .next (s.start q h) else .next s

/-- The flight of a queue whose operator is `op`, at stage `st`. -/
def State.flightAt (s : State) (q op : Nat) (st : Stage) : Option Flight :=
  s.cmd.flights.find? fun f => f.queue = q && f.opcode = op && f.stage == st

/-- CMD_BAD_OPCODE (R395). -/
def execCmdBadOpcode (q : Fin 64) (s : State) : Out :=
  match s.cmd.flights.find? fun f => f.queue = q.val && recsOf f.opcode = 0 && f.stage == .started with
  | none => .next s
  | some f => .next (s.failCommand f.id eCmdBadOpcode 0#32)

/-- CMD_WAIT_TIMEOUT (R400). -/
def execCmdWaitTimeout (q : Fin 64) (s : State) : Out :=
  match s.flightAt q 0x43 .running with
  | none => .next s
  | some f => if f.get 32 4 = 0 then .next s else .next (s.failCommand f.id eCmdWaitTimeout 0#32)

/-! ### Completion records (R406, R408) -/

def noQp (_ : Nat) : Qp := Qp.reset

def State.qp (s : State) (n : Nat) : Qp := look noQp s.host.qps n

def State.onQp (s : State) (n : Nat) (f : Qp → Qp) : State := { s with host := { s.host with qps := modify noQp s.host.qps n f } }

/-- Where the IP packets of the host port go (R379, R411). -/
def State.hop (s : State) : Hop :=
  let v := (s.stg (pageHost + 0x120)).toNat
  ⟨(s.stg (pageHost + 0x128)).toNat + (s.stg (pageHost + 0x12C)).toNat % 2 ^ 16 * 2 ^ 32, if v / 2 ^ 15 % 2 = 1 then some (v % 2 ^ 15) else none⟩

/-- Write a record over a queue's QP. -/
def State.writeRecord (s : State) (q : Nat) (addr : Nat) (bytes : List Byte) (imm : Option Nat) : State :=
  let n := s.cqQp q
  let psn := (s.qp n).sqPsn
  let s := s.onQp n fun p => { p with sqPsn := (psn + 1) % 2 ^ 24, unacked := p.unacked ++ [(psn, q, addr, bytes, imm)] }
  s.send (.record s.hop n psn addr (s.stg (cqPage q + 0x18)) bytes imm)

/-- Keep a record whose write has failed; the queue starts nothing more (R408). -/
def State.keepRecord (s : State) (q : Nat) (r : Nat × List Byte × Option Nat) : State :=
  let was := (s.queue q).blocked
  let s := s.onQueue q fun k => { k with kept := k.kept ++ [r], blocked := true }
  if was then s else s.advisory eHpCplWriteFail (q * 2 ^ 16 + s.cqQp q * 2 ^ 22) none

/-- The 32 bytes of a command's record, as record number `index` of its queue. -/
def State.recordBytes (s : State) (f : Flight) (index : Nat) : List Byte :=
  let phase := 1 - index / s.cplEntries f.queue % 2
  bytesOf 4 f.tagWord.toNat ++ bytesOf 2 f.error ++ bytesOf 2 f.advisory ++ bytesOf 4 f.unit.toNat ++ bytesOf 4 f.detail.toNat ++
  bytesOf 8 f.result ++ bytesOf 6 s.time ++ bytesOf 1 f.queue ++
  bytesOf 1 (phase + (if f.scope then 2 else 0) + (if f.fmt1 then 4 else 0))

/-- A member's completion as it travels up the fan-out tree (R32). -/
def reportBytes (f : Flight) : List Byte :=
  bytesOf 2 f.error ++ bytesOf 2 f.advisory ++ bytesOf 4 f.unit.toNat ++ bytesOf 4 f.detail.toNat ++ bytesOf 8 f.result

/-- Report the end of a command: a record to the host, or a completion to the sender of its fan-out message. -/
def State.report (s : State) (f : Flight) : State :=
  let s := { s with
    cmd := { s.cmd with flights := s.cmd.flights.filter fun g => g.id ≠ f.id }
    queries := s.queries.filter fun q => q.flight ≠ f.id }
  match f.origin with
  | .fan chip tag _ => s.sendFan chip 2 tag f.queue [] (reportBytes f)
  | .ring _ _ =>
    let q := f.queue
    let index := s.cplIndex q
    let bytes := s.recordBytes f index
    let addr := s.stg2 (cqPage q + 0x10) + 32 * (index % s.cplEntries q)
    let imm := if s.cqImm q then some (q + index * 2 ^ 8) else none
    let s := s.setCount (cqPage q + 0x24) ((index + 1) % 2 ^ 24)
    if (s.queue q).blocked || (s.qp (s.cqQp q)).state != 1 then s.keepRecord q (addr, bytes, imm)
    else s.writeRecord q addr bytes imm

/-- The groups to which RESTART and DROP are carried when this command stops its queue: its own, on the entry member (R405). -/
def Flight.stopGroups (f : Flight) : List Nat :=
  match f.origin with
  | .ring _ _ => if f.scope then [f.group] else []
  | .fan _ _ _ => []

/-- Stop a queue. The groups of earlier stops stay beside the new ones. -/
def Queue.stop (k : Queue) (groups : List Nat) : Queue := { k with stopped := true, stopGroups := (k.stopGroups ++ groups).eraseDups }

/-- A queue stops after a class 1 end (R442). -/
def State.stopQueue (s : State) (f : Flight) : State := s.onQueue f.queue fun k => k.stop f.stopGroups

/-- May this command's completion be reported? After a fatal error every record that is left is written (R445). -/
def State.reportable (s : State) (q : Nat) (f : Flight) : Bool :=
  decide (f.queue = q) && f.stage == .ended && !f.dropped &&
  (s.fatal || (f.branches.isEmpty && (s.coresOf f.id).isEmpty && !s.engineBusy f.id))

/-- COMMAND_COMPLETE (R406, R442). -/
def execCommandComplete (q : Fin 64) (s : State) : Out :=
  match s.cmd.flights.find? (s.reportable q) with
  | none => .next s
  | some f =>
    let s := s.report f
    .next (if errClass f.error = 1 then s.stopQueue f else s)

/-! ### Gathering (R32) -/

/-- What a branch reports goes into the command: its code at the branch's place in position order. -/
def Flight.gather (f : Flight) (b : Branch) (error advisory : Nat) (unit detail : Word) : Flight :=
  let f := { f with branches := f.branches.filter fun x => x.tag ≠ b.tag }
  let f := f.failAt b.position error unit detail
  if advisory ≠ 0 then f.failAt b.position advisory unit detail else f

/-- A branch ends: with class 1 the command ends on the whole group (R31, R441). -/
def State.endBranch (s : State) (f : Flight) (b : Branch) (error advisory : Nat) (unit detail : Word) : State :=
  let s := s.dropRequest b.tag
  let s := s.onFlight f.id fun g => g.gather b error advisory unit detail
  if errClass error ≠ 1 ∨ f.cut = true then s
  else (s.tellEnd f.group 0 f.tagWord.toNat f.queue error).endPart f.id error

/-- The command and the branch of a fan-out tag. -/
def State.branchOf (s : State) (tag : Nat) : Option (Flight × Branch) :=
  s.cmd.flights.findSome? fun f => (f.branches.find? fun b => b.tag = tag).map fun b => (f, b)

/-! ### RESTART and DROP (R405, R407, R408) -/

/-- Send the records a queue has kept, in order. -/
def State.sendKept (s : State) (q : Nat) : State :=
  if (s.qp (s.cqQp q)).state ≠ 1 then s
  else
    let ks := (s.queue q).kept
    let s := s.onQueue q fun k => { k with kept := [], blocked := false }
    ks.foldl (fun s r => s.writeRecord q r.1 r.2.1 r.2.2) s

/-- RESTART at one queue: it runs again from CQ_HEAD. A device discard in progress has not stopped it yet. -/
def State.restartOne (s : State) (q : Nat) : State := (s.sendKept q).onQueue q fun k => { k with stopped := false, stopGroups := [] }

/-- DROP at one queue: what is posted and held is gone. -/
def State.dropOne (s : State) (q : Nat) : State :=
  (s.setHead q (s.cqTail q)).onQueue q fun k => { k with arrivals := [] }

/-- A write of CQ_CTRL (R405): on a queue that is stopped or blocked, carried to the groups whose commands stopped it. -/
def State.queueCtrl (s : State) (q : Nat) (isDrop : Bool) : State :=
  let k := s.queue q
  if !(k.stopped || k.blocked) then s
  else
    let s := k.stopGroups.foldl (fun s g => s.toMembers g 0 3 (q + (if isDrop then 64 else 0)) []) s
    let s := if isDrop then s.dropOne q else s
    s.restartOne q

def execRestart (q : Fin 64) (s : State) : Out := .next (s.queueCtrl q false)
def execDrop (q : Fin 64) (s : State) : Out := .next (s.queueCtrl q true)

/-- QUEUE_CONTROL_NOTICE (R405): the member's own queue, and the members that this chip passes the notice to. -/
def execQueueControlNotice (q : Fin 64) (isDrop : Bool) (group : BitVec 20) (level : Nat) (s : State) : Out :=
  s.fromPeer (
    let s := s.withGroup group.toNat fun s => s.toMembers group.toNat level 3 (q + (if isDrop then 64 else 0)) []
    let k := s.queue q
    if !(k.stopped || k.blocked) then .next s
    else .next ((if isDrop then s.dropOne q else s).restartOne q))

/-! ### The device discard (R407, R443, R444, R452) -/

/-- A parity error of a core: the first since cold reset marks it, the second fails it (R452). -/
def State.markParity (s : State) (c : Nat) : State :=
  let b : Word := BitVec.ofNat 32 (2 ^ c)
  if s.reg 0x218 &&& b = 0#32 then s.setReg 0x218 (s.reg 0x218 ||| b) else s.setReg 0x214 (s.reg 0x214 ||| b)

/-- DEVICE_DISCARD (R443). -/
def execDeviceDiscard (ev : DiscardCause) (s : State) : Out :=
  if s.fatal then .next s else
  match ev with
  | .t1Ue w =>
    if s.mem.wiping then .next s
    else .next (State.reportUe { s with mem := { s.mem with poison := store (fun _ => false) s.mem.poison w.toNat true } } w.toNat none)
  | .coreParity c => .next ((s.markParity c).coreClass2 c (eCore c 7))
  | .sfuParity c => .next ((s.markParity c).coreClass2 c (eSfu c 5))
  | .syncParity => .next (s.class2 eSyncParity 0 none)
  | .linkParity p => .next (s.class2 (eLink p 8) 0 none)

/-- Have the transfers that the discarded commands issued all been acknowledged? -/
def State.discardDrained (s : State) : Bool :=
  (allCores.all fun n => (s.core n).eng.flight.isNone || (s.core n).eng.drained) &&
  !(s.cmd.requests.any fun r => match r.owner with
    | .command id => s.cmd.flights.any fun f => f.id = id && f.dropped && !(f.branches.any fun b => b.tag = r.tag)
    | _ => false)

/-- The queue of discarded commands stops with CQ_HEAD at the oldest of them (R407); its slots are posted still. -/
def State.stopDiscarded (s : State) (q : Nat) : State :=
  let fs := s.cmd.flights.filter fun f => f.queue = q && f.dropped
  match fs with
  | [] => s
  | _ =>
    let ring := fs.findSome? fun f => match f.origin with
      | .ring slot _ => some slot
      | .fan _ _ _ => none
    let s := match ring with
      | some slot => (s.onQueue q fun k => { k with arrivals := .host (s.cqHead q) :: k.arrivals }).setHead q slot
      | none => s
    s.onQueue q fun k => k.stop (fs.map Flight.stopGroups).flatten

/-- The discard no longer holds a command back. -/
def Flight.settled (f : Flight) : Flight := { f with dropped := false }

/-- Steps 5 and 6 of R443. CMD_DISCARDED is recorded in the control cluster; the log holds the event itself (R410, R450). A soft reset that
began the discard goes on to its wipe (R458). -/
def State.finishDiscard (s : State) : State :=
  let s := allCores.foldl (fun s n => if (s.core n).eng.flight.isSome then s.onEng n Engines.release else s) s
  let s := (List.range 64).foldl State.stopDiscarded s
  let s := (s.cmd.flights.filter fun f => f.dropped && f.error == eCmdDiscarded).foldl (fun s f => s.recordCode eCmdDiscarded (f.queue * 2 ^ 16)) s
  let done := s.cmd.flights.filter fun f => f.dropped && f.branches.isEmpty
  let s := done.foldl State.report s
  let s := { s with cmd := { s.cmd with flights := s.cmd.flights.map Flight.settled } }
  let s := s.disc.groups.foldl (fun s g => match s.group? g with
    | some g => s.onBar (barKey g g) fun b => { b with broken := true }
    | none => s) s
  let s := (s.bump 0x20C).setDiscardStat false s.disc.code
  State.softWipe { s with disc := Discard.reset }

/-- DISCARD_COMPLETE (R443). -/
def execDiscardComplete (s : State) : Out :=
  if s.disc.busy && s.discardDrained && !s.fatal then .next s.finishDiscard else .next s

/-- DISCARD_NOTICE (R444): this chip passes the notice on to the members that its place in the fan-out gives it, and sends none of its own. -/
def execDiscardNotice (group : BitVec 20) (level : Nat) (code : BitVec 16) (s : State) : Out :=
  s.fromPeer (match s.group? group.toNat with
  | none => .next s
  | some g =>
    let s := s.withLists g fun s => s.toMembers group.toNat level 4 0 (bytesOf 2 code.toNat)
    let s := match s.cmd.flights.find? fun f => f.scope && f.group = group.toNat with
      | some f => s.logError code.toNat f.queue true f.tagWord
      | none => s.logError code.toNat 0 true 0#32
    .next (s.startDiscard code.toNat none (some group.toNat)))

/-! ### Fatal errors (R445) -/

/-- The code of a class 3 error (R409, R434, R484). -/
def FatalCause.code : FatalCause → Nat
  | .firmware => eCmdFwFault
  | .thermtrip => 0x3043
  | .pmbusFail => 0x3044
  | .voltageTable => 0x3047
  | .bootFail => 0x3081
  | .otpBad => 0x3083

/-- FATAL_ERROR (R445). One that stops the boot sets STAGE to 15, and net boot brings nothing more (R469). -/
def execFatalError (ev : FatalCause) (s : State) : Out :=
  let s := if ev = .pmbusFail then { s with power := { s.power with pmbFail := true } } else s
  let s := if ev ∈ [.voltageTable, .bootFail, .otpBad] then { s with sec := { s.sec with stage := 15, needed := [] } } else s
  .next (s.fatalStop (FatalCause.code ev))

/-- FATAL_NOTICE (R445): a member of a group with work in flight that the fatal chip belongs to. -/
def execFatalNotice (chip : BitVec 20) (s : State) : Out :=
  let lists (f : Flight) : Bool := match s.group? f.group with
    | some g => (s.chain g).any fun h => (List.range h.members).any fun i => s.member h i == chip.toNat
    | none => false
  s.fromPeer (.next (match (s.cmd.flights.filter Flight.scope).findSome? fun f => (s.group? f.group).bind s.listsUe with
  | some w => s.reportUe w none
  | none => if s.cmd.flights.any fun f => f.scope && lists f then s.class2 eGroupMemberFatal 0 none else s))

end Sys2Proof.Machine
end

