-- ==== Sys2Proof/Machine/CmdOps.lean ====
section
/-! DEFINITION. The operators without an engine of their own: the image operators, MOVE, BARRIER, SIGNAL, WAIT and HINT (R80, R118, R123 to
R125, R395 to R400, R428). -/

namespace Sys2Proof.Machine

/-! ### Image operators (R80, R396) -/

/-- Point a core's dispatcher at its stream. -/
def State.loadStream (s : State) (m : Image) (n : Nat) : State :=
  match s.imageSection m 2 n, s.imageSection m 3 n with
  | some (c, _), some (o, _) =>
    let insns := field (s.objBytes m.entry c 64) 0 4
    s.onEng n fun g => { g with base := m.entry.t1Base + o, count := insns, next := 0 }
  | _, _ => s

/-- The operator runs: its cores begin to dispatch. -/
def State.runCores (s : State) (f : Flight) : State :=
  let s := s.onFlight f.id fun f => { f with stage := .running }
  match s.imageOf f.body with
  | none => s
  | some m => f.cores.foldl (fun s n => s.loadStream m n) s

/-- The operator is its image; a command that has taken no core has nothing to run. -/
def State.runImage (s : State) (f : Flight) : State :=
  if f.cores = [] then s.onFlight f.id Flight.finish else s.runCores f

/-- An operator that only runs its image. -/
def State.imageOp (s : State) (q op : Nat) : State :=
  match s.flightAt q op .started with
  | none => s
  | some f => s.runImage f

/-- MATMUL (R395, R396). -/
def execCmdMatmul (q : Fin 64) (s : State) : Out := .next (s.imageOp q 0x01)
/-- NORM (R395, R396). -/
def execNorm (q : Fin 64) (s : State) : Out := .next (s.imageOp q 0x02)
/-- SFU_APPLY (R395, R396). -/
def execSfuApply (q : Fin 64) (s : State) : Out := .next (s.imageOp q 0x03)
/-- CORE_PROGRAM (R395, R396). -/
def execCoreProgram (q : Fin 64) (s : State) : Out := .next (s.imageOp q 0x04)

/-! ### MOVE (R20, R23, R194, R195, R205, R399, R400) -/

/-- One side of a MOVE. -/
inductive MoveSide where
  | dev (d : Dev)
  | obj (e : Entry) (off : Nat)

def MoveSide.off : MoveSide → Nat
  | .dev d => d.off
  | .obj _ o => o

/-- The side whose kind stands at byte `k` of the record and whose FAR code stands at byte `o`. -/
def State.moveSide (s : State) (f : Flight) (k o : Nat) : MoveSide :=
  match f.get k 1 with
  | 0 => .dev ⟨0xFFFFF, 1, f.get o 8⟩
  | 1 => .dev (Dev.of (f.get o 8))
  | _ => .obj (s.entry (f.get o 4 % 2 ^ 16)) (f.get (o + 8) 8)

/-- The checks of a side over the whole length. -/
def State.moveCheck (s : State) (f : Flight) (k o : Nat) (write : Bool) : Option Nat × State :=
  let len := f.get 24 8
  match s.moveSide f k o with
  | .dev d =>
    match s.checkDev true d d.off (d.off + len) with
    | some code => (some code, s)
    | none => (if s.isSelf d.chip && d.tier == 1 && s.protected d.off len then some eObjProtected else none, s)
  | .obj _ off =>
    match s.checkHandle (f.get o 4) off (off + len) write (some f.id) with
    | (.error code, s) => (some code, s)
    | (.ok _, s) => (none, s)

/-- A check of a side has failed: the entry index stands in ERR_INFO where the side is a handle (R219). -/
def State.failSide (s : State) (f : Flight) (k o code : Nat) : State := s.failHandle f.id (if f.get k 1 = 2 then f.get o 4 else 0) code

/-- Does a piece of a side reach a lost granule (R212)? Then the index of its entry. -/
def State.sideLost (s : State) (x : MoveSide) (pos n : Nat) : Option Nat :=
  match x with
  | .dev _ => none
  | .obj e off => if s.lostIn e (off + pos) n then some e.index else none

/-- The item that a side needs and does not have in T1. -/
def State.sideAbsent (s : State) (x : MoveSide) (pos : Nat) : Option (Entry × Nat) :=
  match x with
  | .dev _ => none
  | .obj e off => if e.policy = 1 ∨ (s.objT1 e (off + pos)).isSome then none else some (e, (off + pos) / e.unit)

/-- Write a piece to the destination side: here at once, elsewhere by a WRITE request. -/
def State.movePut (s : State) (id : Nat) (x : MoveSide) (pos : Nat) (data : List Byte) : State :=
  match x with
  | .obj e off => s.setObj e (off + pos) data
  | .dev d =>
    if s.isSelf d.chip then (if d.tier = 0 then s.setT0 (d.off + pos) data else s.setT1 (d.off + pos) data)
    else match s.request (.command id) 0x01 d.chip (d.chip * 2 ^ 44 + d.tier * 2 ^ 42 + d.off + pos) data.length 0 data none with
      | (s, some _) => s
      | (s, none) => s.failCommand id eAddrUnrouted 0#32

/-- Bytes of the source side on this chip, or none where a word of T1 is poisoned, which the state then reports. -/
def State.moveGet (s : State) (id : Nat) (x : MoveSide) (pos n : Nat) : Option (List Byte) × State :=
  match x with
  | .dev d => if d.tier = 0 then (some (s.t0 (d.off + pos) n), s) else s.readT1 (d.off + pos) n (some id)
  | .obj e off =>
    match s.objT1 e (off + pos) with
    | none => (some (List.replicate n 0#8), s)
    | some a => s.readT1 a n (some id)

/-- Bytes to the end of a 4 KiB unit. -/
def unitLeft (off : Nat) : Nat := 4096 - off % 4096

/-- A MOVE halts at an item that is not resident (R209). -/
def State.haltMove (s : State) (id : Nat) (e : Entry) (item : Nat) : State :=
  (s.wantPage e.index item false).onFlight id fun f => { f with halted := some (e.index, item) }

/-- Add read bytes to what waits to be written: neighbours become one part. -/
def joinPart (l : List (Nat × List Byte)) (pos : Nat) (bs : List Byte) : List (Nat × List Byte) :=
  let pre := l.filter fun p => p.1 + p.2.length = pos
  let post := l.filter fun p => p.1 = pos + bs.length
  let rest := l.filter fun p => p.1 + p.2.length ≠ pos ∧ p.1 ≠ pos + bs.length
  ((pre.head?.map Prod.fst).getD pos, (pre.map Prod.snd).flatten ++ bs ++ (post.map Prod.snd).flatten) :: rest

/-- What of a part may be written now: whole granules of the destination, within one 4 KiB unit of it, with what the MOVE's own ends cut (R112).
Its position and its bytes. -/
def ripePart (dst len : Nat) (p : Nat × List Byte) : Option (Nat × List Byte) :=
  let stop := p.1 + p.2.length
  let lo := if p.1 = 0 then 0 else roundUp (dst + p.1) 64 - dst
  let hi := if stop = len then len else (dst + stop) / 64 * 64 - dst
  let k := min (hi - lo) (unitLeft (dst + lo))
  if lo < hi then some (lo, (p.2.drop (lo - p.1)).take k) else none

/-- What is left of a part once the bytes from `lo` to `hi` are written. -/
def cutPart (p : Nat × List Byte) (lo hi : Nat) : List (Nat × List Byte) :=
  [(p.1, p.2.take (lo - p.1)), (hi, p.2.drop (hi - p.1))].filter fun q => q.2 != []

/-- The first part of a MOVE that may be written, with what is left of its parts. -/
def Flight.ripe (f : Flight) (dst : Nat) : Option ((Nat × List Byte) × List (Nat × List Byte)) :=
  f.parts.findSome? fun p => (ripePart dst (f.get 24 8) p).map fun r =>
    (r, (f.parts.filter (· != p)) ++ cutPart p r.1 (r.1 + r.2.length))

/-- Write what a MOVE has read, as far as the granules and the items of its destination are there (R112, R209, R212). -/
def State.moveWrite : Nat → State → Nat → State
  | 0, s, _ => s
  | n + 1, s, id =>
    match s.flight? id with
    | none => s
    | some f =>
      let dst := s.moveSide f 17 48
      if f.stage ≠ .running ∨ f.halted ≠ none then s
      else match f.ripe dst.off with
        | none => s
        | some ((pos, bs), rest) =>
          match s.sideLost dst pos bs.length with
          | some h => s.failHandle id h eObjLost
          | none => match s.sideAbsent dst pos with
            | some (e, item) => s.haltMove id e item
            | none => State.moveWrite n ((s.onFlight id fun f => { f with parts := rest }).movePut id dst pos bs) id

/-- Take bytes that a MOVE has read, and write what is whole. -/
def State.moveTake (s : State) (id pos : Nat) (bs : List Byte) : State :=
  State.moveWrite (bs.length / 4096 + 3) (s.onFlight id fun f => { f with parts := joinPart f.parts pos bs }) id

/-- Move piece after piece from the position reached. A piece lies in one 4 KiB unit of the source. -/
def State.moveGo : Nat → State → Nat → State
  | 0, s, _ => s
  | n + 1, s, id =>
    match s.flight? id with
    | none => s
    | some f =>
      let len := f.get 24 8
      let pos := f.round
      if f.stage ≠ .running ∨ f.halted ≠ none ∨ len ≤ pos then s
      else
        let src := s.moveSide f 16 32
        let dst := s.moveSide f 17 48
        let k := min (len - pos) (unitLeft (src.off + pos))
        match (s.sideLost src pos k).orElse fun _ => s.sideLost dst pos k with
        | some h => s.failHandle id h eObjLost
        | none =>
        match s.sideAbsent src pos with
        | some (e, item) => (s.haltMove id e item).schedule e item
        | none =>
        match s.sideAbsent dst pos with
        | some (e, item) => s.haltMove id e item
        | none =>
          let s := match src with
            | .obj e off => if pos = 0 ∨ (off + pos) % e.unit = 0 then s.schedule e ((off + pos) / e.unit) else s
            | .dev _ => s
          let far := match src with
            | .dev d => if s.isSelf d.chip then none else some d
            | .obj _ _ => none
          let s := s.onFlight id fun f => { f with round := pos + k }
          let s := match far with
            | some d =>
              match s.request (.command id) 0x02 d.chip (d.chip * 2 ^ 44 + d.tier * 2 ^ 42 + d.off + pos) k 0 [] (some pos) with
              | (s, some _) => s
              | (s, none) => s.failCommand id eAddrUnrouted 0#32
            | none =>
              match s.moveGet id src pos k with
              | (none, s) => s
              | (some bs, s) => s.moveTake id pos bs
          State.moveGo n s id

/-- A MOVE whose bytes have all moved and whose requests have all been answered is done (R119, R400). -/
def State.moveSettle (s : State) (id : Nat) : State :=
  match s.flight? id with
  | none => s
  | some f =>
    if f.opcode = 0x40 ∧ f.stage = .running ∧ f.get 24 8 ≤ f.round ∧ f.parts = [] ∧
        ¬ s.cmd.requests.any (fun r => r.owner == .command id && !(f.branches.any fun b => b.tag == r.tag)) then
      s.onFlight id fun f => { f.finish with result := f.get 24 8 }
    else s

/-- Pieces a MOVE may have. -/
def moveFuel (len : Nat) : Nat := 2 * (len / 4096) + 3

/-- Go on with a MOVE that runs. -/
def State.moveOn (s : State) (id : Nat) : State :=
  match s.flight? id with
  | none => s
  | some f =>
    let n := moveFuel (f.get 24 8)
    (State.moveGo n (State.moveWrite n s id) id).moveSettle id

/-- MOVE: the source is checked, then the destination, before a byte moves; one that has halted goes on once its item is there. -/
def execMove (q : Fin 64) (s : State) : Out :=
  if s.mem.wiping then .next s else
  match s.flightAt q 0x40 .started with
  | none =>
    match s.flightAt q 0x40 .running with
    | none => .next s
    | some f => .next (s.moveOn f.id)
  | some f =>
    match s.moveCheck f 16 32 false with
    | (some code, s) => .next (s.failSide f 16 32 code)
    | (none, s) =>
      match s.moveCheck f 17 48 true with
      | (some code, s) => .next (s.failSide f 17 48 code)
      | (none, s) => .next ((s.onFlight f.id fun f => { f with stage := .running }).moveOn f.id)

/-! ### BARRIER (R123 to R127) -/

/-- Enter the barrier of a started command. An arrival that has no way is refused at issue (R370). -/
def State.enterBarrier (s : State) (f : Flight) (g : Group) : State :=
  let s := s.onFlight f.id fun f => { f with stage := .running, round := (s.bar (barKey g g)).localRound + 1 }
  if s.isCredit g.ctr then s.barrierError g eBarrierKind g.position
  else if s.broken g.entry then s.barrierError g eBarrierBroken g.position
  else if !s.arrivalWay g then s.failCommand f.id eAddrUnrouted 0#32
  else
    let (round, s) := s.barrierEnter g
    if (f.get 16 1).testBit 0 then
      s.onFlight f.id fun f => if f.stage = .running then { f.finish with result := round } else f
    else s.wakeBarriers g.ctr

def execBarrier (q : Fin 64) (s : State) : Out :=
  match s.flightAt q 0x41 .started with
  | none => .next s
  | some f =>
    match s.group? f.group with
    | none => .next (s.failCommand f.id eGroupEpoch 0#32)
    | some g => .next (s.enterBarrier f g)

/-! ### SIGNAL and WAIT (R114 to R118) -/

/-- The signed value of a field of `w` bits. -/
def signedOf (w v : Nat) : Int := if v % 2 ^ w < 2 ^ (w - 1) then (v % 2 ^ w : Nat) else (v % 2 ^ w : Nat) - 2 ^ w

/-- The ADDR and AUX words of a SIGNAL message: counter fields of SIG_REMOTE, and the amount, whose bits above 31 go to ADDR[48:33]
(the spec gives a signed 48-bit amount and a 32-bit AUX, and no place for the rest). -/
def signalAddr (onCore : Bool) (index : Nat) (amount : Int) : Nat :=
  (if onCore then 2 ^ 20 else 0) + index * 2 ^ 21 + (amount % 2 ^ 48).toNat / 2 ^ 32 * 2 ^ 33

def signalAux (amount : Int) : Nat := (amount % 2 ^ 32).toNat

/-- The amount that a SIGNAL message carries. -/
def signalAmount (addr aux : Nat) : Int := signedOf 48 (aux % 2 ^ 32 + addr / 2 ^ 33 % 2 ^ 16 * 2 ^ 32)

/-- Apply a signal: on its own chip at once, to another by a request. -/
def State.applySignal (s : State) (f : Flight) : State :=
  let chip := f.get 16 4
  let index := f.get 20 2
  let amount := signedOf 64 (f.get 24 8)
  let s := s.onFlight f.id fun f => { f with stage := .running }
  if 0xFFFC0 ≤ chip ∧ chip < 0xFFFFF then s.failCommand f.id eAddrChipRsvd 0#32
  else if s.isSelf chip then
    match s.addChipSigned index amount (srcWord s.chipId 4 0 0) with
    | (s, none) => s.onFlight f.id Flight.finish
    | (s, some code) => s.failCommand f.id code (BitVec.ofNat 32 index) (index * 2 ^ 16)
  else match s.request (.command f.id) 0x03 chip (signalAddr false index amount) 0 (signalAux amount) [] none with
    | (s, some _) => s
    | (s, none) => s.failCommand f.id eAddrUnrouted 0#32

/-- SIGNAL (R118): every earlier command of its queue has completed. -/
def execSignal (q : Fin 64) (s : State) : Out :=
  match s.flightAt q 0x42 .started with
  | none => .next s
  | some f => .next (s.applySignal f)

/-- WAIT (R115, R118): it holds its queue until it is satisfied. The WAIT commands that have waited on the counter go first: all of them when
this one begins to wait, later those of the lower queues. -/
def execWait (q : Fin 64) (s : State) : Out :=
  match s.cmd.flights.find? fun f => f.queue = q.val && f.opcode = 0x43 && f.stage != .ended with
  | none => .next s
  | some f => .next ((s.takeWaits (f.get 20 2) (if f.stage = .started then 64 else q.val)).tryWait f)

/-! ### HINT (R400, R428) -/

def execHint (q : Fin 64) (s : State) : Out :=
  match s.flightAt q 0x44 .started with
  | none => .next s
  | some f =>
    let s := s.takeHint ⟨f.get 16 1, f.get 17 1, f.get 20 4, f.get 24 4, false⟩
    .next (s.onFlight f.id Flight.finish)

end Sys2Proof.Machine
end

