-- ==== Sys2Proof/Machine/KvPool.lean ====
section
/-! DEFINITION. The KV pool: its record, sequences, page lists and page states, KV_APPEND with its copy-on-write, and TRIM (R244 to R259,
R272, R278, R296, R398). -/

namespace Sys2Proof.Machine

/-! ### Errors (R272) -/

def eKv (code : Nat) : Nat := errCode (if code = 9 then 4 else 1) 9 code
def eKvPoolEmpty : Nat := 0x1241
def eKvListFull : Nat := 0x1242
def eKvListOrder : Nat := 0x1243
def eKvPageFill : Nat := 0x1244
def eKvBadPage : Nat := 0x1245
def eKvSeqInvalid : Nat := 0x1246
def eKvRefsOvf : Nat := 0x1247
def ePrefixTableFull : Nat := 0x1248
def ePrefixDiverged : Nat := 0x4249
def eAlmanacOver : Nat := 0x124A
def eKvPoolBad : Nat := 0x124B
def eCircShape : Nat := 0x1181

/-- What stops a step of the control cores: an error code, or a poisoned word of T1. -/
inductive KvErr where
  | code (c : Nat)
  /-- A code that concerns the object of an entry. -/
  | obj (entry c : Nat)
  | ue (word : Nat)
  deriving DecidableEq, Repr

/-- The value of a step that may stop. -/
abbrev Kv (α : Type) := Except KvErr α

/-- A command ends with what has stopped its step. -/
def State.kvFail (s : State) (id : Nat) : KvErr → State
  | .code c => s.failCommand id c 0#32
  | .obj e c => s.failHandle id e c
  | .ue w => s.reportUe w (some id)

/-! ### The pool record (R244 to R246) -/

structure Pool where
  desc     : Entry
  store    : Entry
  pages    : Nat
  layers   : Nat
  groups   : Nat
  fmt      : Nat
  kDims    : Nat
  vDims    : Nat
  vMode    : Nat
  ropeOff  : Nat
  ropeDims : Nat
  rowBytes : Nat
  wsPitch  : Nat
  sumOff   : Nat
  seqs     : Nat
  nodes    : Nat
  seqOff   : Nat
  stateOff : Nat
  nodeOff  : Nat
  deriving DecidableEq, Repr

def Pool.of (desc store : Entry) (b : List Byte) : Pool :=
  { desc := desc, store := store, pages := field b 4 4, layers := field b 8 2, groups := field b 10 1, fmt := field b 11 1,
    kDims := field b 12 2, vDims := field b 14 2, vMode := field b 16 1, ropeOff := field b 18 2, ropeDims := field b 20 2,
    rowBytes := field b 24 4, wsPitch := field b 28 4, sumOff := field b 32 8, seqs := field b 40 4, nodes := field b 44 4,
    seqOff := field b 48 8, stateOff := field b 56 8, nodeOff := field b 64 8 }

/-- Bytes of the key part of a stored row, and of the whole row. -/
def Pool.keyBytes (p : Pool) : Nat := Sys2Proof.Machine.rowBytes (fmtOf p.fmt) p.kDims
def Pool.valueOff (p : Pool) : Nat := roundUp p.keyBytes 64
def Pool.rowSize (p : Pool) : Nat :=
  if p.vMode = 1 then p.valueOff + Sys2Proof.Machine.rowBytes (fmtOf p.fmt) p.vDims else p.keyBytes

def Pool.sumBytes (p : Pool) : Nat := roundUp (64 + p.kDims - p.ropeDims) 64

/-- Does the record follow the table of R244, its objects long enough? -/
def poolOk (p : Pool) (b : List Byte) : Bool :=
  decide (1 ≤ p.pages ∧ p.pages ≤ 16777214 ∧ 1 ≤ p.layers ∧ p.layers ≤ 1024 ∧ 1 ≤ p.groups ∧ p.groups ≤ 16) &&
  decide (p.fmt = 3 ∨ p.fmt = 4 ∨ p.fmt = 10) &&
  decide (p.kDims % 64 = 0 ∧ 64 ≤ p.kDims ∧ p.kDims ≤ 2048 ∧ p.vDims % 64 = 0 ∧ 64 ≤ p.vDims ∧ p.vDims ≤ 1024 ∧ p.vMode ≤ 1) &&
  (p.vMode == 1 || decide (p.vDims ≤ 512 ∧ p.vDims ≤ p.ropeOff)) &&
  decide (p.ropeOff % 32 = 0 ∧ p.ropeDims % 32 = 0 ∧ p.ropeDims ≤ 256 ∧ p.ropeOff + p.ropeDims ≤ p.kDims) &&
  decide (p.rowBytes = p.rowSize ∧ p.wsPitch = roundUp p.rowBytes 64 ∧ p.sumOff % 64 = 0 ∧ 1 ≤ p.seqs ∧ p.seqs ≤ 65536) &&
  ((List.range 15).any fun k => p.nodes == 2 ^ (k + 10)) && zeroAt b 17 1 && zeroAt b 22 2 && zeroAt b 104 24 &&
  (field b 72 4 == 0xFFFFFFFF || decide (field b 72 4 < p.pages)) && (p.desc.policy == 1 && (p.store.policy == 1 || p.store.policy == 3)) &&
  decide (p.layers * p.groups * p.pages * 256 * p.rowBytes ≤ p.store.length ∧
    p.sumOff + p.layers * p.groups * p.pages * p.sumBytes ≤ p.store.length ∧
    p.seqOff + 32 * p.seqs ≤ p.desc.length ∧ p.stateOff + 8 * p.pages ≤ p.desc.length ∧ p.nodeOff + 64 * p.nodes ≤ p.desc.length)

/-- The pool that a command names, checked as at the start of the command. -/
def State.pool (s : State) (h id : Nat) : Except Nat Pool × State :=
  match s.checkRange h 0 128 false (some id) with
  | (.error code, s) => (.error code, s)
  | (.ok e, s) =>
    match s.objPoison e 0 128 with
    | some w => (.error eT1Ue, s.reportUe w (some id))
    | none =>
      let b := s.objBytes e 0 128
      match s.entriesUe [field b 0 4], s.handle? (field b 0 4) with
      | some w, _ => (.error eT1Ue, s.reportUe w (some id))
      | none, none => (.error eKvPoolBad, s)
      | none, some st =>
        let p := Pool.of e st b
        (if poolOk p b then .ok p else .error eKvPoolBad, s)

/-- The row and the summary of a page in a layer and group (R246). -/
def Pool.rowAt (p : Pool) (layer group page row : Nat) : Nat :=
  ((layer * p.groups + group) * p.pages + page) * 256 * p.rowBytes + row * p.rowBytes

def Pool.sumAt (p : Pool) (layer group page : Nat) : Nat :=
  p.sumOff + ((layer * p.groups + group) * p.pages + page) * p.sumBytes

/-! ### META -/

/-- Bytes of META. -/
def State.metaBytes (s : State) (p : Pool) (off n : Nat) : Kv (List Byte) :=
  match s.objPoison p.desc off n with
  | some w => .error (.ue w)
  | none => .ok (s.objBytes p.desc off n)

def State.metaNat (s : State) (p : Pool) (off n : Nat) : Kv Nat := (s.metaBytes p off n).map natOf

def State.setMeta (s : State) (p : Pool) (off n v : Nat) : State := s.setObj p.desc off (bytesOf n v)

/-! ### Page states (R258) -/

structure PageState where
  refs     : Nat
  inTree   : Bool
  nextFree : Nat

def noPage : Nat := 0xFFFFFFFF

def State.pageState (s : State) (p : Pool) (page : Nat) : Kv PageState := do
  let b ← s.metaBytes p (p.stateOff + 8 * page) 8
  pure ⟨field b 0 4, field b 4 1 % 2 = 1, field b 5 3⟩

/-- The state of a page that something names: out of range or free, it is a bad page (R249, R272). -/
def State.heldPage (s : State) (p : Pool) (page : Nat) : Kv PageState := do
  if p.pages ≤ page then throw (.code eKvBadPage)
  else
    let x ← s.pageState p page
    if x.refs = 0 then throw (.code eKvBadPage) else pure x

def State.setPageState (s : State) (p : Pool) (page : Nat) (x : PageState) : State :=
  s.setObj p.desc (p.stateOff + 8 * page) (bytesOf 4 x.refs ++ bytesOf 1 (if x.inTree then 1 else 0) ++ bytesOf 3 x.nextFree)

/-- Take the page at FREE_HEAD, with REFS 1. -/
def State.allocPage (s : State) (p : Pool) : Kv (Nat × State) := do
  let head ← s.metaNat p 72 4
  if head = noPage then throw (.code eKvPoolEmpty)
  else if p.pages ≤ head then throw (.code eKvBadPage)
  else
    let x ← s.pageState p head
    let n ← s.metaNat p 76 4
    let s := s.setMeta p 72 4 (if x.nextFree = 0xFFFFFF then noPage else x.nextFree)
    let s := s.setMeta p 76 4 (n - 1)
    pure (head, s.setPageState p head { x with refs := 1, inTree := false })

/-- One holder more. -/
def State.raiseRefs (s : State) (p : Pool) (page : Nat) (tree : Bool) : Kv State := do
  let x ← s.heldPage p page
  if x.refs + 1 = 2 ^ 32 then throw (.code eKvRefsOvf)
  else pure (s.setPageState p page { x with refs := x.refs + 1, inTree := x.inTree || tree })

/-- One holder less; a page that nobody holds is pushed at FREE_HEAD. -/
def State.lowerRefs (s : State) (p : Pool) (page : Nat) (tree : Bool) : Kv State := do
  let x ← s.heldPage p page
  let inTree := x.inTree && !tree
  if x.refs ≤ 1 then
    let head ← s.metaNat p 72 4
    let n ← s.metaNat p 76 4
    let s := s.setPageState p page ⟨0, inTree, if head = noPage then 0xFFFFFF else head⟩
    pure ((s.setMeta p 72 4 page).setMeta p 76 4 (n + 1))
  else pure (s.setPageState p page ⟨x.refs - 1, inTree, x.nextFree⟩)

/-! ### Sequences and page lists (R247, R248) -/

structure PageEntry where
  page : Nat
  base : Nat
  fill : Nat
  deriving DecidableEq, Repr

def PageEntry.of (b : List Byte) : PageEntry := ⟨field b 0 4, field b 4 4, field b 8 2 % 2 ^ 9⟩
def PageEntry.bytes (x : PageEntry) : List Byte := bytesOf 4 x.page ++ bytesOf 4 x.base ++ bytesOf 8 x.fill
def PageEntry.isHole (x : PageEntry) : Bool := x.page == noPage

structure Seq where
  at_     : Nat
  list    : Nat
  cap     : Nat
  entries : Nat
  len     : Nat
  deriving DecidableEq, Repr

/-- A valid sequence of a pool. -/
def State.seq (s : State) (p : Pool) (i : Nat) : Kv Seq := do
  if p.seqs ≤ i then throw (.code eKvSeqInvalid)
  else
    let o := p.seqOff + 32 * i
    let b ← s.metaBytes p o 32
    if field b 24 1 % 2 = 0 then throw (.code eKvSeqInvalid)
    else pure ⟨o, field b 0 8, field b 8 4, field b 12 4, field b 16 8⟩

def State.pageList (s : State) (p : Pool) (q : Seq) : Kv (List PageEntry) := do
  let b ← s.metaBytes p q.list (16 * q.entries)
  pure ((List.range q.entries).map fun i => PageEntry.of (slice b (16 * i) 16))

/-- Write a sequence's list whole, and how many entries it has. -/
def State.setList (s : State) (p : Pool) (q : Seq) (l : List PageEntry) : State :=
  (s.setObj p.desc q.list (l.map PageEntry.bytes).flatten).setMeta p (q.at_ + 12) 4 l.length

def State.setLen (s : State) (p : Pool) (q : Seq) (n : Nat) : State := s.setMeta p (q.at_ + 16) 8 n

/-- Insert an entry in position order. -/
def insertEntry (x : PageEntry) : List PageEntry → List PageEntry
  | [] => [x]
  | y :: r => if x.base < y.base then x :: y :: r else y :: insertEntry x r

/-- Replace the entry of a position. -/
def setEntry (x : PageEntry) (l : List PageEntry) : List PageEntry :=
  l.map fun y => if y.base = x.base ∧ !y.isHole then x else y

def entryAt (l : List PageEntry) (base : Nat) : Option PageEntry := l.find? fun x => !x.isHole && x.base = base

/-! ### The length table (R240) -/

structure LenEntry where
  qRow   : Nat
  qCount : Nat
  kvLen  : Nat
  seq    : Nat
  deriving DecidableEq, Repr

def LenEntry.of (b : List Byte) : LenEntry := ⟨field b 0 4, field b 4 4, field b 8 4, field b 12 4⟩

/-- The length table of a record whose LEN_TAB field stands at byte 56. -/
def State.lenTab (s : State) (f : Flight) : Kv (List LenEntry) :=
  let t := f.get 56 8
  let n := t / 2 ^ 48
  match s.poisonIn (t % 2 ^ 42) (16 * n) with
  | some w => .error (.ue w)
  | none =>
    let b := s.t1Seen (t % 2 ^ 42) (16 * n)
    .ok ((List.range n).map fun i => LenEntry.of (slice b (16 * i) 16))

/-! ### KV_APPEND (R253, R254, R398) -/

/-- A row to be stored: its entry of the length table, its sequence and its position, and where its source row lies. -/
structure AppendRow where
  seq : Nat
  pos : Nat
  src : Nat
  deriving DecidableEq, Repr

/-- Members and this chip's primary position on the set of a lace. -/
def State.laceShare (s : State) (l : Nat) : Nat × Nat :=
  let x := s.lace (s.primary l)
  (x.members, x.pos)

/-- Does PLACE store position `p` on this chip? -/
def placed (place n i stripe p : Nat) : Bool :=
  match place with
  | 0 => true
  | 1 =>
    let k := p / (256 * stripe)
    if k < n then k == i else decide (k < 2 * n) && 2 * n - 1 - k == i
  | 2 => p / 256 % n == i
  | _ => p / 4096 % n == i

/-- The checks of the append's fields against its pool and lace. -/
def State.appendCode (s : State) (f : Flight) (p : Pool) (tab : List LenEntry) : Option Nat :=
  let place := f.get 54 1
  let l := f.get 77 1
  let (n, _) := s.laceShare l
  if p.layers ≤ f.get 52 2 ∨ tab.any (fun e => e.kvLen < e.qCount) then some eCmdBadField
  else if place = 0 then none
  else if !(s.lace l).valid ∨ n = 0 ∨ (place = 1 ∧ f.get 78 2 = 0) then some eCmdBadField
  else if place = 1 ∧ tab.any (fun e => e.qCount ≠ 0 ∧ 512 * n * f.get 78 2 < e.kvLen) then some eCircShape
  else none

/-- The rows this chip stores, in position order within each sequence. -/
def State.appendRows (s : State) (f : Flight) (tab : List LenEntry) : List AppendRow :=
  let (n, i) := s.laceShare (f.get 77 1)
  (tab.map fun e =>
    (List.range e.qCount).filterMap fun j =>
      let pos := e.kvLen - e.qCount + j
      if placed (f.get 54 1) n i (f.get 78 2) pos then some ⟨e.seq, pos, f.get 64 8 + (e.qRow + j) * f.get 72 4⟩ else none).flatten

/-- Copy the rows of page x that its entry holds to page y, whose summaries become invalid (R254 step 2). -/
def State.copyRows (s : State) (p : Pool) (x : PageEntry) (y : Nat) : State :=
  (List.range (p.layers * p.groups)).foldl (fun s k =>
    let s := s.setObj p.store (p.rowAt 0 k y 0) (s.objBytes p.store (p.rowAt 0 k x.page 0) (x.fill * p.rowBytes))
    s.setObj p.store (p.sumAt 0 k y) (bytesOf 4 0)) s

/-- Copy-on-write of the page of an entry, in the list `l` of sequence q: the three steps of R254, each atomic, so that what stops one leaves
those before it done (R257, R272). -/
def State.copyPage (s : State) (p : Pool) (q : Seq) (l : List PageEntry) (x : PageEntry) : State × Option KvErr :=
  match s.allocPage p with
  | .error e => (s, some e)
  | .ok (y, s) =>
    if p.store.readOnly then (s, some (.obj p.store.index eObjReadOnly))
    else
      let s := s.copyRows p x y
      match s.lowerRefs p x.page false with
      | .error e => (s, some e)
      | .ok s => (s.setList p q (setEntry { x with page := y } l), none)

/-- The stored form of a source row: pieces of the row of the pool's format, and how many elements saturated (R44, R245, R253 step 3). -/
def Pool.encode (p : Pool) (srcFmt : Nat) (b : List Byte) : List (Nat × List Byte) × Nat :=
  let f := fmtOf p.fmt
  let sf := fmtOf srcFmt
  let n := p.kDims + (if p.vMode = 1 then p.vDims else 0)
  let vs := rowVals sf n b
  let key := encodeRow f (vs.take p.kDims)
  let value := encodeRow f (vs.drop p.kDims)
  if p.vMode = 1 then (key.1 ++ value.1.map (fun x => (p.valueOff + x.1, x.2)), key.2 + value.2) else key

/-- The values of the key rows of a page. -/
def State.pageRows (s : State) (p : Pool) (layer group page : Nat) : List (List Val) :=
  (List.range 256).map fun t => rowVals (fmtOf p.fmt) p.kDims (s.objBytes p.store (p.rowAt layer group page t) p.keyBytes)

/-- The summary of a full page, from its stored rows (R256, R265). -/
def State.pageSummary (s : State) (p : Pool) (layer group page : Nat) : List Byte :=
  summaryOf (s.pageRows p layer group page) p.ropeOff p.ropeDims

/-- Store one row; row 255 completes the page, whose summary is then written (R256). -/
def State.storeRow (s : State) (p : Pool) (layer group page row : Nat) (pieces : List (Nat × List Byte)) : State :=
  let s := pieces.foldl (fun s c => s.setObj p.store (p.rowAt layer group page row + c.1) c.2) s
  if row = 255 then s.setObj p.store (p.sumAt layer group page) (s.pageSummary p layer group page) else s

/-- Bytes of a source row. -/
def Pool.srcBytes (p : Pool) (srcFmt : Nat) : Nat :=
  Sys2Proof.Machine.rowBytes (fmtOf srcFmt) (p.kDims + (if p.vMode = 1 then p.vDims else 0))

/-- What the next row reads and writes of STORE. -/
structure AppendNeeds where
  reads  : List (Nat × Nat)
  writes : List (Nat × Nat)

/-- What storing a row in every group of a page reads and writes: with row 255, the page's other rows and its summary too. -/
def Pool.rowNeeds (p : Pool) (layer row page : Nat) : AppendNeeds :=
  let gs := List.range p.groups
  let sums := if row = 255 then gs.map fun g => (p.sumAt layer g page, 64 + p.kDims - p.ropeDims) else []
  { reads := if row = 255 then gs.map fun g => (p.rowAt layer g page 0, 255 * p.rowBytes) else []
    writes := (gs.map fun g => (p.rowAt layer g page row, p.rowBytes)) ++ sums }

/-- What the next row needs of STORE. A page that is copied first is read up to its FILL and written in every layer and group; the rows of
the copy that a
summary reads are then those just written. -/
def State.appendNeeds (s : State) (p : Pool) (layer : Nat) (r : AppendRow) : Kv AppendNeeds := do
  let q ← s.seq p r.seq
  let l ← s.pageList p q
  let head ← s.metaNat p 72 4
  let rows := p.rowNeeds layer (r.pos % 256)
  match entryAt l (256 * (r.pos / 256)) with
  | none => pure (if head < p.pages then rows head else ⟨[], []⟩)
  | some x =>
    let st ← s.heldPage p x.page
    pure (if st.refs ≤ 1 then rows x.page
      else if head < p.pages then
        ⟨(List.range (p.layers * p.groups)).map fun k => (p.rowAt 0 k x.page 0, x.fill * p.rowBytes),
          ((List.range (p.layers * p.groups)).map fun k => [(p.rowAt 0 k head 0, x.fill * p.rowBytes), (p.sumAt 0 k head, 4)]).flatten ++
            (rows head).reads ++ (rows head).writes⟩
      else ⟨[], []⟩)

/-- Step 1 of R253: the entry of the row's page, inserted with a new page where there is none. -/
def State.appendPage (s : State) (p : Pool) (r : AppendRow) : Kv State := do
  let base := 256 * (r.pos / 256)
  let q ← s.seq p r.seq
  let l ← s.pageList p q
  match entryAt l base with
  | some _ => pure s
  | none =>
    if q.cap ≤ q.entries then throw (.code eKvListFull)
    else do
      let (page, s) ← s.allocPage p
      pure (s.setList p q (insertEntry ⟨page, base, 0⟩ l))

/-- The sequence of a row, its list, the entry of its page and the state of that page. -/
def State.appendEntry (s : State) (p : Pool) (r : AppendRow) : Kv (Seq × List PageEntry × PageEntry × PageState) := do
  let q ← s.seq p r.seq
  let l ← s.pageList p q
  match entryAt l (256 * (r.pos / 256)) with
  | none => throw (.code eKvBadPage)
  | some x =>
    let st ← s.heldPage p x.page
    pure (q, l, x, st)

/-- Step 2 of R253: a page that others hold too is copied. -/
def State.appendOwn (s : State) (p : Pool) (r : AppendRow) : State × Option KvErr :=
  match s.appendEntry p r with
  | .error e => (s, some e)
  | .ok (q, l, x, st) => if 1 < st.refs then s.copyPage p q l x else (s, none)

/-- Steps 3 and 4 of R253: the row is written, and FILL covers it. -/
def State.appendFill (s : State) (p : Pool) (layer group : Nat) (r : AppendRow) (pieces : List (Nat × List Byte)) : Kv State := do
  let (q, l, x, _) ← s.appendEntry p r
  if p.store.readOnly then throw (.obj p.store.index eObjReadOnly)
  else
    let s := s.storeRow p layer group x.page (r.pos % 256) pieces
    pure (s.setList p q (setEntry { x with fill := max x.fill (r.pos % 256 + 1) } l))

/-- One row of one group is stored: the steps of R253, each atomic. What stops a step leaves those before it done (R257, R272). -/
def State.appendOne (s : State) (p : Pool) (layer group : Nat) (r : AppendRow) (pieces : List (Nat × List Byte)) : State × Option KvErr :=
  match s.appendPage p r with
  | .error e => (s, some e)
  | .ok s => match s.appendOwn p r with
    | (s, some e) => (s, some e)
    | (s, none) => match s.appendFill p layer group r pieces with
      | .error e => (s, some e)
      | .ok s => (s, none)

/-- The page of a row that has been stored. -/
def State.storedPage (s : State) (p : Pool) (r : AppendRow) : Nat :=
  match s.appendEntry p r with
  | .ok (_, _, x, _) => x.page
  | .error _ => 0

/-- Saturations that a stored row of group g counts: those of its conversion, and, with row 255, those of the page's summary (R44, R265). -/
def State.rowSats (s : State) (p : Pool) (layer group : Nat) (r : AppendRow) (sats : Nat) : Nat :=
  if r.pos % 256 = 255 then sats + summarySats (s.pageRows p layer group (s.storedPage p r)) p.ropeOff p.ropeDims else sats

/-- Store one position in every KV group of the layer. The spec gives a source row no group: group 0 takes it, and the rows of the
other groups are free values of it. DESIGN CHOICE: the saturations of the conversion and of the summaries count in CVT_SAT_CNT of the
command's first core (R44). -/
def State.appendRow (s : State) (p : Pool) (f : Flight) (r : AppendRow) : State × Option KvErr :=
  let n := p.srcBytes (f.get 76 1)
  if t1Bytes < r.src + n then (s, some (.code eAddrRange))
  else match s.poisonIn r.src n with
    | some w => (s, some (.ue w))
    | none =>
      let src := s.t1Seen r.src n
      let layer := f.get 52 2
      (List.range p.groups).foldl (fun ((s, err) : State × Option KvErr) g =>
        match err with
        | some e => (s, some e)
        | none =>
          let (pieces, sats) := if g = 0 then p.encode (f.get 76 1) src
            else ([(0, (List.range p.rowBytes).map (Config.kvRow g (f.get 76 1) src))], 0)
          match s.appendOne p layer g r pieces with
          | (s, some e) => (s, some e)
          | (s, none) => (match f.cores with
            | [] => s
            | c :: _ => s.addSat c (s.rowSats p layer g r sats), none)) (s.bump64 (pageMem + 0xD0) n, none)

/-- When every row is written: LEN of each sequence (R253), and the command's RESULT. -/
def State.appendLens (s : State) (p : Pool) (tab : List LenEntry) : Kv State :=
  tab.foldlM (fun s e =>
    if e.qCount = 0 then pure s
    else do
      let q ← s.seq p e.seq
      pure (s.setLen p q (max q.len e.kvLen))) s

/-- LEN of the first sequence of a table. -/
def State.firstLen (s : State) (p : Pool) (tab : List LenEntry) : Nat :=
  match tab.head? with
  | none => 0
  | some e => match s.seq p e.seq with
    | .ok q => q.len
    | .error _ => 0

/-- A control-core command whose own work here is done: it goes on with its cores, or ends. -/
def State.controlDone (s : State) (id result : Nat) : State :=
  let s := s.onFlight id fun f => { f with result := result, halted := none, scratch := [1] }
  match s.flight? id with
  | none => s
  | some f => if f.cores = [] then s.onFlight id Flight.finish else s.settle id

/-- Store row after row from the one reached; a row whose part of STORE is not resident halts the command (R209). -/
def State.appendGo : Nat → State → Nat → Pool → List LenEntry → List AppendRow → State
  | 0, s, _, _, _, _ => s
  | n + 1, s, id, p, tab, rows =>
    match s.flight? id with
    | none => s
    | some f =>
      if f.stage ≠ .running then s
      else match rows[f.round]? with
      | none =>
        match s.appendLens p tab with
        | .error e => s.kvFail id e
        | .ok s => s.controlDone id (s.firstLen p tab)
      | some r =>
        match s.appendNeeds p (f.get 52 2) r with
        | .error e => s.kvFail id e
        | .ok need =>
          let all := need.reads ++ need.writes
          match (all.map fun x => s.absent p.store x.1 x.2).flatten with
          | item :: _ => s.haltMove id p.store item
          | [] =>
            if all.any fun x => s.lostIn p.store x.1 x.2 then s.failHandle id p.store.index eObjLost
            else match need.reads.findSome? fun x => s.objPoison p.store x.1 x.2 with
            | some w => s.reportUe w (some id)
            | none =>
              match s.appendRow p f r with
              | (s, some e) => s.kvFail id e
              | (s, none) => State.appendGo n (s.onFlight id fun f => { f with round := f.round + 1 }) id p tab rows

/-- Begin or go on with the append of a flight. -/
def State.append (s : State) (f : Flight) : State :=
  match s.pool (f.get 48 4) f.id with
  | (.error code, s) => s.failHandle f.id (f.get 48 4) code
  | (.ok p, s) =>
    match s.lenTab f with
    | .error e => s.kvFail f.id e
    | .ok tab =>
      match s.appendCode f p tab with
      | some code => s.failCommand f.id code 0#32
      | none =>
        let rows := s.appendRows f tab
        State.appendGo (rows.length + 1) s f.id p tab rows

/-- KV_APPEND (R253). -/
def execKvAppend (q : Fin 64) (s : State) : Out :=
  if s.mem.wiping then .next s else
  match s.cmd.flights.find? fun f => f.queue = q.val && f.opcode = 0x13 && !(f.get 55 1).testBit 0 && f.stage != .ended with
  | none => .next s
  | some f =>
    if f.stage = .started then .next ((s.runCores f).append f)
    else if f.halted.isSome ∨ f.scratch ≠ [] then .next s
    else .next (s.append f)

/-! ### TRIM (R255) -/

/-- Trim one sequence to a new LEN. -/
def State.trimSeq (s : State) (p : Pool) (i len : Nat) : Kv State := do
  let q ← s.seq p i
  if q.len < len then throw (.code eCmdBadField)
  else
    let l ← s.pageList p q
    let gone := l.filter fun x => len ≤ x.base
    let s ← gone.foldlM (fun s x => if x.isHole then pure s else s.lowerRefs p x.page false) s
    let kept := (l.filter fun x => x.base < len).map fun x =>
      if x.base ≤ len - 1 ∧ len - 1 < x.base + 256 ∧ !x.isHole then { x with fill := len - x.base } else x
    pure ((s.setList p q kept).setLen p q len)

/-- Trim the sequences of a table, each as one step. -/
def State.trimAll (s : State) (id : Nat) (p : Pool) : List LenEntry → State
  | [] => s
  | e :: r =>
    match s.trimSeq p e.seq e.kvLen with
    | .error x => s.kvFail id x
    | .ok s => s.trimAll id p r

/-- TRIM (R255). -/
def execTrim (q : Fin 64) (s : State) : Out :=
  if s.mem.wiping then .next s else
  match s.cmd.flights.find? fun f => f.queue = q.val && f.opcode = 0x13 && (f.get 55 1).testBit 0 && f.stage == .started with
  | none => .next s
  | some f =>
    let s := s.runCores f
    match s.pool (f.get 48 4) f.id with
    | (.error code, s) => .next (s.failHandle f.id (f.get 48 4) code)
    | (.ok p, s) =>
      match s.lenTab f with
      | .error e => .next (s.kvFail f.id e)
      | .ok tab =>
        let s := s.trimAll f.id p tab
        .next (match s.flight? f.id with
          | some g => if g.stage = .running then s.controlDone f.id (s.firstLen p tab) else s
          | none => s)

end Sys2Proof.Machine
end

