-- ==== Sys2Proof/Machine/Prefix.lean ====
section
/-! DEFINITION. PREFIX_LOOKUP: MATCH, INSERT, FORK, RELEASE and EVICT, the two rounds of a group's MATCH, and the gathering of completions
(R32, R257 to R264). -/

namespace Sys2Proof.Machine

/-! ### The node table (R261) -/

structure Node where
  hash     : List Byte
  parent   : Nat
  page     : Nat
  children : Nat
  depth    : Nat
  stamp    : Nat
  flags    : Nat

def Node.of (b : List Byte) : Node :=
  ⟨slice b 0 16, field b 16 4, field b 20 4, field b 24 4, field b 28 4, field b 32 8, field b 40 1⟩

def Node.bytes (x : Node) : List Byte :=
  x.hash ++ bytesOf 4 x.parent ++ bytesOf 4 x.page ++ bytesOf 4 x.children ++ bytesOf 4 x.depth ++ bytesOf 8 x.stamp ++
  bytesOf 1 x.flags ++ List.replicate 23 0#8

def Node.valid (x : Node) : Bool := x.flags % 2 = 1
def Node.tomb (x : Node) : Bool := x.flags / 2 % 2 = 1

def State.node (s : State) (p : Pool) (i : Nat) : Kv Node := do
  let b ← s.metaBytes p (p.nodeOff + 64 * i) 64
  pure (Node.of b)

def State.setNode (s : State) (p : Pool) (i : Nat) (x : Node) : State := s.setObj p.desc (p.nodeOff + 64 * i) x.bytes

/-- The slot of a hash: the node that holds it, or the slot an insertion takes (`spare` the first tombstone met). -/
def State.probe (s : State) (p : Pool) (hash : List Byte) : Nat → Nat → Option Nat → Kv (Option Nat × Option Nat)
  | 0, _, spare => pure (none, spare)
  | n + 1, i, spare => do
    let x ← s.node p i
    if x.valid then
      if x.hash = hash then pure (some i, spare) else s.probe p hash n ((i + 1) % p.nodes) spare
    else if x.tomb then s.probe p hash n ((i + 1) % p.nodes) (spare.orElse fun _ => some i)
    else pure (none, spare.orElse fun _ => some i)

def State.findNode (s : State) (p : Pool) (hash : List Byte) : Kv (Option Nat × Option Nat) :=
  s.probe p hash p.nodes (field hash 0 4 % p.nodes) none

/-- The indices of the valid nodes: only a listed FLAGS byte of META can be set. -/
def State.validNodes (s : State) (p : Pool) : List Nat :=
  let b := p.desc.t1Base + p.nodeOff
  (s.mem.t1.filter fun e =>
    decide (b ≤ e.1 ∧ e.1 < b + 64 * p.nodes ∧ (e.1 - b) % 64 = 40 ∧ e.2.toNat % 2 = 1)).map fun e => (e.1 - b) / 64

/-! ### Blocks (R260) -/

/-- The hash of a block from its parent's. -/
def blockHash (parent tokens : List Byte) : List Byte := (sha256 (parent ++ tokens)).take 16

/-- The tokens of block i. -/
def State.blockTokens (s : State) (f : Flight) (i : Nat) : Kv (List Byte) :=
  let a := f.get 40 8 + 1024 * i
  if t1Bytes < a + 1024 then .error (.code eAddrRange)
  else match s.poisonIn a 1024 with
    | some w => .error (.ue w)
    | none => .ok (s.t1 a 1024)

/-- Follow the chain of nodes from a block: the nodes found. -/
def State.follow (s : State) (p : Pool) (f : Flight) : Nat → Nat → List Byte → Kv (List Nat)
  | 0, _, _ => pure []
  | n + 1, i, h => do
    let t ← s.blockTokens f i
    let h := blockHash h t
    let (hit, _) ← s.findNode p h
    match hit with
    | none => pure []
    | some k =>
      let r ← s.follow p f n (i + 1) h
      pure (k :: r)

def State.salt (s : State) (p : Pool) : Kv (List Byte) := s.metaBytes p 80 16

/-- The nodes that match the token array, from block 0. -/
def State.matchChain (s : State) (p : Pool) (f : Flight) : Kv (List Nat) := do
  let salt ← s.salt p
  s.follow p f (f.get 36 4 / 256) 0 salt

def State.opSeq (s : State) (p : Pool) : Kv Nat := s.metaNat p 96 8

/-! ### The operations (R262) -/

/-- An empty sequence. -/
def State.emptySeq (s : State) (p : Pool) (i : Nat) : Kv Seq := do
  let q ← s.seq p i
  if q.len ≠ 0 ∨ q.entries ≠ 0 then throw (.code eKvSeqInvalid) else pure q

/-- Attach the first n blocks of a chain to a sequence. -/
def State.attachBlocks (s : State) (p : Pool) (f : Flight) (n : Nat) : Kv State := do
  let q ← s.emptySeq p (f.get 24 4)
  let chain ← s.matchChain p f
  let now ← s.opSeq p
  let (l, s) ← ((chain.take n).zipIdx).foldlM (fun ((l, s) : List PageEntry × State) (k, i) => do
    let x ← s.node p k
    let s := s.setNode p k { x with stamp := now }
    if x.page = noPage then pure (l, s)
    else if q.cap ≤ l.length then throw (.code eKvListFull)
    else do
      let s ← s.raiseRefs p x.page false
      pure (l ++ [⟨x.page, 256 * i, 256⟩], s)) ([], s)
  pure ((s.setList p q l).setLen p q (256 * n))

/-- One block of an INSERT: the node for it, made if it is missing, takes the sequence's page if it has none. The running value is the
parent's hash and index and the count of nodes made. -/
def State.insertBlock (s : State) (p : Pool) (f : Flight) (l : List PageEntry) (now : Nat) (parent : List Byte) (pi made i : Nat) :
    Kv (List Byte × Nat × Nat × State) := do
  let t ← s.blockTokens f i
  let h := blockHash parent t
  let (hit, spare) ← s.findNode p h
  let (k, made, s) ← match hit, spare with
    | some k, _ => pure (k, made, s)
    | none, none => throw (.code ePrefixTableFull)
    | none, some k =>
      if 15 * p.nodes < 16 * ((s.validNodes p).length + 1) then throw (.code ePrefixTableFull)
      else do
        let s := s.setNode p k ⟨h, pi, noPage, 0, i, now, 1⟩
        if pi = noPage then pure (k, made + 1, s)
        else do
          let x ← s.node p pi
          pure (k, made + 1, s.setNode p pi { x with children := x.children + 1 })
  let x ← s.node p k
  let s := s.setNode p k { x with stamp := now }
  match x.page == noPage, entryAt l (256 * i) with
  | true, some e => do
    let s ← s.raiseRefs p e.page true
    pure (h, k, made, s.setNode p k { x with stamp := now, page := e.page })
  | _, _ => pure (h, k, made, s)

def State.prefixInsert (s : State) (p : Pool) (f : Flight) : Kv (Nat × State) := do
  let q ← s.seq p (f.get 24 4)
  let l ← s.pageList p q
  let now ← s.opSeq p
  let salt ← s.salt p
  let (_, _, made, s) ← (List.range (min (q.len / 256) (f.get 36 4 / 256))).foldlM
    (fun ((h, pi, made, s) : List Byte × Nat × Nat × State) i => s.insertBlock p f l now h pi made i) (salt, noPage, 0, s)
  pure (made, s)

def State.prefixFork (s : State) (p : Pool) (f : Flight) : Kv (Nat × State) := do
  let q ← s.seq p (f.get 24 4)
  let r ← s.emptySeq p (f.get 28 4)
  let l ← s.pageList p q
  if r.cap < l.length then throw (.code eKvListFull)
  else
    let s ← l.foldlM (fun s x => if x.isHole then pure s else s.raiseRefs p x.page false) s
    pure (l.length, (s.setList p r l).setLen p r q.len)

def State.prefixRelease (s : State) (p : Pool) (f : Flight) : Kv (Nat × State) := do
  let q ← s.seq p (f.get 24 4)
  let l ← s.pageList p q
  let s ← l.foldlM (fun s x => if x.isHole then pure s else s.lowerRefs p x.page false) s
  pure (l.length, (s.setList p q []).setLen p q 0)

/-- The order in which EVICT takes nodes. -/
def Node.sooner (a b : Node) : Bool :=
  decide (a.stamp < b.stamp) || (a.stamp == b.stamp && decide (natOf a.hash.reverse < natOf b.hash.reverse))

/-- The next node to evict among some indices. -/
def State.victimNode (s : State) (p : Pool) (is : List Nat) : Kv (Option (Nat × Node)) :=
  is.foldlM (fun best i => do
    let x ← s.node p i
    if x.children ≠ 0 then pure best
    else do
      let free ← if x.page = noPage then pure true else do
        let st ← s.heldPage p x.page
        pure (st.refs == 1)
      if !free then pure best
      else match best with
        | none => pure (some (i, x))
        | some (j, y) => if x.sooner y then pure (some (i, x)) else pure (some (j, y))) none

/-- Evict up to n nodes. -/
def State.evictNodes (s : State) (p : Pool) : Nat → Nat → Kv (Nat × State)
  | 0, done => pure (done, s)
  | n + 1, done => do
    let v ← s.victimNode p (s.validNodes p)
    match v with
    | none => pure (done, s)
    | some (i, x) =>
      let s ← if x.page = noPage then pure s else s.lowerRefs p x.page true
      let s := s.setNode p i { x with flags := 2 }
      let s ← if x.parent = noPage then pure s else do
        let y ← s.node p x.parent
        pure (s.setNode p x.parent { y with children := y.children - 1 })
      State.evictNodes s p n (done + 1)

/-! ### The commands -/

/-- The PREFIX_LOOKUP of a mode that a queue has started. -/
def State.prefixFlight (s : State) (q mode : Nat) : Option Flight :=
  s.cmd.flights.find? fun f => f.queue = q && f.opcode = 0x14 && f.get 20 1 = mode && f.stage == .started

/-- The pool of a PREFIX_LOOKUP, with its OPSEQ raised. -/
def State.prefixPool (s : State) (f : Flight) : Except KvErr Pool × State :=
  match s.pool (f.get 16 4) f.id with
  | (.error code, s) => (.error (.code code), s)
  | (.ok p, s) =>
    match s.opSeq p with
    | .error e => (.error e, s)
    | .ok n => (.ok p, s.setMeta p 96 8 (n + 1))

/-- Run an operation as one atomic step. -/
def State.prefixOp (s : State) (q mode : Nat) (op : State → Pool → Flight → Kv (Nat × State)) : State :=
  if s.mem.wiping then s else
  match s.prefixFlight q mode with
  | none => s
  | some f =>
    let s := s.onFlight f.id fun f => { f with stage := .running }
    match s.prefixPool f with
    | (.error (.code c), s) => s.failHandle f.id (f.get 16 4) c
    | (.error e, s) => s.kvFail f.id e
    | (.ok p, s) =>
      match op s p f with
      | .error e => s.kvFail f.id e
      | .ok (n, s) => s.onFlight f.id fun f => { f.finish with result := n }

/-- INSERT (R262). -/
def execPrefixInsert (q : Fin 64) (s : State) : Out := .next (s.prefixOp q 1 State.prefixInsert)
/-- FORK (R262). -/
def execPrefixFork (q : Fin 64) (s : State) : Out := .next (s.prefixOp q 2 State.prefixFork)
/-- RELEASE (R262). -/
def execPrefixRelease (q : Fin 64) (s : State) : Out := .next (s.prefixOp q 3 State.prefixRelease)
/-- EVICT (R262). -/
def execPrefixEvict (q : Fin 64) (s : State) : Out :=
  .next (s.prefixOp q 4 fun s p f => s.evictNodes p (min (f.get 32 4) p.nodes) 0)

/-! ### The two rounds of MATCH (R263)

Round 1: every member has found its own chain length, and reports the least of its branch of the fan-out tree to the sender of its
message. Round 2: the entry member sends the least of all down the same tree, and every member attaches that many blocks. `round` is 1
while lengths are awaited, 2 while the entry member's answer is; `scratch` is the own length, then tag and length of each branch. -/

/-- The least length known here. -/
def matchLeast : List Nat → Nat
  | [] => 0
  | own :: r => (lens r).foldl min own
where
  lens : List Nat → List Nat
    | _ :: n :: r => n :: lens r
    | _ => []

/-- Round 2 at this chip: attach n blocks, send n on, and report a length of its own above n. -/
def State.matchAttach (s : State) (id n : Nat) : State :=
  match s.flight? id with
  | none => s
  | some f =>
    let s := f.branches.foldl (fun s b => s.sendFan b.chip 11 b.tag f.queue [] (bytesOf 4 n)) s
    match s.pool (f.get 16 4) id with
    | (.error code, s) => s.failHandle id (f.get 16 4) code
    | (.ok p, s) =>
      match s.attachBlocks p f n with
      | .error e => s.kvFail id e
      | .ok s =>
        let s := if n < f.scratch.headD 0 then s.advisory ePrefixDiverged 0 (some id) else s
        s.onFlight id fun f => { f.finish with round := 3, result := n }

/-- When every branch has reported its length. -/
def State.matchNext (s : State) (id : Nat) : State :=
  match s.flight? id with
  | none => s
  | some f =>
    if f.stage ≠ .running ∨ f.round ≠ 1 ∨ f.scratch.length < 1 + 2 * f.branches.length then s
    else match f.origin with
      | .ring _ _ => s.matchAttach id (matchLeast f.scratch)
      | .fan chip tag _ =>
        if f.scope then
          (s.sendFan chip 10 tag f.queue [] (bytesOf 4 (matchLeast f.scratch))).onFlight id fun f => { f with round := 2 }
        else s.matchAttach id (matchLeast f.scratch)

/-- A branch reports its length. -/
def State.matchReport (s : State) (f : Flight) (tag n : Nat) : State :=
  (s.onFlight f.id fun f => { f with scratch := f.scratch ++ [tag, n] }).matchNext f.id

/-- MATCH (R262, R263). -/
def execPrefixMatch (q : Fin 64) (s : State) : Out :=
  if s.mem.wiping then .next s else
  match s.prefixFlight q 0 with
  | none => .next s
  | some f =>
    let s := s.onFlight f.id fun f => { f with stage := .running }
    match s.prefixPool f with
    | (.error (.code c), s) => .next (s.failHandle f.id (f.get 16 4) c)
    | (.error e, s) => .next (s.kvFail f.id e)
    | (.ok p, s) =>
      match s.emptySeq p (f.get 24 4) with
      | .error e => .next (s.kvFail f.id e)
      | .ok _ =>
        match s.matchChain p f with
        | .error e => .next (s.kvFail f.id e)
        | .ok chain =>
          .next ((s.onFlight f.id fun f => { f with round := 1, scratch := [chain.length] ++ f.scratch }).matchNext f.id)

/-- A completion or a length comes up the fan-out tree (R32, R263). The member's own position is not used: the branch says where it
stands. -/
def State.gathered (s : State) (tag : Nat) (r : MemberReport) : State :=
  match s.branchOf tag with
  | none => s
  | some (f, b) =>
    if f.opcode = 0x14 ∧ f.get 20 1 = 0 ∧ f.stage ≠ .ended ∧ f.round ≤ 1 ∧ r.error = 0#16 then s.matchReport f tag r.result.toNat
    else s.endBranch f b r.error.toNat r.advisory.toNat r.unit r.detail

/-- FANOUT_COMPLETION (R32). -/
def execFanoutCompletion (tag : Word) (r : MemberReport) (s : State) : Out := s.fromPeer (.next (s.gathered tag.toNat r))

end Sys2Proof.Machine
end

