-- ==== Sys2Proof/Machine/Walk.lean ====
section
/-! DEFINITION. What the control cores fill in for an attention operator: the records of a batch (R241) and the page walk (R249 to R252,
R295). -/

namespace Sys2Proof.Machine

/-! ### The list under KV_LEN (R249) -/

/-- Entries at or beyond KV_LEN are holes. -/
def cutList (kvLen : Nat) (l : List PageEntry) : List PageEntry :=
  l.map fun x => if kvLen ≤ x.base then { x with page := noPage } else x

/-- Do the positions of the entries that are no holes rise strictly, each a multiple of 256? -/
def risingBases : Option Nat → List PageEntry → Bool
  | _, [] => true
  | last, x :: r =>
    if x.isHole then risingBases last r
    else decide (x.base % 256 = 0) && (match last with
      | some b => decide (b < x.base)
      | none => true) && risingBases (some x.base) r

def fillOk (kvLen : Nat) (x : PageEntry) : Bool :=
  x.isHole || (if x.base + 256 ≤ kvLen then x.fill == 256 else decide (kvLen - x.base ≤ x.fill))

/-- The list of a sequence as a walk reads it, or the breach that ends the command. -/
def State.walkList (s : State) (p : Pool) (seq kvLen : Nat) : Kv (List PageEntry) := do
  let q ← s.seq p seq
  let l ← s.pageList p q
  let l := cutList kvLen l
  if !risingBases none l then throw (.code eKvListOrder)
  else if !(l.all (fillOk kvLen)) then throw (.code eKvPageFill)
  else
    let _ ← (l.filter fun x => !x.isHole).foldlM (fun (_ : Unit) x => (s.heldPage p x.page).map fun _ => ()) ()
    pure l

/-! ### Runs (R250, R295) -/

/-- Runs of up to 16 entries. -/
def plainRuns : Nat → List PageEntry → List (List PageEntry)
  | 0, _ => []
  | n + 1, l => if l = [] then [] else l.take 16 :: plainRuns n (l.drop 16)

/-- Runs of one merge unit each, by the positions that the entries carry, holes among them. -/
def unitRuns : List PageEntry → List (List PageEntry)
  | [] => []
  | x :: r => match unitRuns r with
    | (y :: u) :: rest => if x.base / 4096 = y.base / 4096 then (x :: y :: u) :: rest else [x] :: (y :: u) :: rest
    | rest => [x] :: rest

/-- The runs of a list under KV_LEN. In invariant mode an entry at or beyond KV_LEN belongs to no unit (R300: NU units). -/
def runsOf (invariant : Bool) (kvLen : Nat) (l : List PageEntry) : List (List PageEntry) :=
  if invariant then unitRuns (l.filter fun x => decide (x.base < kvLen)) else plainRuns l.length l

/-- One run: its KV group, its KV_LEN, its entries. -/
structure Run where
  group   : Nat
  kvLen   : Nat
  entries : List PageEntry
  deriving DecidableEq, Repr

/-- Does a command walk its sequences (R250)? CIRCULATE only carries blocks for the other members. -/
def walks (f : Flight) : Bool := f.opcode == 0x10 || f.opcode == 0x11 || f.opcode == 0x15

/-- The share of the runs that the core of rank k of C takes (R295). -/
def shareOf {α : Type} (rs : List α) (k c : Nat) : List α :=
  (rs.drop (k * rs.length / c)).take ((k + 1) * rs.length / c - k * rs.length / c)

/-- New positions of one entry that records are to take, with the runs that each of those records streams. -/
structure Demand where
  entry : LenEntry
  runs  : List Run
  deriving DecidableEq, Repr

/-- The runs of every merge unit of a sequence: those of the units held here, and none for a unit whose blocks land from other members. -/
def everyUnit (kvLen : Nat) (own : List (List PageEntry)) : List (List PageEntry) :=
  (List.range (ceilDiv kvLen 4096)).map fun u => (own.find? fun r => (r.headD ⟨0, 0, 0⟩).base / 4096 == u).getD []

/-- What the records of the core of rank k of C are to take, over the entries with new positions and the KV groups of the layer in order.
In invariant mode every merge unit has records of its own; where the command circulates, the units of the other members too. Own pages never
land in slots (R281), so a command that circulates walks them as well. -/
def State.demandsFor (s : State) (p : Pool) (f : Flight) (tab : List LenEntry) (k c : Nat) : Kv (List Demand) :=
  (tab.filter fun e => e.qCount ≠ 0).foldlM (fun acc e => do
    let inv := decide (f.get 20 2 % 2 = 1)
    let own := shareOf (runsOf inv e.kvLen (← s.walkList p e.seq e.kvLen)) k c
    let runs := if inv && circulates f then everyUnit e.kvLen own else own
    let of (g : Nat) : List Demand :=
      if inv then runs.map fun r => ⟨e, [⟨g, e.kvLen, r⟩]⟩ else [⟨e, runs.map fun r => ⟨g, e.kvLen, r⟩⟩]
    pure (acc ++ ((List.range p.groups).map of).flatten)) []

/-! ### The pages of ALMANAC_SELECT (R271) -/

structure Almanac where
  pool   : Pool
  layer  : Nat
  group  : Nat
  p      : Nat
  s      : Nat
  w      : Nat
  npages : Nat
  list   : List PageEntry
  deriving DecidableEq, Repr

/-- The command's fields with its pool and list. -/
def State.almanac (s : State) (f : Flight) (p : Pool) : Kv Almanac := do
  let pp := f.get 60 2
  let ss := f.get 62 2
  let ww := f.get 64 2
  if p.layers ≤ f.get 56 2 ∨ p.groups ≤ f.get 58 1 then throw (.code eCmdBadField)
  else if pp = 0 ∨ 2048 < pp ∨ pp < ss ∨ ww = 0 ∨ pp < ww then throw (.code eAlmanacOver)
  else
    let q ← s.seq p (f.get 52 4)
    let l ← s.walkList p (f.get 52 4) q.len
    pure ⟨p, f.get 56 2, f.get 58 1, pp, ss, ww, ceilDiv q.len 256, l.filter fun x => !x.isHole⟩

/-- Ranges of STORE that hold the counts of the summaries. -/
def Almanac.needs (a : Almanac) : List (Nat × Nat) := a.list.map fun x => (a.pool.sumAt a.layer a.group x.page, 4)

/-- Is an entry forced? -/
def Almanac.forced (a : Almanac) (s : State) (x : PageEntry) : Bool :=
  let i := x.base / 256
  decide (i < a.s ∨ a.npages ≤ i + a.w ∨ x.fill < 256) ||
  natOf (s.objBytes a.pool.store (a.pool.sumAt a.layer a.group x.page) 4) != 256

/-! ### The buffers of a run

The spec leaves to the image where a core's headers and lists lie. The run's blocks go to the LIST of the core's FETCH of the same rank in
stream order among those with SRC_KIND 2 and COUNT 16, its header to the KEYS of the ATTN_KV of that rank among those whose KEYS lie in no
landing slot. `record` is the record under which that ATTN_KV runs. DESIGN CHOICE (log 101): for ALMANAC_SELECT the SCAN of that rank stands
for the ATTN_KV; its record is `record`, and the header lies 128 bytes before the ITEMS that it names. -/

structure WalkSlot where
  fetch : Nat
  pc    : Nat
  keys  : Nat
  record : Nat
  kvPc  : Nat
  deriving DecidableEq, Repr

/-- The words of a core's stream with their T1 offsets. -/
def State.streamWords (s : State) (n : Nat) : List (Nat × Nat) :=
  let g := (s.core n).eng
  (List.range g.count).map fun i => (s.t1Nat (g.base + 16 * i) 16, g.base + 16 * i)

/-- Stands for the record of an ATTN_KV before the first ATTN_CFG: an offset outside the working store. -/
def noRecord : Nat := wsBytes

/-- The ATTN_KV words of a stream, each with the record of the latest ATTN_CFG before it and its T1 offset. -/
def kvWords : Nat → List (Nat × Nat) → List (Nat × Nat × Nat)
  | _, [] => []
  | r, x :: l =>
    if opOf x.1 = 0x22 then kvWords (64 * bitsOf x.1 19 0) l
    else if opOf x.1 = 0x23 then (x.1, r, x.2) :: kvWords r l
    else kvWords r l

/-- Does an offset of core n's working store lie in a landing slot of one of these laces (R285)? -/
def State.inSlot (s : State) (ls : List Nat) (n off : Nat) : Bool :=
  ls.any fun l => [Dir.next, Dir.prev].any fun d =>
    let x := s.lace l
    (x.consumers d).testBit n && decide (x.landBase d ≤ off ∧ off < x.landBase d + 512 * x.slotUnits)

/-- The header place of a SCAN whose record lies at `r`. -/
def State.scanKeys (s : State) (n r : Nat) : Nat :=
  let items := natOf (s.ws n (r + 16) 4)
  if items ≤ 128 then noRecord else items - 128

/-- The slots of a core's stream for the runs of a command. -/
def State.walkSlots (s : State) (f : Flight) (n : Nat) : List WalkSlot :=
  let ws := s.streamWords n
  let fs := ws.filter fun x => opOf x.1 = 0x10 ∧ bitsOf x.1 37 36 = 2 ∧ bitsOf x.1 35 20 = 16
  if f.opcode = 0x15 then
    (fs.zip (ws.filter fun x => opOf x.1 = 0x25)).map fun (a, b) =>
      let r := 64 * bitsOf b.1 19 0
      ⟨a.1, a.2, s.scanKeys n r, r, b.2⟩
  else
    let ls := if circulates f then coresIn (f.get 64 1) else []
    (fs.zip ((kvWords noRecord ws).filter fun x => !s.inSlot ls n (64 * bitsOf x.1 19 0))).map fun (a, b) =>
      ⟨a.1, a.2, 64 * bitsOf b.1 19 0, b.2.1, b.2.2⟩

def WalkSlot.list (w : WalkSlot) : Nat := 64 * bitsOf w.fetch 19 0

/-- Has the instruction at a T1 offset of a core's stream completed? -/
def State.passed (s : State) (n pc : Nat) : Bool :=
  let g := (s.core n).eng
  decide (pc < g.base + 16 * g.next) &&
  (List.range 4).all fun e => (g.queueOf e).all (fun x => x.2 != pc) && (g.flyOf e).all fun i => i.pc != pc

/-- Is the credit of slot r's buffers held (R252): has every earlier FETCH of the same list, and every earlier ATTN_KV of the same header,
completed? -/
def State.bufferFree (s : State) (n : Nat) (slots : List WalkSlot) (r : Nat) : Bool :=
  match slots[r]? with
  | none => false
  | some w => (slots.take r).all fun x => (x.list != w.list || s.passed n x.pc) && (x.keys != w.keys || s.passed n x.kvPc)

/-! ### The records of a batch (R241)

Each record takes whole positions of one entry; the spec does not say which record takes which. Here a core's records, in the order in
which its stream first names them, take the batch in order. -/

/-- What a record takes: positions of an entry, and the runs for the slots of its ATTN_KVs. -/
structure RecordUse where
  record : Nat
  entry : Option LenEntry
  first : Nat
  count : Nat
  runs  : List Run
  deriving DecidableEq, Repr

/-- The records that a core's stream names. -/
def State.recordsOf (s : State) (n : Nat) : List Nat :=
  let ws := s.streamWords n
  let cfgs := (ws.filter fun x => opOf x.1 = 0x22).map fun x => 64 * bitsOf x.1 19 0
  (((kvWords noRecord ws).take 1).map (fun x => x.2.1) ++ cfgs).eraseDups

/-- M and Q_PER_POS of a record that holds a whole position. -/
def State.recordRows (s : State) (n r : Nat) : Option (Nat × Nat) :=
  let m := natOf (s.ws n (r + 8) 2)
  let q := natOf (s.ws n (r + 40) 2)
  if wsBytes ≤ r ∨ q = 0 ∨ m < q then none else some (m, q)

/-- Give demands to records: from position `j` of the first demand on. `cap`: the positions that a record holds. -/
def assign (cap : Nat → Nat) : List Nat → List Demand → Nat → List RecordUse
  | [], _, _ => []
  | r :: rs, [], _ => ⟨r, none, 0, 0, []⟩ :: assign cap rs [] 0
  | r :: rs, d :: ds, j =>
    let k := min (cap r) (d.entry.qCount - j)
    ⟨r, some d.entry, j, k, d.runs⟩ ::
      (if j + k < d.entry.qCount then assign cap rs (d :: ds) (j + k) else assign cap rs ds 0)

def State.recordUses (s : State) (n : Nat) (ds : List Demand) : List RecordUse :=
  assign (fun r => match s.recordRows n r with
    | some (m, q) => m / q
    | none => 2 ^ 32) (s.recordsOf n) ds 0

/-- Fill one record. One that holds no whole position is left as it is. -/
def State.fillRecord (s : State) (n : Nat) (u : RecordUse) : State :=
  match s.recordRows n u.record with
  | none => s
  | some (_, q) => match u.entry with
    | none => s.setWs n (u.record + 10) (bytesOf 2 0)
    | some e =>
      ((s.setWs n (u.record + 10) (bytesOf 2 (u.count * q))).setWs n (u.record + 36) (bytesOf 4 (e.kvLen - e.qCount + u.first))).setWs n
        (u.record + 44) (bytesOf 4 e.kvLen)

/-- Fill the records of every core of an attention operator. A list that breaks R249 fills none; the walk reports it. -/
def State.fillRecords (s : State) (p : Pool) (f : Flight) (tab : List LenEntry) : State :=
  f.cores.zipIdx.foldl (fun s (n, k) => match s.demandsFor p f tab k f.cores.length with
    | .error _ => s
    | .ok ds => (s.recordUses n ds).foldl (fun s u => s.fillRecord n u) s) s

/-- The run of each slot: the runs of its record in order, then runs of holes alone. `seen`: the records of the slots before. -/
def slotRuns (us : List RecordUse) : List Nat → List WalkSlot → List Run
  | _, [] => []
  | seen, w :: ws =>
    (match us.find? fun u => u.record = w.record with
    | some u => u.runs.getD (seen.count w.record) ⟨0, 0, []⟩
    | none => ⟨0, 0, []⟩) :: slotRuns us (w.record :: seen) ws

/-- The runs that ALMANAC_SELECT walks on the core of rank k of C with `n` slots: of the entries held here that are not forced, for its KV
group, then runs of holes alone. None is formed while a summary's COUNT is not resident. -/
def State.almanacRuns (s : State) (p : Pool) (f : Flight) (k c n : Nat) : Kv (List Run) := do
  let a ← s.almanac f p
  match (a.needs.map fun x => s.absent p.store x.1 x.2).flatten, a.needs.findSome? fun x => s.objPoison p.store x.1 x.2 with
  | _ :: _, _ => pure []
  | [], some w => throw (.ue w)
  | [], none =>
    let l := a.list.filter fun x => !a.forced s x
    let rs := (shareOf (plainRuns l.length l) k c).map fun r => ⟨a.group, 0, r⟩
    pure (rs ++ List.replicate (n - rs.length) ⟨a.group, 0, []⟩)

/-- The runs that the walk writes to the slots of the core of rank k of C (R241, R250, R295). -/
def State.walkPlan (s : State) (p : Pool) (f : Flight) (tab : List LenEntry) (n k c : Nat) : Kv (List Run) := do
  if f.opcode = 0x15 then s.almanacRuns p f k c (s.walkSlots f n).length
  else
    let ds ← s.demandsFor p f tab k c
    pure (slotRuns (s.recordUses n ds) [] (s.walkSlots f n))

/-- The layer that a command walks. -/
def walkLayer (f : Flight) : Nat := if f.opcode = 0x15 then f.get 56 2 else f.get 52 2

/-- The length table of a command that walks; ALMANAC_SELECT has none. -/
def State.walkTab (s : State) (f : Flight) : Kv (List LenEntry) := if f.opcode = 0x15 then .ok [] else s.lenTab f

/-! ### Writing a run (R251, R252) -/

/-- A block of `rows` rows at a STORE offset. -/
def rowsBlock (storeH off near bytes rows pitch : Nat) : List Byte :=
  bytesOf 4 storeH ++ bytesOf 4 0 ++ bytesOf 8 off ++ bytesOf 4 near ++ bytesOf 4 bytes ++ bytesOf 2 rows ++ bytesOf 2 1 ++ bytesOf 2 1 ++
    bytesOf 2 0 ++ bytesOf 6 bytes ++ List.replicate 14 0#8 ++ bytesOf 4 pitch ++ List.replicate 8 0#8

/-- A block that only zeroes bytes of the working store. -/
def holeBlock (storeH near bytes : Nat) : List Byte :=
  bytesOf 4 storeH ++ bytesOf 4 0 ++ bytesOf 8 0 ++ bytesOf 4 near ++ bytesOf 4 bytes ++ bytesOf 2 1 ++ bytesOf 2 1 ++ bytesOf 2 1 ++
    bytesOf 2 1 ++ List.replicate 32 0#8

/-- Header entry and block of entry j of a run; none is a hole. -/
def Pool.block (p : Pool) (storeH layer keys : Nat) (r : Run) (j : Nat) (x : Option PageEntry) : Nat × List Byte :=
  let near := keys + 64 + 256 * j * p.wsPitch
  match x.filter fun e => !e.isHole with
  | some e => (e.base, rowsBlock storeH (p.rowAt layer r.group e.page 0) near p.rowBytes (min 256 (r.kvLen - e.base)) p.wsPitch)
  | none => (0xFFFFFFFF, holeBlock storeH near 64)

/-- The same for ALMANAC_SELECT, whose SCANs score summaries: the block brings the summary record, and the header entry is the page's index. -/
def Pool.sumBlock (p : Pool) (storeH layer keys : Nat) (r : Run) (j : Nat) (x : Option PageEntry) : Nat × List Byte :=
  let near := keys + 64 + j * p.sumBytes
  match x with
  | some e => (e.base / 256, rowsBlock storeH (p.sumAt layer r.group e.page) near p.sumBytes 1 p.sumBytes)
  | none => (0xFFFFFFFF, holeBlock storeH near p.sumBytes)

/-- What R271 asks of the SCAN over the entries of a run, in its record: mode 0, REDUCE 1, the run's items with the header as their ids, and
K = P. A record has one item at least (R268): that of a run of holes has an id that names no page. -/
def State.fillScan (s : State) (n : Nat) (p : Pool) (k : Nat) (w : WalkSlot) (r : Run) : State :=
  let s := (s.setWs n (w.record + 10) (bytesOf 1 0)).setWs n (w.record + 14) (bytesOf 1 1)
  let s := s.setWs n (w.record + 20) (bytesOf 4 p.sumBytes ++ bytesOf 4 (max 1 r.entries.length))
  (s.setWs n (w.record + 36) (bytesOf 4 w.keys)).setWs n (w.record + 44) (bytesOf 2 k)

/-- Write run r of a core, and signal the counter that its FETCH waits on once the fence is through: the writes are to this chip, so the
fence of R120 has nothing to wait for, and its bit reads 0 again before the signal. The code is that of an increment which is refused. -/
def State.writeRun (s : State) (f : Flight) (n : Nat) (p : Pool) (storeH : Nat) (w : WalkSlot) (r : Run) : State × Option Nat :=
  let almanac := f.opcode = 0x15
  let block := if almanac then p.sumBlock else p.block
  let bs := (List.range 16).map fun j => block storeH (walkLayer f) w.keys r j r.entries[j]?
  let s := s.setWs n w.keys (bs.map fun b => bytesOf 4 b.1).flatten
  let s := s.setWs n w.list (bs.map Prod.snd).flatten
  let s := if almanac then s.fillScan n p (f.get 60 2) w r else s
  if waitEn w.fetch then s.addCore n (waitCtr w.fetch) 1 (srcWord s.chipId 1 0 0) else (s, none)

/-- Runs written for a core rank so far. -/
def walked (f : Flight) (k : Nat) : Nat := f.walked.getD k 0

/-- One run more has been written for rank k. -/
def stepWalk (k : Nat) (f : Flight) : Flight :=
  { f with walked := (List.range f.cores.length).map (fun j => walked f j + (if j = k then 1 else 0)) }

/-- Write the next run of the first core, by rank, that has one to come and whose buffer is free. A counter that refuses the walk's own
increment ends the command (R131). -/
def State.walkGo (s : State) (f : Flight) (p : Pool) (tab : List LenEntry) (storeH : Nat) : List (Nat × Nat) → Kv State
  | [] => pure s
  | (n, k) :: rest => do
    let rs ← s.walkPlan p f tab n k f.cores.length
    let slots := s.walkSlots f n
    let r := walked f k
    match rs[r]?, slots[r]? with
    | some run, some w =>
      if s.bufferFree n slots r && wsFits w.keys 64 && wsFits w.list 1024 then
        match s.writeRun f n p storeH w run with
        | (s, none) => pure (s.onFlight f.id (stepWalk k))
        | (s, some code) => pure (s.failCommand f.id code 0#32 (waitCtr w.fetch * 2 ^ 16))
      else s.walkGo f p tab storeH rest
    | _, _ => s.walkGo f p tab storeH rest

/-- WALK_RUN (R252). -/
def execWalkRun (q : Fin 64) (s : State) : Out :=
  if s.mem.wiping then .next s else
  match s.cmd.flights.find? fun f => f.queue = q.val && walks f && f.stage == .running with
  | none => .next s
  | some f =>
    match s.pool (f.get 48 4) f.id with
    | (.error code, s) => .next (s.failHandle f.id (f.get 48 4) code)
    | (.ok p, s) =>
      match (do
        let tab ← s.walkTab f
        let h ← s.metaNat p 0 4
        s.walkGo f p tab h f.cores.zipIdx : Kv State) with
      | .error e => .next (s.kvFail f.id e)
      | .ok s => .next s

end Sys2Proof.Machine
end

