-- ==== Sys2Proof/Machine/Coll.lean ====
section
/-! DEFINITION. The collective engine: ALLREDUCE, REDUCE_SCATTER, ALLGATHER and TOPK_MERGE over nested laces, their arithmetic on the wire,
signals, signatures, aborts and the census (R52 to R57, R306 to R328). -/

namespace Sys2Proof.Machine

def eColl (c : Nat) : Nat := errCode (if c = 8 ∨ c = 9 then 2 else 1) 7 c
def eCollShape : Nat := 0x11C1
def eCollMismatch : Nat := 0x11C2
def eCollEpoch : Nat := 0x11C3
def eCollTimeout : Nat := 0x11C4
def eCollIntOvf : Nat := 0x11C5
def eCollCentre : Nat := 0x11C6
def eAirHeadroom : Nat := 0x11C7
def eCollCrc : Nat := 0x21C8
def eCollLinkLost : Nat := 0x21C9

def noBytes (_ : Nat) : List Byte := []

/-! ### Elements (R308) -/

/-- Bytes of an item in memory, and of an item of the result. -/
def CollSpec.itemBytes (c : CollSpec) : Nat :=
  match c.type with
  | 0 => 4 | 1 => 2 | 2 => 8 | 3 => 192 | _ => listStride c.k

/-- A SUM of FP32 or BF16. -/
def CollSpec.floatSum (c : CollSpec) : Bool := decide (c.type ≤ 1) && c.red == 0

def CollSpec.outBytes (c : CollSpec) : Nat := if c.floatSum then (if c.outFmt = 0 then 4 else 2) else c.itemBytes

/-- Bytes of an item on the wire. -/
def CollSpec.wireBytes (c : CollSpec) : Nat :=
  if c.red = 3 then c.itemBytes
  else match c.type with
    | 3 => 48
    | 4 => 64 + 8 * c.k
    | _ => if c.floatSum then (if c.air then 8 else 4) else c.itemBytes

/-- Does a pre-pass run (R314, R315)? -/
def CollSpec.prepass (c : CollSpec) : Bool := c.red != 3 && (c.air || c.type == 3)

/-- h of R315, the shift of R55. -/
def CollSpec.shift (c : CollSpec) : Int := if c.headroom = 15 then 47 else 42

/-- The pairs of TYPE and RED_OP that an operator takes: those of the table of R308; NONE for ALLGATHER; TOPK_MERGE takes lists (R306). -/
def CollSpec.pairOk (c : CollSpec) : Bool :=
  match c.op with
  | 0x22 => c.red == 3
  | 0x23 => c.type == 4 && c.red == 4
  | _ => (decide (c.type ≤ 2) && decide (c.red ≤ 2)) || (c.type == 3 && c.red == 0) || (c.type == 4 && c.red == 4)

/-! ### AIR64 (R54 to R56) -/

/-- The biased exponent byte of an alignment block: E + 127. -/
def airByte (vs : List Word) : Nat :=
  vs.foldl (fun m w =>
    let e := w.toNat / 2 ^ 23 % 256
    if e = 255 ∨ w.toNat % 2 ^ 31 = 0 then m else Nat.max m (Nat.max e 1)) 1

def airNan : Nat := 2 ^ 63
def airPosInf : Nat := 2 ^ 63 + 1
def airNegInf : Nat := 2 ^ 63 + 2

/-- trunc(v · 2^k), toward zero. -/
def truncInt (v : Int) (k : Int) : Int :=
  if 0 ≤ k then v * 2 ^ k.toNat else Int.tdiv v (2 ^ (-k).toNat)

/-- The word of an element in a block of exponent E. -/
def airWord (h e : Int) (v : Val) : Nat :=
  match v with
  | .nan => airNan
  | .inf neg => if neg then airNegInf else airPosInf
  | .num neg m x => (truncInt (if neg then -(m : Int) else m) (x + h - e) % 2 ^ 64).toNat

def airSpecial (w : Nat) : Bool := decide (airNan ≤ w ∧ w ≤ airNegInf)

def airAdd (a b : Nat) : Nat :=
  if a = airNan ∨ b = airNan then airNan
  else if airSpecial a && airSpecial b then (if a = b then a else airNan)
  else if airSpecial a then a
  else if airSpecial b then b
  else (a + b) % 2 ^ 64

def airValue (h e : Int) (w : Nat) : Val :=
  if w = airNan then .nan
  else if w = airPosInf then .inf false
  else if w = airNegInf then .inf true
  else Val.ofInt (decodeInt 64 w) (e - h)

/-! ### Payloads -/

/-- The FP32 patterns of the items of a chunk. -/
def CollSpec.floats (c : CollSpec) (b : List Byte) : List Word :=
  (chunksOf (b.length / c.itemBytes) c.itemBytes b).map fun v => BitVec.ofNat 32 (if c.type = 1 then v * 2 ^ 16 else v)

/-- ⌊log₂ |v · 2^e|⌋, or the least 16-bit value for zero. -/
def logOf (v e : Int) : Int := if v = 0 then -32768 else (Nat.log2 v.natAbs : Int) + e

/-- What a member's own items give to the pre-pass. -/
def CollSpec.preBytes (c : CollSpec) (b : List Byte) : List Byte :=
  if c.type = 3 then
    ((blocksOf (b.length / 192) 192 b).map fun r =>
      let t := StatRec.of r
      bytesOf 2 (logOf t.sum1 t.exp1 % 2 ^ 16).toNat ++ bytesOf 2 (logOf t.sum2 t.exp2 % 2 ^ 16).toNat).flatten
  else
    let ws := c.floats b
    (blocksOf (ceilDiv ws.length 512) 512 ws).map fun l => BitVec.ofNat 8 (airByte l)

/-- E of a pre-pass value of a record: −126 where every member's sum is zero. -/
def recExp (v : Nat) : Int := let e := decodeInt 16 v; if e = -32768 then -126 else e

/-- A member's own contribution to a chunk on the wire. `exps` are the final pre-pass bytes of the chunk. -/
def CollSpec.wire (c : CollSpec) (exps b : List Byte) : List Byte :=
  if c.red = 3 then b
  else match c.type with
  | 3 =>
    (((blocksOf (b.length / 192) 192 b).zipIdx).map fun (r, i) =>
      let t := StatRec.of r
      let e1 := recExp (field exps (4 * i) 2)
      let e2 := recExp (field exps (4 * i + 2) 2)
      slice r 0 12 ++ slice r 16 1 ++ List.replicate 3 0#8 ++ bytesOf 8 (truncInt t.sum1 (t.exp1 + c.shift - e1) % 2 ^ 64).toNat ++
        bytesOf 8 (truncInt t.sum2 (t.exp2 + c.shift - e2) % 2 ^ 64).toNat ++ List.replicate 16 0#8).flatten
  | 4 => ((blocksOf (b.length / listStride c.k) (listStride c.k) b).map fun l => slice l 0 (64 + 8 * c.k)).flatten
  | _ =>
    if !c.floatSum then b
    else
      let ws := c.floats b
      if c.air then ((ws.zipIdx).map fun (w, i) =>
        bytesOf 8 (airWord c.shift ((field exps (i / 512) 1 : Int) - 127) (f32 w))).flatten
      else (ws.map fun w => bytesOf 4 w.toNat).flatten

/-- Join two payloads byte for byte in units. -/
def zipUnits (n : Nat) (f : List Byte → List Byte → Except Nat (List Byte)) (a b : List Byte) : Except Nat (List Byte) :=
  ((blocksOf (a.length / n) n a).zip (blocksOf (b.length / n) n b)).foldlM (fun acc (x, y) => do
    let z ← f x y
    pure (acc ++ z)) []

/-- The element combination of a reduction: the partial, then the own contribution. -/
def CollSpec.combine (c : CollSpec) (pre : Bool) (a b : List Byte) : Except Nat (List Byte) :=
  let maxMin (x y : Val) : Val := if c.red = 1 then Val.max x y else Val.min' x y
  if pre then
    (if c.type = 3 then zipUnits 2 (fun x y => .ok (if decodeInt 16 (natOf x) < decodeInt 16 (natOf y) then y else x)) a b
     else zipUnits 1 (fun x y => .ok (if natOf x < natOf y then y else x)) a b)
  else match c.type with
  | 0 =>
    if c.air then zipUnits 8 (fun x y => .ok (bytesOf 8 (airAdd (natOf x) (natOf y)))) a b
    else zipUnits 4 (fun x y =>
      let v := f32 (BitVec.ofNat 32 (natOf x))
      let w := f32 (BitVec.ofNat 32 (natOf y))
      .ok (bytesOf 4 (toF32 (if c.red = 0 then v.add w else maxMin v w)).toNat)) a b
  | 1 =>
    if c.red = 0 then
      (if c.air then zipUnits 8 (fun x y => .ok (bytesOf 8 (airAdd (natOf x) (natOf y)))) a b
       else zipUnits 4 (fun x y =>
        .ok (bytesOf 4 (toF32 ((f32 (BitVec.ofNat 32 (natOf x))).add (f32 (BitVec.ofNat 32 (natOf y))))).toNat)) a b)
    else zipUnits 2 (fun x y =>
      .ok (bytesOf 2 (convert .bf16 (maxMin (Fmt.bf16.value (natOf x)) (Fmt.bf16.value (natOf y)))).bits)) a b
  | 2 => zipUnits 8 (fun x y =>
      let v := decodeInt 64 (natOf x)
      let w := decodeInt 64 (natOf y)
      match c.red with
      | 0 => if -(2 : Int) ^ 63 ≤ v + w ∧ v + w < (2 : Int) ^ 63 then .ok (bytesOf 8 ((v + w) % 2 ^ 64).toNat) else .error eCollIntOvf
      | 1 => .ok (if v < w then y else x)
      | _ => .ok (if w < v then y else x)) a b
  | 3 => zipUnits 48 (fun x y =>
      let n := field x 0 8 + field y 0 8
      if 2 ^ 64 ≤ n then .error eCollIntOvf
      else if field x 8 4 ≠ field y 8 4 then .error eCollCentre
      else .ok (bytesOf 8 n ++ slice x 8 4 ++ bytesOf 1 (Nat.lor (field x 12 1) (field y 12 1)) ++ List.replicate 3 0#8 ++
        bytesOf 8 (field x 16 8 + field y 16 8) ++ bytesOf 8 (field x 24 8 + field y 24 8) ++ List.replicate 16 0#8)) a b
  | _ => zipUnits (64 + 8 * c.k) (fun x y =>
      let n := field x 0 4
      let m := field y 0 4
      let l := keepBest c.k [] (hitsOf x (min n c.k) ++ hitsOf y (min m c.k))
      .ok (bytesOf 4 (min c.k (n + m)) ++ slice x 4 60 ++ hitBytes c.k l)) a b

/-- What a final payload writes (R56, R313 to R316). -/
def CollSpec.result (c : CollSpec) (exps b : List Byte) : List Byte :=
  let out (v : Val) : List Byte := if c.outFmt = 0 then bytesOf 4 (toF32 v).toNat else bytesOf 2 (convert .bf16 v).bits
  if c.red = 3 then b
  else if c.floatSum then
    (if c.air then ((chunksOf (b.length / 8) 8 b).zipIdx.map fun (w, i) =>
        out (airValue c.shift ((field exps (i / 512) 1 : Int) - 127) w)).flatten
     else ((chunksOf (b.length / 4) 4 b).map fun w => out (f32 (BitVec.ofNat 32 w))).flatten)
  else match c.type with
    | 3 => (((blocksOf (b.length / 48) 48 b).zipIdx).map fun (r, i) =>
        let fl := field r 12 1
        StatRec.bytes
          { count := field r 0 8, centre := BitVec.ofNat 32 (field r 8 4), centred := fl / 8 % 2 = 1, flags := fl % 8,
            exp1 := recExp (field exps (4 * i) 2) - c.shift, exp2 := recExp (field exps (4 * i + 2) 2) - c.shift,
            sum1 := decodeInt 64 (field r 16 8), sum2 := field r 24 8 }).flatten
    | 4 => ((blocksOf (b.length / (64 + 8 * c.k)) (64 + 8 * c.k) b).map fun l =>
        l ++ List.replicate (listStride c.k - (64 + 8 * c.k)) 0#8).flatten
    | _ => b

/-! ### Chunks and levels (R309 to R312) -/

def CollSpec.chunks (c : CollSpec) : Nat := ceilDiv c.count c.chunk
def CollSpec.itemsOf (c : CollSpec) (i : Nat) : Nat := min c.chunk (c.count - i * c.chunk)

def CollRun.level (r : CollRun) (j : Nat) : CollLevel := r.levels.getD (j - 1) ⟨[], 1⟩
def CollRun.top (r : CollRun) : Nat := r.levels.length

/-- The chunks that this member holds at level j; at level L + 1 those that it keeps. -/
def CollRun.shard (r : CollRun) (j : Nat) : List Nat := r.shards.getD (j - 1) []

/-- Index of chunk c at level j, and its rank among the chunks kept. -/
def CollRun.index (r : CollRun) (j c : Nat) : Nat := (r.shard j).idxOf c

/-- Does this member hold chunk c at level j: has it kept it through the levels below? -/
def CollRun.holds (r : CollRun) (j c : Nat) : Bool := (r.shard j).contains c

/-- The lace of a level that carries the chunk of index k: by k's rank under SPREAD (R311). -/
def CollLevel.lace (v : CollLevel) (k : Nat) : Nat := v.laces.getD (k % Nat.max v.laces.length 1) 0

def CollRun.laceOf (r : CollRun) (j c : Nat) : Nat := (r.level j).lace (r.index j c)

/-- The level that a lace carries. -/
def CollRun.levelOf (r : CollRun) (l : Nat) : Nat := r.levels.findIdx (fun v => v.laces.contains l) + 1

/-- COLL_ERR_INFO beside its code: the lace, and its level less 1 (R327). -/
def CollRun.errMore (r : CollRun) (l : Nat) : Nat := l * 2 ^ 16 + (r.levelOf l - 1) * 2 ^ 19

/-- The shards of the levels: level j keeps the chunks whose index there, modulo its size, is this member's position on their lace. -/
def State.shardsOf (s : State) : List CollLevel → List Nat → List (List Nat)
  | [], cs => [cs]
  | v :: vs, cs =>
    cs :: s.shardsOf vs ((cs.zipIdx.filter fun x => x.2 % v.size == (s.lace (v.lace x.2)).pos).map Prod.fst)

def State.collPos (s : State) (r : CollRun) (j c : Nat) : Nat := (s.lace (r.laceOf j c)).pos

/-- Where the gather lap of chunk c at level j begins. -/
def CollRun.gatherAt (r : CollRun) (pre : Bool) (j c : Nat) : Nat :=
  if !pre && r.spec.bcast && j == r.top then r.spec.root else r.index j c % (r.level j).size

/-- Where its reduce lap begins. -/
def CollRun.reduceAt (r : CollRun) (j c : Nat) : Nat := (r.index j c + 1) % (r.level j).size

/-- Chunks whose results this member writes, ascending. -/
def CollRun.targets (r : CollRun) : List Nat := if r.spec.op = 0x21 then r.shard (r.top + 1) else List.range r.spec.chunks

/-- Bytes from the start of the tensor in memory to chunk c of the source and of the result: kept chunks are packed in ascending order. -/
def CollRun.srcOff (r : CollRun) (c : Nat) : Nat :=
  (if r.spec.op = 0x22 ∧ !r.spec.bcast then r.index (r.top + 1) c else c) * r.spec.chunk * r.spec.itemBytes

def CollRun.dstOff (r : CollRun) (c : Nat) : Nat :=
  (if r.spec.op = 0x21 then r.index (r.top + 1) c else c) * r.spec.chunk * r.spec.outBytes

/-! ### The run in State -/

def State.collFlight? (s : State) (id : Nat) : Option CollRun := s.coll.runs.find? fun r => r.flight = id

def State.onColl (s : State) (id : Nat) (g : CollRun → CollRun) : State :=
  { s with coll := { s.coll with runs := s.coll.runs.map fun r => if r.flight = id then g r else r } }

/-- Put a chunk on the list of those that are ready to leave. -/
def State.collQueue (s : State) (id lap level chunk : Nat) (payload : List Byte) : State :=
  s.onColl id fun r => { r with sends := r.sends ++ [⟨r.batch, lap, level, chunk, payload⟩] }

/-- An error of class 1 that the engine detects on a lace: every lace of the collective is aborted (R325). `ctr` is the counter that refused
an increment: SYNC_ERR_INFO holds its index (R134). -/
def State.collFail (s : State) (id code lace : Nat) (ctr : Option Nat := none) : State :=
  match s.collFlight? id with
  | none => s.failCommand id code 0#32
  | some r =>
    let s := s.onColl id fun r => { r with state := 1 }
    (s.ownAbort r.laces code lace).failCommand id code (BitVec.ofNat 32 (s.lace lace).pos) (match ctr with
      | some i => i * 2 ^ 16
      | none => r.errMore lace)

/-- The bytes of chunk c of this member's own source. -/
def State.collSource (s : State) (r : CollRun) (c : Nat) : Option (List Byte) × State :=
  let n := r.spec.itemsOf c * r.spec.itemBytes
  match r.spec.inl with
  | some b => (some (slice b (r.srcOff c) n), s)
  | none =>
    if r.spec.srcT1 then s.readT1 (r.spec.src + r.srcOff c) n (some r.flight)
    else (some (s.t0 (r.spec.src + r.srcOff c) n), s)

def collKey (pre : Bool) (level chunk : Nat) : Nat := ((if pre then 8 else 0) + level) * 2 ^ 41 + chunk

/-- Is this member's contribution to chunk c at level j at hand? -/
def CollRun.hasOwn (r : CollRun) (pre : Bool) (j c : Nat) : Bool :=
  if j = 1 then pre || !r.spec.prepass || look noBytes r.exps c != [] else look noBytes r.held (collKey pre j c) != []

/-- This member's contribution to chunk c at level j. -/
def State.collOwn (s : State) (r : CollRun) (pre : Bool) (j c : Nat) : Option (List Byte) × State :=
  if j ≠ 1 then (some (look noBytes r.held (collKey pre j c)), s)
  else match s.collSource r c with
    | (none, s) => (none, s)
    | (some b, s) => (some (if pre then r.spec.preBytes b else r.spec.wire (look noBytes r.exps c) b), s)

/-- Signal the chunks that are written, in ascending order (R319). -/
def State.collSignal : Nat → State → Nat → State
  | 0, s, _ => s
  | n + 1, s, id =>
    match s.collFlight? id with
    | none => s
    | some r =>
      match (r.targets)[r.signals]? with
      | none => s
      | some c =>
        if !look (fun _ => false) r.written c then s
        else
          let s := s.onColl id fun r => { r with signals := r.signals + 1 }
          let src := srcWord s.chipId 3 0 0
          let (s, err) := (coresIn r.spec.consumers).foldl (fun ((s, err) : State × Option Nat) k =>
            match err, s.addCore k r.spec.doneCtr 1 src with
            | none, (s', none) => (s', none)
            | none, (_, some code) => (s, some code)
            | some code, _ => (s, some code)) (s, none)
          let ctr := if err.isSome then r.spec.doneCtr else r.spec.doneCc
          let (s, err) := if r.spec.doneCc = 0xFFFF ∨ err.isSome then (s, err) else s.addChip r.spec.doneCc 1 src
          match err with
          | some code => s.collFail id code (r.laceOf 1 c) (some ctr)
          | none => State.collSignal n s id

/-- Write the result of chunk c. -/
def State.collWrite (s : State) (id c : Nat) (payload : List Byte) : State :=
  match s.collFlight? id with
  | none => s
  | some r =>
    let b := r.spec.result (look noBytes r.exps c) payload
    let s := if r.spec.inl.isSome then s.onColl id fun r => { r with outs := store noBytes r.outs c b }
      else if r.spec.dstT1 then s.setT1 (r.spec.dst + r.dstOff c) b
      else s.setT0 (r.spec.dst + r.dstOff c) b
    let s := s.onColl id fun r => { r with written := store (fun _ => false) r.written c true, writes := r.writes + 1 }
    if r.spec.inl.isSome then s else s.collSignal r.spec.chunks id

/-! ### The path of a chunk (R310, R312, R314) -/

/-- What has come about for a chunk on this member: its contribution at a level stands, its reduce lap at a level has ended here, or its
final value at a level has come (`arrived`: over the lace). -/
inductive CollTask where
  | give (pre : Bool) (level chunk : Nat) (payload : List Byte)
  | reduced (pre : Bool) (level chunk : Nat) (payload : List Byte)
  | final (pre : Bool) (level chunk : Nat) (payload : List Byte) (arrived : Bool)

/-- Queue the gather laps that begin here below level j. -/
def State.gatherDown : Nat → State → Nat → Bool → Nat → List Byte → State
  | 0, s, _, _, _, _ => s
  | j + 1, s, id, pre, c, b =>
    match s.collFlight? id with
    | none => s
    | some r =>
      let s := if (r.level (j + 1)).size = 1 then s else s.collQueue id (if pre then 3 else 2) (j + 1) c b
      State.gatherDown j s id pre c b

def State.collRunTask : Nat → State → Nat → CollTask → State
  | 0, s, _, _ => s
  | n + 1, s, id, t =>
    match s.collFlight? id with
    | none => s
    | some r =>
      match t with
      | .give pre j c b =>
        let s := if j = 1 then s else s.onColl id fun r => { r with held := store noBytes r.held (collKey pre j c) b }
        if (r.level j).size = 1 then State.collRunTask n s id (.reduced pre j c b)
        else if s.collPos r j c = r.reduceAt j c then s.collQueue id (if pre then 0 else 1) j c b else s
      | .reduced pre j c b =>
        if j < r.top then State.collRunTask n s id (.give pre (j + 1) c b)
        else if !pre && r.spec.op == 0x21 then s.collWrite id c b
        else State.collRunTask n s id (.final pre j c b false)
      | .final pre j c b arrived =>
        let next := (s.collPos r j c + 1) % (r.level j).size
        let goes := if arrived then next != r.gatherAt pre j c else (r.level j).size != 1
        let s := if goes then s.collQueue id (if pre then 3 else 2) j c b else s
        let s := s.gatherDown (j - 1) id pre c b
        if pre then
          let s := s.onColl id fun r => { r with exps := store noBytes r.exps c b }
          let starts := (r.level 1).size = 1 ∨ s.collPos r 1 c = r.reduceAt 1 c
          if ¬ starts then s
          else match s.collFlight? id with
            | none => s
            | some r => match s.collOwn r false 1 c with
              | (none, s) => s
              | (some own, s) => State.collRunTask n s id (.give false 1 c own)
        else s.collWrite id c b

/-- Steps that one event can cause for a chunk. -/
def collFuel : Nat := 40

/-- Begin chunk c at this member: the first contribution of a reduction, or the source of a gather. -/
def State.collBegin (s : State) (id c : Nat) : State :=
  match s.collFlight? id with
  | none => s
  | some r =>
    if r.spec.op = 0x22 then
      let j := r.top
      if !(r.holds j c && s.collPos r j c == r.gatherAt false j c) then s
      else match s.collSource r c with
        | (none, s) => s
        | (some b, s) => State.collRunTask collFuel s id (.final false j c (r.spec.wire [] b) false)
    else
      let pre := r.spec.prepass
      if (r.level 1).size ≠ 1 ∧ s.collPos r 1 c ≠ r.reduceAt 1 c then s
      else match s.collOwn r pre 1 c with
        | (none, s) => s
        | (some b, s) => State.collRunTask collFuel s id (.give pre 1 c b)

/-! ### End of a collective -/

/-- The result of an inner collective. -/
def CollRun.gathered (r : CollRun) : List Byte := ((List.range r.spec.chunks).map fun c => look noBytes r.outs c).flatten

/-- Is every buffer of a lace free but those of chunks that wait for the next collective? -/
def State.bufsFree (s : State) (l : Nat) : Bool := decide (look noCount s.coll.bufs l ≤ (look (fun _ => []) s.coll.early l).length)

/-- A collective whose chunks have all come, gone and been written, and whose forwards have been acknowledged, is over on this chip. -/
def State.collSettle (s : State) (id : Nat) : State :=
  match s.collFlight? id with
  | none => s
  | some r =>
    if r.state ≠ 0 ∨ r.laces.any (fun l => look noCount r.owed l != 0) = true ∨ r.sends ≠ [] ∨ r.writes ≠ r.targets.length ∨
      r.laces.all s.bufsFree = false then s
    else
      let s := { s with coll := { s.coll with runs := s.coll.runs.filter fun q => q.flight ≠ id } }
      if r.spec.inl.isSome then { s with coll := { s.coll with results := s.coll.results ++ [(id, r.gathered)] } }
      else s.onFlight id Flight.finish

/-! ### Mismatch and census (R324) -/

/-- The lowest lace of a command that has the level's group: the chip at a position of a lace. -/
def State.laceChip (s : State) (r : CollRun) (l pos : Nat) : Nat :=
  match s.group? r.spec.group with
  | none => 0xFFFFF
  | some g =>
    match ((s.chain g).reverse.zip r.levels).find? fun x => x.2.laces.contains l with
    | none => 0xFFFFF
    | some (h, _) => unitId (s.member h pos)

def State.sendCensus (s : State) (l : Nat) (f : CensusFlit) : State := s.send (.census l f)

/-- The census of a collective begins on the lace where a mismatch was found: the member stops sending, its abort goes on every lace, and
position 0 sends the flit. `came`: the lace that the abort came in on. -/
def State.beginCensus (s : State) (r : CollRun) (l : Fin 6) (det : BitVec 20) (sig : Dword) (sender : BitVec 20) (came : Option Nat) : State :=
  let s := s.onColl r.flight fun r => { r with state := 2, sends := [], detect := some (det.toNat, sig.toNat, sender.toNat) }
  let s := s.sendCollAbort r.laces (.mismatch l det sig sender) came
  if (s.lace l).pos = 0 then s.sendCensus l ⟨BitVec.ofNat 64 r.sig, none, false⟩ else s

/-- The end of a census on a member: FIRST is recorded and the collective ends. -/
def State.endCensus (s : State) (r : CollRun) (l : Nat) (first : BitVec 20 × BitVec 20) : State :=
  let (det, sig, _) := r.detect.getD (0, 0, 0)
  let s := s.setReg (pageColl + 0x48) (BitVec.ofNat 32 first.1.toNat)
  let s := s.setReg (pageColl + 0x4C) (BitVec.ofNat 32 first.2.toNat)
  let s := s.setReg (pageColl + 0x50) (BitVec.ofNat 32 det)
  let s := s.setReg (pageColl + 0x58) (BitVec.ofNat 32 sig)
  let s := s.setReg (pageColl + 0x5C) (BitVec.ofNat 32 (sig / 2 ^ 32))
  s.failCommand r.flight eCollMismatch (BitVec.ofNat 32 first.1.toNat) (r.errMore l)

/-- FIRST where every signature agrees with position 0's: the sender of the chunk that was detected. -/
def State.censusFirst (s : State) (r : CollRun) (l : Nat) (f : CensusFlit) : BitVec 20 × BitVec 20 :=
  match f.first with
  | some x => x
  | none =>
    let (_, _, sender) := r.detect.getD (0, 0, 0)
    (BitVec.ofNat 20 sender, BitVec.ofNat 20 (s.laceChip r l sender))

/-- A census flit at a member that has entered. -/
def State.takeCensus (s : State) (r : CollRun) (l : Nat) (f : CensusFlit) : State :=
  let pos := (s.lace l).pos
  if pos = 0 then
    let first := s.censusFirst r l f
    if f.closing then s.endCensus r l first else s.sendCensus l { f with closing := true, first := some first }
  else if f.closing then (s.sendCensus l f).endCensus r l (s.censusFirst r l f)
  else
    let differs := f.first.isNone && f.sig != BitVec.ofNat 64 r.sig
    s.sendCensus l (if differs then { f with first := some (BitVec.ofNat 20 pos, BitVec.ofNat 20 s.chipId) } else f)

/-! ### Chunks that arrive (R310, R317, R323) -/

def State.collCredits (s : State) (l : Nat) : Nat := look noCount s.coll.credits l
def State.setCredits (s : State) (l n : Nat) : State := { s with coll := { s.coll with credits := store noCount s.coll.credits l n } }
def State.earlyOf (s : State) (l : Nat) : List CollEarly := look (fun _ => []) s.coll.early l
def State.setEarly (s : State) (l : Nat) (x : List CollEarly) : State :=
  { s with coll := { s.coll with early := store (fun _ => []) s.coll.early l x } }

/-- The chunk of the whole tensor that a header names on a lace. -/
def CollRun.chunkOf (r : CollRun) (l : Nat) (h : ChunkHdr) : Option Nat :=
  let j := h.level.toNat
  if j = 0 ∨ r.top < j ∨ (r.level j).lace h.chunk.toNat ≠ l then none else (r.shard j)[h.chunk.toNat]?

/-- Is the chunk on the gather lap here? -/
def State.onGather (s : State) (r : CollRun) (h : ChunkHdr) (c : Nat) : Bool :=
  let j := h.level.toNat
  match h.lap.toNat with
  | 0 => s.collPos r j c == r.reduceAt j c || look (fun _ => false) r.passed (collKey true j c)
  | 1 => false
  | _ => true

/-- Can the chunk be taken now: has it the own contribution it needs? -/
def State.chunkReady (s : State) (r : CollRun) (h : ChunkHdr) (c : Nat) : Bool :=
  s.onGather r h c || r.hasOwn (h.lap == 0#8) h.level.toNat c

/-- Grant a credit upstream, under the signature of the collective. -/
def State.grantCredit (s : State) (r : CollRun) (l : Nat) : State := s.laceCredit l .next 9 r.sig

/-- A buffer of a lace is free: its credit returns. -/
def State.freeBuffer (s : State) (r : CollRun) (l : Nat) : State :=
  { s with coll := { s.coll with bufs := modify noCount s.coll.bufs l (· - 1) } }.grantCredit r l

/-- A forward has been acknowledged: the buffer of the chunk it forwarded is free (R317). -/
def State.forwardAcked (s : State) (id l : Nat) : State :=
  match s.collFlight? id with
  | none => s
  | some r => (s.freeBuffer r l).collSettle id

/-- Does the sum formed at the end of a reduce lap go on over the same lace, on the gather lap that begins there? -/
def CollRun.goesOn (r : CollRun) (pre : Bool) (j : Nat) : Bool := decide (j = r.top) && (pre || r.spec.op != 0x21)

/-- Take a chunk that has passed its checks. Its buffer is free at once where it has no forward to wait for (R317). -/
def State.takeChunk (s : State) (r : CollRun) (l : Nat) (e : CollEarly) (c : Nat) : State :=
  let id := r.flight
  let j := e.header.level.toNat
  let pre := e.header.lap == 0#8
  let s := s.onColl id fun r => { r with owed := modify noCount r.owed l (· - 1) }
  if s.onGather r e.header c then
    let last := (s.collPos r j c + 1) % (r.level j).size = r.gatherAt pre j c
    let s := if last then s.freeBuffer r l else s
    State.collRunTask collFuel s id (.final pre j c e.payload true)
  else
    match s.collOwn r pre j c with
    | (none, s) => s
    | (some own, s) =>
      match r.spec.combine pre e.payload own with
      | .error code => s.collFail id code l
      | .ok b =>
        let s := if pre then s.onColl id fun r => { r with passed := store (fun _ => false) r.passed (collKey true j c) true } else s
        if s.collPos r j c = r.index j c % (r.level j).size then
          State.collRunTask collFuel (if r.goesOn pre j then s else s.freeBuffer r l) id (.reduced pre j c b)
        else s.collQueue id (if pre then 0 else 1) j c b

/-- The checks of R323, in order, then the chunk is taken or kept until it can be. A chunk of the next collective on the lace waits for
it. -/
def State.offerChunk (s : State) (r : CollRun) (l : Fin 6) (e : CollEarly) : State :=
  let h := e.header
  if crc32c (chunkBytes h ++ e.payload) ≠ e.crc then s.class2 eCollCrc (r.errMore l) (some r.flight)
  else if h.epoch ≠ (s.lace l).epoch then s.collFail r.flight eCollEpoch l
  else if h.seq.toNat = (look noCount r.seqs l + 1) % 2 ^ 32 then s.setEarly l (s.earlyOf l ++ [e])
  else if h.sig.toNat ≠ r.sig ∨ h.seq.toNat ≠ look noCount r.seqs l % 2 ^ 32 then
    s.beginCensus r l (BitVec.ofNat 20 (s.lace l).pos) h.sig h.sender none
  else match r.chunkOf l h with
    | none => s
    | some c => if s.chunkReady r h c then s.takeChunk r l e c else s.setEarly l (s.earlyOf l ++ [e])
where
  /-- The 64 bytes of a chunk header (R322). -/
  chunkBytes (h : ChunkHdr) : List Byte :=
    bytesOf 8 h.sig.toNat ++ bytesOf 4 h.seq.toNat ++ bytesOf 4 h.chunk.toNat ++ bytesOf 1 h.lap.toNat ++ bytesOf 1 h.level.toNat ++
    bytesOf 2 0 ++ bytesOf 4 h.sender.toNat ++ bytesOf 4 h.payload.toNat ++ bytesOf 4 h.epoch.toNat ++ List.replicate 32 0#8

/-- Offer every chunk that waits on a lace again. -/
def State.offerEarly (s : State) (id : Nat) (l : Fin 6) : State :=
  let es := s.earlyOf l
  es.foldl (fun s e => match s.collFlight? id with
    | some r => if r.state = 0 ∧ r.laces.contains l.val then s.offerChunk r l e else s
    | none => s) (s.setEarly l [])

/-- Offer waiting chunks on every lace of a collective until nothing more can be taken. -/
def State.collPump : Nat → State → Nat → State
  | 0, s, _ => s
  | n + 1, s, id =>
    match s.collFlight? id with
    | none => s
    | some r =>
      let s' := r.laces.foldl (fun s l => if h : l < 6 then s.offerEarly id ⟨l, h⟩ else s) s
      let left (s : State) : Nat := (r.laces.map fun l => (s.earlyOf l).length).sum
      if left s' < left s then State.collPump n s' id else s'

/-- Chunks that may wait in the buffers of a collective. -/
def earlyFuel : Nat := 64

/-- A chunk takes a buffer. -/
def State.takeBuffer (s : State) (l : Nat) : State :=
  { s.bump (pageColl + 0xC4 + 8 * l) with coll := { s.coll with bufs := modify noCount s.coll.bufs l (· + 1) } }

/-- COLL_CHUNK (R310, R323). During a device discard one for an aborted lace is dropped (R443). A ninth chunk was sent without a credit,
and has no buffer to land in. -/
def execCollChunk (l : Fin 6) (h : ChunkHdr) (payload : List Byte) (crc : Word) (s : State) : Out :=
  if (s.disc.busy && s.disc.collLaces.contains l.val) || !s.heard (s.laceIn l .next) || decide (8 ≤ look noCount s.coll.bufs l) then
    .next s
  else
  let s := s.takeBuffer l
  let e : CollEarly := ⟨h, payload, crc⟩
  match s.collRun? l with
  | none => .next (s.setEarly l (s.earlyOf l ++ [e]))
  | some r =>
    if r.state ≠ 0 then .next s
    else
      let s := s.onColl r.flight fun r => { r with batch := r.batch + 1 }
      match s.collFlight? r.flight with
      | none => .next s
      | some r => .next ((State.collPump earlyFuel (s.offerChunk r l e) r.flight).collSettle r.flight)

/-! ### Sending (R311, R317, R318, R322) -/

/-- The order of sends: as they became ready, then reduce lap before gather lap, then lower chunk first (R311). -/
def CollSend.before (x y : CollSend) : Bool :=
  decide (x.batch < y.batch) || (x.batch == y.batch &&
    (decide (x.lap / 2 < y.lap / 2) || (x.lap / 2 == y.lap / 2 && decide (x.chunk < y.chunk))))

/-- The next chunk to leave on a lace. -/
def CollRun.nextSend (r : CollRun) (l : Nat) : Option CollSend :=
  let ys := r.sends.filter fun x => r.laceOf x.level x.chunk = l
  ys.find? fun x => ys.all fun y => !y.before x

def State.chunkHeader (s : State) (r : CollRun) (l : Nat) (x : CollSend) : List Byte :=
  State.offerChunk.chunkBytes
    { sig := BitVec.ofNat 64 r.sig, seq := BitVec.ofNat 32 (look noCount r.seqs l), chunk := BitVec.ofNat 32 (r.index x.level x.chunk),
      lap := BitVec.ofNat 8 (if x.lap = 3 then 0 else x.lap), level := BitVec.ofNat 8 x.level,
      sender := BitVec.ofNat 20 (s.lace l).pos, payload := BitVec.ofNat 32 x.payload.length, epoch := (s.lace l).epoch }

/-- Is the send a forward, which frees the buffer of the chunk it forwards? A gather lap that begins where the reduce lap ended forwards the
chunk whose sum was formed there. -/
def State.isForward (s : State) (r : CollRun) (x : CollSend) : Bool :=
  let pos := s.collPos r x.level x.chunk
  if x.lap ≤ 1 then pos != r.reduceAt x.level x.chunk
  else pos != r.gatherAt (x.lap == 3) x.level x.chunk || (r.spec.op != 0x22 && x.level == r.top)

/-- CHUNK_SEND: a ready chunk leaves against a credit. No row of the table brings the acknowledgement of a forward: it is taken from the frame
acknowledgement that covers the message's last frame. -/
def execChunkSend (l : Fin 6) (s : State) : Out :=
  match s.collRun? l with
  | none => .next s
  | some r =>
    if r.state ≠ 0 ∨ s.collCredits l = 0 ∨ s.disc.busy ∨ s.fatal then .next s
    else match r.nextSend l with
    | none => .next s
    | some x =>
      let s := s.setCredits l (s.collCredits l - 1)
      let s := s.sendLace l .next 2 (if s.isForward r x then (l + 1, r.flight) else (0, 0)) (s.chunkHeader r l x) x.payload
      let s := s.bump (pageColl + 0xC0 + 8 * l)
      .next ((s.onColl r.flight fun r => { r with sends := r.sends.erase x }).collSettle r.flight)

/-- COLL_CREDIT (R317): at most eight are held. -/
def execCollCredit (l : Fin 6) (s : State) : Out :=
  if s.hearsControl (s.laceOut l .next) then .next (s.setCredits l (min 8 (s.collCredits l + 1))) else .next s

/-! ### Entering a collective (R307, R312, R320, R321) -/

/-- The levels of a command's group, innermost first, or none where a level has no lace of its member count, or a subgroup of a level, under
whichever branch, has another MEMBER_COUNT than this chip's own (R312). -/
def State.collLevels (s : State) (g : Group) (spread : Bool) : Option (List CollLevel) :=
  let c := (s.chain g).reverse
  let ls := c.map fun h => CollLevel.mk (s.levelLaces h spread) h.members
  let ok := c.all fun h =>
    decide (h.lace < 6) && (s.levelLaces h spread).all fun l => (s.lace l).valid && (s.lace l).members == h.members
  let same := ((s.chain g).zipIdx).all fun x => (List.range x.1.members).all fun i =>
    let u := s.member x.1 i
    let inner := (s.chain g).drop (x.2 + 1)
    if unitKind u = 1 then
      inner != [] && ((inner.head?.map Group.id) == some (unitId u) || Config.groupSizes (unitId u) == inner.map Group.members)
    else inner == []
  if ok && same && decide (ls.length ≤ 4) && ls.all (fun v => v.laces != []) then some ls else none

/-- The parameters of a collective command. -/
def collSpec (f : Flight) : CollSpec :=
  let fl := f.get 22 1
  let t := f.get 16 1
  let red := f.get 17 1
  let mode := f.get 18 1
  let air := decide (t ≤ 1) && red == 0 && (mode == 1 || fl.testBit 1)
  { op := f.opcode, type := t, red := red, air := air, mode := mode, headroom := f.get 19 1, count := f.get 24 8, chunk := f.get 32 4,
    k := f.get 20 2, srcT1 := f.get 40 8 / 2 ^ 42 % 4 = 1, src := f.get 40 8 % 2 ^ 42, dstT1 := f.get 48 8 / 2 ^ 42 % 4 = 1,
    dst := f.get 48 8 % 2 ^ 42, outFmt := f.get 23 1, root := f.get 36 4, bcast := fl.testBit 0, flags := fl, doneCtr := f.get 56 1,
    consumers := f.get 57 1, doneCc := f.get 58 2, group := f.group, inl := none }

/-- The ranges of R307 to R309. -/
def CollSpec.rangesOk (c : CollSpec) (topSize : Nat) : Bool :=
  decide (c.type ≤ 4 ∧ c.mode ≤ 1 ∧ (c.headroom = 15 ∨ c.headroom = 20) ∧ 1 ≤ c.count ∧ c.count ≤ 2 ^ 40 ∧ 1 ≤ c.chunk ∧
    c.outFmt ≤ 1 ∧ c.doneCtr < 96 ∧ (c.doneCc < 4096 ∨ c.doneCc = 0xFFFF) ∧ c.flags < 8) &&
  c.pairOk && (c.type != 4 || decide (1 ≤ c.k ∧ c.k ≤ 4096)) && (3 ≤ c.type || c.chunk % 512 == 0) &&
  decide (c.chunk * c.wireBytes ≤ 2 ^ 18) && (if c.bcast then c.op == 0x22 && decide (c.root < topSize) else true)

/-- A source or result on this chip, with its bytes. -/
def State.collAddrOk (_s : State) (a n : Nat) : Bool :=
  decide (a / 2 ^ 44 = 0xFFFFF ∧ a / 2 ^ 42 % 4 ≤ 1 ∧ a % 2 ^ 42 + n ≤ tierBytes (a / 2 ^ 42 % 4))

/-- Bytes of the source and of the result on this member. -/
def State.collSizes (s : State) (r : CollRun) : Nat × Nat :=
  let c := r.spec
  let mine := (List.range c.chunks).filter fun i => r.holds (r.top + 1) i
  let items (l : List Nat) : Nat := (l.map c.itemsOf).sum
  (if c.op = 0x22 then (if c.bcast then (if s.collPos r r.top 0 = c.root then c.count else 0) else items mine) * c.itemBytes
   else c.count * c.itemBytes,
   (if c.op = 0x21 then items mine else c.count) * c.outBytes)

/-- R320. -/
def overlapOk (c : CollSpec) (sizes : Nat × Nat) : Bool :=
  c.srcT1 != c.dstT1 || decide (sizes.1 = 0 ∨ sizes.2 = 0 ∨ c.src + sizes.1 ≤ c.dst ∨ c.dst + sizes.2 ≤ c.src) ||
  (c.op == 0x20 && c.src == c.dst)

/-- The 64-byte block of R321. -/
def sigBlock (c : CollSpec) (levels : List CollLevel) (seq : Nat) : List Byte :=
  bytesOf 1 c.op ++ bytesOf 1 c.type ++ bytesOf 1 c.red ++ bytesOf 1 ((if c.air then 1 else 0) + 2 * c.headroom) ++ bytesOf 4 c.group ++
  bytesOf 8 c.count ++ bytesOf 4 c.chunk ++ bytesOf 2 c.k ++ bytesOf 1 c.flags ++ bytesOf 1 levels.length ++ bytesOf 4 c.root ++
  bytesOf 4 c.outFmt ++ bytesOf 8 seq ++
  ((List.range 4).map fun i => bytesOf 4 ((levels[i]?).elim 0 CollLevel.size)).flatten ++ List.replicate 8 0#8

/-- Chunks that are to arrive here on a lace. -/
def State.collOwed (s : State) (r : CollRun) (l : Nat) : Nat :=
  let laps (pre : Bool) (c j : Nat) : Nat :=
    let n := (r.level j).size
    let pos := s.collPos r j c
    if n = 1 ∨ !r.holds j c ∨ r.laceOf j c ≠ l then 0
    else (if !pre && r.spec.op == 0x22 then 0 else if pos = r.reduceAt j c then 0 else 1) +
      (if !pre && r.spec.op == 0x21 then 0 else if pos = r.gatherAt pre j c then 0 else 1)
  ((List.range r.spec.chunks).map fun c =>
    ((List.range r.top).map fun i => laps false c (i + 1) + (if r.spec.prepass then laps true c (i + 1) else 0)).sum).sum

/-- What stops a collective at its start. -/
def State.collCode (s : State) (r : CollRun) (a b : Nat) : Option Nat :=
  let c := r.spec
  let sizes := s.collSizes r
  if !c.rangesOk (r.level r.top).size then some eCollShape
  else if c.inl.isNone ∧ !(s.collAddrOk a sizes.1 && s.collAddrOk b sizes.2 && overlapOk c sizes) then some eCollShape
  else if c.air ∧ c.headroom = 15 ∧ 32768 < r.levels.foldl (fun a v => a * v.size) 1 then some eAirHeadroom
  else if c.type = 3 ∧ c.red = 0 ∧ c.headroom = 15 ∧ 32768 < r.levels.foldl (fun a v => a * v.size) 1 then some eAirHeadroom
  else none

/-- A collective that ends before it has entered: the group's other members are told (R325). -/
def State.collRefuse (s : State) (id code : Nat) (g : Group) (levels : Option (List CollLevel)) : State :=
  let ls := match levels with
    | some vs => ((vs.map CollLevel.laces).flatten).eraseDups
    | none => (((s.chain g).map Group.lace).filter fun l => decide (l < 6) && (s.lace l).valid).eraseDups
  let lv := (s.chain g).length
  (s.ownAbort ls code g.lace).failCommand id code (BitVec.ofNat 32 (s.lace g.lace).pos)
    (g.lace % 8 * 2 ^ 16 + (lv - 1) % 4 * 2 ^ 19)

/-- An abort that came before a collective was entered ends it, or makes it go into its census, as it enters. -/
def State.deadAbort (s : State) (r : CollRun) (a : CollAbort) (came : Nat) : State :=
  match a with
  | .mismatch l det sig sender => s.beginCensus r l det sig sender (some came)
  | .error code pos chip =>
    let s := (s.setReg (pageColl + 0x48) (BitVec.ofNat 32 pos.toNat)).setReg (pageColl + 0x4C) (BitVec.ofNat 32 chip.toNat)
    let s := s.onColl r.flight fun r => { r with state := 1 }
    (s.sendCollAbort r.laces a (some came)).endCommand r.flight code.toNat (BitVec.ofNat 32 pos.toNat)

/-- A member enters a collective for which census flits have come: each goes on, and one that already names FIRST to all ends the collective
here too (R324). -/
def State.passHeld (s : State) (r : CollRun) : State :=
  r.laces.foldl (fun s l => match look (fun _ => none) s.coll.flit l with
    | none => s
    | some f =>
      let s := { s with coll := { s.coll with flit := store (fun _ => none) s.coll.flit l none } }
      match s.collFlight? r.flight with
      | none => s
      | some r => if f.closing then s.endCensus r l (s.censusFirst r l f) else s.takeCensus r l f) s

/-- The collective that a flight enters, with its signature (R321), what each lace is to bring and each lace's SEQ. -/
def State.newColl (s : State) (id : Nat) (c : CollSpec) (g : Group) (levels : List CollLevel) : CollRun :=
  let seq := look noCount s.coll.seq g.lace
  let r : CollRun :=
    { flight := id, spec := c, levels := levels, shards := s.shardsOf levels (List.range c.chunks), batch := 0,
      sig := field (sha256 (sigBlock c levels seq)) 0 8, seqs := [], held := [], exps := [], passed := [], sends := [], written := [],
      signals := 0, writes := 0, owed := [], outs := [], state := 0, detect := none }
  { r with
    owed := r.laces.foldl (fun t l => store noCount t l (s.collOwed r l)) []
    seqs := r.laces.foldl (fun t l => store noCount t l (look noCount s.coll.seq l)) [] }

/-- Enter a collective for a flight: its laces are taken, their COLL_SEQ counts it, eight credits go upstream on each lace, what waits
there is taken, and every chunk that begins here begins. -/
def State.collEnter (s : State) (id : Nat) (c : CollSpec) (a b : Nat) : State :=
  match s.group? c.group with
  | none => s.failCommand id eGroupEpoch 0#32
  | some g =>
    match s.collLevels g (c.flags.testBit 2) with
    | none => s.collRefuse id eCollShape g none
    | some levels =>
      let r := s.newColl id c g levels
      match s.collCode r a b with
      | some code => s.collRefuse id code g (some levels)
      | none =>
        let dead := r.laces.findSome? fun l => (look (fun _ => none) s.coll.dead l).map fun d => (l, d)
        let s := { s with coll := { s.coll with
          runs := s.coll.runs ++ [r]
          seq := r.laces.foldl (fun t l => modify noCount t l (· + 1)) s.coll.seq
          sig := r.laces.foldl (fun t l => store noCount t l r.sig) s.coll.sig
          dead := r.laces.foldl (fun t l => store (fun _ => none) t l none) s.coll.dead
          copies := r.laces.foldl (fun t l => store noCount t l 0) s.coll.copies } }
        let s := r.laces.foldl (fun s l => s.clearNotes l [10, 11, 12, 13, 14]) s
        match dead with
        | some (l, a) => (s.deadAbort r a l).passHeld r
        | none =>
          let s := r.laces.foldl (fun s l => (List.range 8).foldl (fun s _ => s.grantCredit r l) s) s
          let s := s.passHeld r
          let s := (List.range c.chunks).foldl (fun s i => s.collBegin id i) s
          (State.collPump earlyFuel s id).collSettle id

/-- A collective command. -/
def State.collCommand (s : State) (q op : Nat) : State :=
  if s.mem.wiping then s else
  match s.flightAt q op .started with
  | none => s
  | some f =>
    let s := s.onFlight f.id fun f => { f with stage := .running }
    s.collEnter f.id (collSpec f) (f.get 40 8) (f.get 48 8)

/-- ALLREDUCE (R306). -/
def execAllreduce (q : Fin 64) (s : State) : Out := .next (s.collCommand q 0x20)
/-- REDUCE_SCATTER (R306). -/
def execReduceScatter (q : Fin 64) (s : State) : Out := .next (s.collCommand q 0x21)
/-- ALLGATHER (R306). -/
def execAllgather (q : Fin 64) (s : State) : Out := .next (s.collCommand q 0x22)
/-- TOPK_MERGE (R306, R316). -/
def execTopkMerge (q : Fin 64) (s : State) : Out := .next (s.collCommand q 0x23)

/-! ### Aborts, census and timeouts (R324, R325) -/

/-- COLL_ABORT: forwarded once on every lace of the collective. One that comes before this chip has entered is forwarded on its own lace, and
kept for the next collective there. -/
def execCollAbort (l : Fin 6) (a : CollAbort) (s : State) : Out :=
  if !(s.hearsControl (s.laceOut l .next) || s.hearsControl (s.laceOut l .prev)) then .next s else
  match takeCopy s.coll.copies l, s.collRun? l with
  | some t, _ => .next { s with coll := { s.coll with copies := t } }
  | none, none =>
    let s := s.sendCollAbort [l] a (some l)
    .next { s with coll := { s.coll with
      early := store (fun _ => []) s.coll.early l []
      bufs := store noCount s.coll.bufs l 0
      dead := store (fun _ => none) s.coll.dead l (some a) } }
  | none, some r => if r.state ≠ 0 then .next s else .next (s.deadAbort r a l)

/-- CENSUS (R324): a member that has not entered holds the flit. The one that names FIRST to all goes on at once, and is kept for its entry. -/
def execCensus (l : Fin 6) (f : CensusFlit) (s : State) : Out :=
  if !s.hearsControl (s.laceIn l .next) then .next s else
  match s.collRun? l with
  | some r => .next (s.takeCensus r l f)
  | none =>
    let s := if f.closing then s.sendCensus l f else s
    .next { s with coll := { s.coll with flit := store (fun _ => none) s.coll.flit l (some f) } }

/-- CENSUS_WAIT_TIMEOUT (R324): the flit goes on, naming this member where FIRST is unset. -/
def execCensusWaitTimeout (l : Fin 6) (s : State) : Out :=
  match look (fun _ => none) s.coll.flit l with
  | none => .next s
  | some f =>
    if (s.stg (pageColl + 0x100)).toNat % 2 ^ 16 = 0 ∨ f.closing ∨ s.fatal then .next s
    else
      let s := { s with coll := { s.coll with flit := store (fun _ => none) s.coll.flit l none } }
      .next (s.sendCensus l { f with first := some (f.first.getD (BitVec.ofNat 20 (s.lace l).pos, BitVec.ofNat 20 s.chipId)) })

/-- COLL_TIMEOUT (R325): a lace that still expects a chunk. -/
def execCollTimeout (l : Fin 6) (s : State) : Out :=
  match s.collRun? l with
  | none => .next s
  | some r =>
    if r.state ≠ 0 ∨ look noCount r.owed l = 0 ∨ (s.stg (pageColl + 0x100)).toNat % 2 ^ 16 = 0 ∨ s.fatal then .next s
    else .next (s.collFail r.flight eCollTimeout l)

end Sys2Proof.Machine
end

