-- ==== Sys2Proof/Machine/Almanac.lean ====
section
/-! DEFINITION. Collectives that an operator runs inside itself, and ALMANAC_SELECT (R265 to R271, R306, R398). -/

namespace Sys2Proof.Machine

/-! ### Inner collectives

Their parameters, apart from those the rules give, are this model's: CHUNK is 512 elements, or one list. A command without group scope
is a group of one. -/

def innerSpec (f : Flight) (op type red count k : Nat) (src : List Byte) : CollSpec :=
  { op := op, type := type, red := red, air := false, mode := 0, headroom := 15, count := count, chunk := if type = 2 then 512 else 1,
    k := k, srcT1 := false, src := 0, dstT1 := false, dst := 0, outFmt := 0, root := 0, bcast := false, flags := 0, doneCtr := 0,
    consumers := 0, doneCc := 0xFFFF, group := f.group, inl := some src }

/-- Are the laces of the command's group free for an inner collective (R317)? -/
def State.innerFree (s : State) (f : Flight) : Bool :=
  !f.scope || (match s.group? f.group with
    | none => true
    | some g => (s.chain g).all fun h => (s.levelLaces h false).all fun l => !s.collHeld l)

/-- Start an inner collective. -/
def State.inner (s : State) (f : Flight) (op type red count k : Nat) (src : List Byte) : State :=
  if f.scope then s.collEnter f.id (innerSpec f op type red count k src) 0 0
  else { s with coll := { s.coll with results := s.coll.results ++ [(f.id, src)] } }

/-- Take the result of an inner collective. -/
def State.innerTake (s : State) (id : Nat) : Option (List Byte × State) :=
  (s.coll.results.find? fun r => r.1 = id).map fun r =>
    (r.2, { s with coll := { s.coll with results := s.coll.results.filter fun x => x.1 ≠ id } })

/-- A list of R269 with its header, padded to its stride. -/
def listBytes (k : Nat) (l : List Hit) : List Byte :=
  bytesOf 4 l.length ++ List.replicate 60 0#8 ++ hitBytes k l ++ List.replicate (listStride k - (64 + 8 * k)) 0#8

def State.setRound (s : State) (id n : Nat) : State := s.onFlight id fun f => { f with round := n }

/-- Put the step a command has reached and what it has worked out into its flight. -/
def State.advance (s : State) (id n : Nat) (scratch : List Nat) : State :=
  s.onFlight id fun f => { f with round := n, scratch := scratch }

/-! ### ALMANAC_SELECT (R271) -/

/-- Write the selected entries, or halt at a frame of OUT that is not resident. -/
def State.writeSelection (s : State) (id : Nat) (f : Flight) (l : List PageEntry) : State :=
  let off := f.get 80 8
  if f.get 76 4 < l.length then s.failCommand id eKvListFull 0#32
  else match s.checkRange (f.get 72 4) off (off + 16 * l.length) true (some id) with
    | (.error code, s) => s.failHandle id (f.get 72 4) code
    | (.ok e, s) =>
      match s.absent e off (16 * l.length) with
      | item :: _ => s.haltMove id e item
      | [] =>
        let s := s.setObj e off (l.map PageEntry.bytes).flatten
        s.onFlight id fun f => { f.finish with result := l.length }

/-- One step of the procedure of R271. Steps: 0 the forced pages are counted, 1 their group sum is awaited, 2 the cores' candidates are,
3 the merged list is. -/
def State.almanacStep (s : State) (f : Flight) (a : Almanac) : State :=
  let id := f.id
  let forced := a.list.filter (a.forced s)
  match f.round with
  | 0 => if s.innerFree f then (s.setRound id 1).inner f 0x20 2 0 1 0 (bytesOf 8 forced.length) else s
  | 1 =>
    match s.innerTake id with
    | none => s
    | some (b, s) =>
      let n := natOf (b.take 8)
      if a.npages ≤ a.p then s.advance id 4 [n]
      else if a.p < n then s.failCommand id eAlmanacOver 0#32
      else s.advance id 2 [n]
  | 2 =>
    if !(s.coresOf id).isEmpty || !s.innerFree f then s
    else
      let k := a.p - f.scratch.headD 0
      if k = 0 then s.setRound id 5
      else
        let others := (a.list.filter fun x => !a.forced s x).map fun x => x.base / 256
        let cand := keepBest a.p [] (f.lists.flatten.filter fun h => others.contains h.id.toNat)
        (s.setRound id 3).inner f 0x23 4 4 1 k (listBytes k (cand.take k))
  | 3 =>
    match s.innerTake id with
    | none => s
    | some (b, s) =>
      let top := (hitsOf b (field b 0 4)).map fun h => h.id.toNat
      s.onFlight id fun f => { f with round := 5, lists := [], scratch := f.scratch ++ top }
  | 4 => if (s.coresOf id).isEmpty then s.writeSelection id f a.list else s
  | _ =>
    let top := f.scratch.drop 1
    s.writeSelection id f (a.list.filter fun x => a.forced s x || top.contains (x.base / 256))

/-- Go on while a step changes the command. -/
def State.almanacGo : Nat → State → Nat → Pool → State
  | 0, s, _, _ => s
  | n + 1, s, id, p =>
    match s.flight? id with
    | none => s
    | some f =>
      if f.stage ≠ .running ∨ f.halted.isSome then s
      else match s.almanac f p with
      | .error e => s.kvFail id e
      | .ok a =>
        match (a.needs.map fun x => s.absent p.store x.1 x.2).flatten with
        | item :: _ => s.haltMove id p.store item
        | [] =>
          match a.needs.findSome? fun x => s.objPoison p.store x.1 x.2 with
          | some w => s.reportUe w (some id)
          | none =>
            let t := s.almanacStep f a
            if (t.flight? id).map Flight.round = some f.round then t else State.almanacGo n t id p

/-- ALMANAC_SELECT (R271): it goes on as its cores and its inner collectives end. -/
def execAlmanacSelect (q : Fin 64) (s : State) : Out :=
  if s.mem.wiping then .next s else
  match s.cmd.flights.find? fun f => f.queue = q.val && f.opcode = 0x15 && f.stage != .ended with
  | none => .next s
  | some f =>
    let s := if f.stage = .started then s.runCores f else s
    match s.pool (f.get 48 4) f.id with
    | (.error code, s) => .next (s.failHandle f.id (f.get 48 4) code)
    | (.ok p, s) => .next (State.almanacGo 8 s f.id p)

end Sys2Proof.Machine
end

