-- ==== Sys2Proof/Machine/CoreFlow.lean ====
section
/-! DEFINITION. The flow of a core program: dispatch and phases, the common instructions, the signals and the on-chip ring,
completion, the watchdog, power gating and the per-core reset (R76 to R96, R102 to R107, R117, R524). -/

namespace Sys2Proof.Machine

/-- DISPATCH (R80, R92). -/
def execDispatch (c : Fin 8) (s : State) : Out := .next (if s.dispatchReady c then s.dispatchStep c else s)

/-- PHASE_ENTER (R88). -/
def execPhaseEnter (c : Fin 8) (s : State) : Out := .next (if s.coreLive c then s.phaseStep c else s)

/-- NOP (R95). -/
def execNop (c : Fin 8) (e : Engine) (s : State) : Out := .next (s.issue c e.idx 0x00 noCheck noEffect)

/-- What a CTR_ADD does to its counter (R101, R116): the new state, and the code where it is refused. -/
def State.ctrAdd (s : State) (n e w : Nat) : State × Option Nat :=
  let i := bitsOf w 6 0
  let a := decodeInt 24 (bitsOf w 31 8)
  let v := s.coreCtr n i
  if 0 ≤ a then
    match raised (decide (96 ≤ i)) v a.toNat with
    | .error code => (s, some code)
    | .ok v => ((s.setCoreCtr n i v).noteLast (coreKey n i) (srcWord s.chipId 0 n e) a.toNat, none)
  else if i < 96 then (s, some (eCore n 4))
  else if v < a.natAbs then (s, some (eCore n 3))
  else (s.setCoreCtr n i (v - a.natAbs), none)

/-- CTR_ADD (R95, R115, R116). -/
def execCtrAdd (c : Fin 8) (e : Engine) (s : State) : Out :=
  .next (s.issue c e.idx 0x01 noCheck fun w pc _ s =>
    match s.ctrAdd c e.idx w with
    | (s, none) => s
    | (s, some code) => s.failIssued c e.idx code pc (if code / 0x40 % 0x40 = 4 then bitsOf w 6 0 * 2 ^ 16 else 0))

/-- HALT (R93). -/
def execHalt (c : Fin 8) (e : Engine) (s : State) : Out :=
  .next (s.issue c e.idx 0x02 noCheck fun _ _ _ s =>
    s.onEng c fun g => { g with halted := Nat.lor g.halted (2 ^ e.idx) })

/-- SET_OUTSTANDING (R208). The dispatcher lets it into the fetch and the put queue only (R95). -/
def execSetOutstanding (c : Fin 8) (e : Engine) (s : State) : Out :=
  .next (s.issue c e.idx 0x03 noCheck fun w _ _ s =>
    s.onEng c fun g =>
      if e = .fetch then { g with limitFetch := bitsOf w 8 0 } else { g with limitPut := bitsOf w 8 0 })

/-- Give the instruction just issued the tags it waits for. -/
def State.owe (s : State) (n e iid : Nat) (tags : List Nat) : State :=
  s.onEng n fun g => g.onFly e fun l => l.map fun i => if i.iid = iid then { i with owed := i.owed ++ tags } else i

/-- FENCE (R84, R96): it owes every AWL_PUT of the queue not yet acknowledged. -/
def execFence (c : Fin 8) (s : State) : Out :=
  .next (s.issue c 3 0x33 noCheck fun _ _ iid s => s.owe c 3 iid (s.core c).eng.awls)

/-- SIG_REMOTE's counter, as an index into the counters of its kind: chip counter, or core and counter. -/
structure SigTarget where
  chip    : Nat
  onCore  : Bool
  index   : Nat
  amount  : Nat

def SigTarget.of (w : Nat) : SigTarget := ⟨bitsOf w 19 0, bitsOf w 20 20 = 1, bitsOf w 32 21, bitsOf w 56 33⟩

/-- Core and counter of a KIND 1 index. -/
def sigCore (index : Nat) : Nat := index % 8
def sigCounter (index : Nat) : Nat := index / 8

/-- An increment lands at a counter of this chip (R113, R117). -/
def State.landSignal (s : State) (onCore : Bool) (index amount src : Nat) : State × Option Nat :=
  if onCore then s.addCore (sigCore index) (sigCounter index) amount src else s.addChip index amount src

/-- The counter's index as SYNC_ERR_INFO holds it. -/
def sigInfo (onCore : Bool) (index : Nat) : Nat := (if onCore then sigCounter index else index) % 2 ^ 12 * 2 ^ 16

def sigRemoteCheck (w : Nat) (s : State) : Option Nat :=
  let t := SigTarget.of w
  if 0xFFFC0 ≤ t.chip ∧ t.chip < 0xFFFFF then some eAddrChipRsvd
  else if !s.routed t.chip then some eAddrUnrouted
  else none

/-- SIG_REMOTE (R96): it waits for the earlier PUTs and RING_SENDs of its queue, and for its earlier FENCEs, which stand between an AWL_PUT
and the signal that announces it. At its own chip the increment lands at once. -/
def execSigRemote (c : Fin 8) (s : State) : Out :=
  .next (s.issue c 3 0x34 (fun w => sigRemoteCheck w) fun w pc iid s =>
    let t := SigTarget.of w
    if s.isSelf t.chip then
      match s.landSignal t.onCore t.index t.amount (srcWord s.chipId 0 c 3) with
      | (s, none) => s
      | (s, some code) => s.failIssued c 3 code pc (sigInfo t.onCore t.index)
    else
      match s.request (.signal c iid) 0x03 t.chip (bitsOf w 32 20 * 2 ^ 20) 0 t.amount [] none with
      | (s, some tag) => s.owe c 3 iid [tag]
      | (s, none) => s.failIssued c 3 eAddrUnrouted pc)

structure RingSend where
  src   : Nat
  dcore : Nat
  dst   : Nat
  len   : Nat
  dctr  : Nat
  dsig  : Bool

def RingSend.of (w : Nat) : RingSend :=
  { src := 64 * bitsOf w 19 0, dcore := bitsOf w 22 20, dst := 64 * bitsOf w 42 23, len := 64 * bitsOf w 62 43,
    dctr := bitsOf w 69 63, dsig := bitsOf w 70 70 = 1 }

/-- RING_SEND (R95, R524): the copy, then the signal at the receiving core, whose refusal ends the request (R117, R131). One that signals
waits for the earlier FENCEs of its queue, as SIG_REMOTE does (R96, R112). -/
def execRingSend (c : Fin 8) (s : State) : Out :=
  .next (s.issue c 3 0x31
    (fun w _ => let r := RingSend.of w; if wsFits r.src r.len && wsFits r.dst r.len then none else some (eCore c 6))
    fun w pc _ s =>
      let r := RingSend.of w
      let s := s.setWs r.dcore r.dst (s.ws c r.src r.len)
      if !r.dsig then s
      else match s.addCore r.dcore r.dctr 1 (srcWord s.chipId 0 c 3) with
        | (s, none) => s
        | (s, some code) => s.failIssued c 3 code pc (r.dctr * 2 ^ 16))

/-- INSTRUCTION_COMPLETE (R83, R84). -/
def execInstructionComplete (c : Fin 8) (e : Engine) (s : State) : Out := s.live (.next (s.completeStep c e.idx))

/-- CORE_HANG (R101, R102): the core stops, and reports once its issued transfers have finished. The spec names no failing instruction, so the
engine and the offset recorded are free values. -/
def execCoreHang (c : Fin 8) (s : State) : Out :=
  let g := (s.core c).eng
  if s.fatal || g.flight.isNone || g.broken || g.failed.isSome || (s.reg (pageCore c + 0x50)).toNat % 2 ^ 24 == 0 then .next s
  else
    let (v, s) := s.draw
    let s := s.coreFail c (v.toNat % 4) (eCore c 2) (v.toNat / 4 % 2 ^ 42)
    .next (match g.flight with
      | some id => s.settle id
      | none => s)

/-- CORE_POWER_GATE (R76): an idle core, GATE_DIS clear. -/
def execCorePowerGate (c : Fin 8) (s : State) : Out :=
  let g := (s.core c).eng
  if s.fatal || g.flight.isSome || g.gated || g.resetting || s.coreCtrl c 1 then .next s
  else .next ((s.onEng c fun g => { g with gated := true }).onPlane c Plane.invalidate)

/-- CORE_WAKE (R75, R76): a gated core that has been given work, or whose GATE_DIS is set. -/
def execCoreWake (c : Fin 8) (s : State) : Out :=
  let g := (s.core c).eng
  if !s.fatal && g.gated && (g.flight.isSome || s.coreCtrl c 1) then
    .next ((s.onEng c fun g => { g with gated := false }).onPlane c Plane.invalidate)
  else .next s

/-- A write of CORE_RESET (R105, R106): queues, counters, plane, banks and tally store are cleared; written while the core runs it
raises CORE_RESET_LIVE. -/
def State.coreReset (s : State) (n : Nat) : State :=
  if (s.core n).eng.resetting || s.fatal then s else
  let s := match (s.core n).eng.flight with
    | some _ => (s.onEng n fun g => { g with fly := [] }).coreClass2 n (eCore n 8)
    | none => s
  let s := s.onCore n fun k => { k with
    eng := { Engines.reset with resetting := true, nextIid := k.eng.nextIid, acts := k.eng.acts },
    plane := { k.plane.invalidate with active := false }, vcfg := none, rows := [], scan := ⟨[], false⟩, ctr := [] }
  s.setReg (pageCore n + 8) (s.reg (pageCore n + 8) ||| 1#32)

def execCoreReset (c : Fin 8) (s : State) : Out := .next (s.coreReset c)

/-- Clear the whole working store of a core. -/
def State.wipeWs (s : State) (n : Nat) : State :=
  { s with mem := { s.mem with t0 := restrict (fun k => decide (k < n * wsBytes ∨ (n + 1) * wsBytes ≤ k)) s.mem.t0 } }

/-- CORE_RESET_END (R106): the wipe is over, and CORE_RESET reads 0. -/
def execCoreResetEnd (c : Fin 8) (s : State) : Out :=
  if !(s.core c).eng.resetting || s.fatal then .next s
  else
    let s := (s.wipeWs c).onEng c fun g => { g with resetting := false }
    .next (s.setReg (pageCore c + 8) (s.reg (pageCore c + 8) &&& ~~~1#32))

/-- CORE_RESUME (R104). -/
def State.coreResume (s : State) (n : Nat) : State :=
  if (s.core n).eng.broken && !s.fatal then s.onEng n fun g => { g with broken := false } else s

def execCoreResume (c : Fin 8) (s : State) : Out := .next (s.coreResume c)

end Sys2Proof.Machine
end

