-- ==== Sys2Proof/Machine/Merge.lean ====
section
/-! DEFINITION. The merge unit of the circulation engine: welt merge, the lace-mode tree and the invariant tree (R63, R297 to R302). -/

namespace Sys2Proof.Machine

/-! ### Errors of the circulation engine (R303) -/

def eCirc (code : Nat) : Nat := errCode (if code = 8 ∨ code = 9 then 2 else 1) 6 code
def eCircLandMismatch : Nat := 0x1182
def eCircSeq : Nat := 0x1183
def eCircTimeout : Nat := 0x1184
def eCircCredit : Nat := 0x1185
def eCircEpoch : Nat := 0x1186
def eCircLeafDup : Nat := 0x1187
def eCircBlockCrc : Nat := 0x2188
def eCircLinkLost : Nat := 0x2189

/-- An error of the engine on a lace and direction, with the position and the SEQNO that it concerns (R304): CIRC_ERR_POS and CIRC_ERR_SEQ
go with the first code of CIRC_ERR_INFO. -/
def State.circFail (s : State) (id : Option Nat) (code lace dir pos seq : Nat) : State :=
  let more := lace * 2 ^ 16 + dir * 2 ^ 19
  let s := if (s.reg (pageCirc + 0x44)).toNat % 2 ^ 16 = 0 then
      (s.setReg (pageCirc + 0x48) (BitVec.ofNat 32 (pos % 2 ^ 20))).setReg (pageCirc + 0x4C) (BitVec.ofNat 32 seq)
    else s
  match id with
  | none => (s.recordCode code more).logError code 0 false 0#32
  | some id => if errClass code = 2 then s.class2 code more (some id) else s.failCommand id code (BitVec.ofNat 32 pos) more

/-! ### Partials (R63, R237, R297) -/

structure Part where
  m : Word
  l : Word
  o : List Word
  deriving DecidableEq, Repr

def Part.identity (dv : Nat) : Part := ⟨negInf32, 0#32, List.replicate dv 0#32⟩

def partBytes (dv : Nat) : Nat := 64 + 4 * dv

def Part.of (dv : Nat) (b : List Byte) : Part :=
  ⟨BitVec.ofNat 32 (field b 0 4), BitVec.ofNat 32 (field b 4 4), (chunksOf dv 4 (slice b 64 (4 * dv))).map (BitVec.ofNat 32)⟩

def Part.bytes (p : Part) : List Byte :=
  bytesOf 4 p.m.toNat ++ bytesOf 4 p.l.toNat ++ List.replicate 56 0#8 ++ (p.o.map fun w => bytesOf 4 w.toNat).flatten

def Part.isIdentity (p : Part) : Bool := p.m == negInf32 && (f32 p.l).isZero

/-- Welt merge, `a` covering the lower positions. -/
def weltMerge (a b : Part) : Part :=
  if a.isIdentity then b
  else if b.isIdentity then a
  else if (f32 a.m).isNan || (f32 b.m).isNan then ⟨nan32, nan32, a.o.map fun _ => nan32⟩
  else
    let m := Val.max (f32 a.m) (f32 b.m)
    let x := expDiff (f32 a.m) m
    let y := expDiff (f32 b.m) m
    let mix (u v : Word) : Word := toF32 ((rne ((f32 u).mul x)).add (rne ((f32 v).mul y)))
    ⟨toF32 m, mix a.l b.l, (a.o.zip b.o).map fun p => mix p.1 p.2⟩

/-- Merge neighbours. -/
def mergePairs : List Part → List Part
  | a :: b :: r => weltMerge a b :: mergePairs r
  | l => l

/-- The root of a tree of `n` levels over its leaves in order. -/
def mergeTree (dv : Nat) : Nat → List Part → Part
  | 0, l => l.headD (Part.identity dv)
  | n + 1, l => mergeTree dv n (mergePairs l)

/-- The levels of a tree over `n` leaves: log2 of the smallest power of two at or above n. -/
def treeLevels (n : Nat) : Nat := if n ≤ 1 then 0 else Nat.log2 (n - 1) + 1

/-- `n` leaves filled up with identities. -/
def fullLeaves (dv : Nat) (l : List Part) : List Part :=
  l ++ List.replicate (2 ^ treeLevels l.length - l.length) (Part.identity dv)

/-! ### A merge and its areas (R298) -/

def MergeRun.pb (r : MergeRun) : Nat := partBytes r.dv

/-- Entries of area A. -/
def MergeRun.entries (r : MergeRun) : Nat := if !r.invariant then 8 else if r.prefill then r.units else r.held.length

/-- Rows that member p owns in invariant mode (R300). -/
def MergeRun.owned (r : MergeRun) (p : Nat) : Nat × Nat := (p * r.nq / r.size, (p + 1) * r.nq / r.size)

/-- Bytes of MERGE that the areas take. -/
def MergeRun.need (r : MergeRun) : Nat :=
  let a := r.entries * r.nq * r.pb
  let own := let (lo, hi) := r.owned r.pos; hi - lo
  if !r.invariant then a + r.nq * r.pb else if r.prefill then a else a + r.units * own * r.pb

/-- T1 offset of row `row` of entry e of area A. -/
def State.areaA (s : State) (r : MergeRun) (e row : Nat) : Nat := (s.entry r.obj).t1Base + (e * r.nq + row) * r.pb

/-- T1 offset of area B. -/
def State.areaB (s : State) (r : MergeRun) : Nat := (s.entry r.obj).t1Base + r.entries * r.nq * r.pb

/-- The partial that a core has written. -/
def State.partialOf (s : State) (r : MergeRun) (e row : Nat) : Part := Part.of r.dv (s.t1 (s.areaA r e row) r.pb)

def noNode (_ : Nat) : List Byte := []

/-- A row of the node, in bytes. -/
def MergeRun.row (r : MergeRun) (i : Nat) : List Byte := look noNode r.node i
def MergeRun.part (r : MergeRun) (i : Nat) : Part := Part.of r.dv (r.row i)
def MergeRun.rows (r : MergeRun) (lo hi : Nat) : List Byte := ((List.range (hi - lo)).map fun i => r.row (lo + i)).flatten

def State.merge? (s : State) (id : Nat) : Option MergeRun := s.circ.merges.find? fun r => r.flight = id

def State.onMerge (s : State) (id : Nat) (g : MergeRun → MergeRun) : State :=
  { s with circ := { s.circ with merges := s.circ.merges.map fun r => if r.flight = id then g r else r } }

/-- Rows merged (MERGE_CNT). One merge of two operands of a row counts 1. -/
def State.countMerged (s : State) (n : Nat) : State := s.bump (pageCirc + 0x50) n

/-! ### Merge exchanges on the links (R290, R356, R357, R360)

The spec gives a merge exchange virtual channel 3, a header flit with its link word, and a way by the route table; the other bytes of its
header, the chip that stands at a position, and how rows are cut into messages are this model's. A message that is injected leaves only
against credits for two of its length, of the 256 of the channel, so it carries at most 127 flits of rows. -/

/-- A merge exchange's header: TAG, kind (0 the pre-fold, 1 a level, 2 a leaf, 3 an end marker), level or unit, sender, first row, bytes. -/
def mergeHeader (tag kind index sender lo len : Nat) : List Byte :=
  bytesOf 4 tag ++ bytesOf 4 kind ++ bytesOf 4 index ++ bytesOf 4 sender ++ bytesOf 4 lo ++ bytesOf 4 len ++ List.replicate 40 0#8

/-- Rows that one message carries. -/
def MergeRun.perMsg (r : MergeRun) : Nat := Nat.max 1 (127 * 64 / Nat.max r.pb 1)

/-- The chip at a position: the member at that place of the command's group. -/
def State.mergeChip (s : State) (r : MergeRun) (pos : Nat) : Option Nat := (s.group? r.group).map fun g => s.memberChip g pos

/-- Send one message toward a position. Without a way to it the command ends (R370). -/
def State.mergeMsg (s : State) (r : MergeRun) (pos kind index lo : Nat) (data : List Byte) : State :=
  let n := 1 + ceilDiv data.length 64
  match s.mergeChip r pos with
  | none => s.failCommand r.flight eAddrUnrouted 0#32
  | some chip =>
    match s.route s.chipId chip with
    | none => s.failCommand r.flight eAddrUnrouted (BitVec.ofNat 32 chip)
    | some p => s.transmit p ⟨3, 0, r.tag, s.chipId, 2, n,
        flitsOf (withLinkWord (mergeHeader r.tag kind index r.pos lo data.length) chip s.chipId n) ++ flitsOf data, none⟩

/-- Send rows [lo, lo + n) of bytes `data` to a position, or an end marker where there are none to send. -/
def State.sendMerge (s : State) (r : MergeRun) (pos kind index lo : Nat) (data : List Byte) : State :=
  if kind = 3 then s.mergeMsg r pos 3 0 0 []
  else
    let k := r.perMsg
    (List.range (ceilDiv (data.length / Nat.max r.pb 1) k)).foldl (fun s i =>
      s.mergeMsg r pos kind index (lo + i * k) (slice data (i * k * r.pb) (min (k * r.pb) (data.length - i * k * r.pb)))) s

/-! ### The lace-mode tree (R299) -/

/-- The largest power of two at or below the member count. -/
def MergeRun.p2 (r : MergeRun) : Nat := 2 ^ Nat.log2 r.size
def MergeRun.levels (r : MergeRun) : Nat := Nat.log2 r.size

/-- This member's partner at level j. -/
def MergeRun.partner (r : MergeRun) (j : Nat) : Nat := Nat.xor r.pos (2 ^ j)

def MergeRun.mid (r : MergeRun) : Nat := r.lo + ceilDiv (r.hi - r.lo) 2

/-- Begin level j: send the half that the partner keeps, or be ready to end after the last level. -/
def State.mergeLevel (s : State) (r : MergeRun) (j : Nat) : State :=
  if r.levels ≤ j then s.onMerge r.flight fun r => { r with phase := 200 }
  else
    let q := r.partner j
    let mid := r.mid
    let low := decide (r.pos < q)
    let s := if low then s.sendMerge r q 1 j mid (r.rows mid r.hi) else s.sendMerge r q 1 j r.lo (r.rows r.lo mid)
    s.onMerge r.flight fun r =>
      { r with
        phase := 2 + j
        lo := if low then r.lo else mid
        hi := if low then mid else r.hi }

/-- Is this a piece of the exchange of kind k in the present pass? A pre-fold of the next pass may be here already. -/
def MergeRun.isPiece (r : MergeRun) (k : MergeKind) (x : MergeIn) : Bool := x.kind == some k && (k != .prefold || x.pass == r.pass)

/-- The pass of a pre-fold piece that arrives: each pass brings each row once. -/
def MergeRun.prefoldPass (r : MergeRun) (lo : Nat) : Nat :=
  (if r.phase ≤ 1 then r.pass else r.pass + 1) + (r.recv.filter fun y => y.kind == some .prefold && y.lo == lo).length

/-- Bytes of row k among arrived pieces of one exchange. -/
def MergeRun.rowIn (r : MergeRun) (xs : List MergeIn) (k : Nat) : Option (List Byte) :=
  (xs.find? fun x => decide (x.lo ≤ k ∧ (k - x.lo + 1) * r.pb ≤ x.data.length)).map fun x => slice x.data ((k - x.lo) * r.pb) r.pb

/-- Put merged rows into the kept range of the node; the pieces of the exchange are used up. -/
def MergeRun.absorb (r : MergeRun) (kind : MergeKind) (ownLow : Bool) : MergeRun :=
  let xs := r.recv.filter (r.isPiece kind)
  { r with
    node := (List.range (r.hi - r.lo)).foldl (fun t i =>
      let k := r.lo + i
      let got := ((r.rowIn xs k).map (Part.of r.dv)).getD (Part.identity r.dv)
      let own := r.part k
      store noNode t k (if ownLow then weltMerge own got else weltMerge got own).bytes) r.node
    recv := r.recv.filter fun x => !r.isPiece kind x }

/-- The exchange that the merge waits for, when every row of the kept range has arrived. -/
def MergeRun.awaited (r : MergeRun) : Option MergeKind :=
  let want : Option MergeKind :=
    if r.phase = 1 then some .prefold else if 2 ≤ r.phase ∧ r.phase < 100 then some (.level (r.phase - 2)) else none
  match want with
  | none => none
  | some k =>
    let xs := r.recv.filter (r.isPiece k)
    if (List.range (r.hi - r.lo)).all fun i => (r.rowIn xs (r.lo + i)).isSome then some k else none

/-! ### The invariant tree (R300, R301) -/

/-- Has an end marker of this pass come from every member? -/
def MergeRun.allEnded (r : MergeRun) : Bool := (List.range r.size).all fun q => decide (r.pass < r.ends.count q)

/-- The root of a row over the units' leaves. -/
def MergeRun.rootOf (r : MergeRun) (leaf : Nat → Part) : Part :=
  mergeTree r.dv (treeLevels r.units) (fullLeaves r.dv ((List.range r.units).map leaf))

/-- A leaf's row, or the identity where no member sent the leaf. -/
def MergeRun.leafRow (r : MergeRun) (row u : Nat) : Part :=
  ((r.rowIn (r.recv.filter fun x => x.kind == some (.leaf u) && x.pass == r.pass) row).map (Part.of r.dv)).getD (Part.identity r.dv)

/-- Merge the leaves of the owned rows. -/
def MergeRun.joinLeaves (r : MergeRun) : MergeRun :=
  let (lo, hi) := r.owned r.pos
  { r with
    lo := lo, hi := hi, phase := 200
    node := (List.range (hi - lo)).map fun i => (lo + i, (r.rootOf (r.leafRow (lo + i))).bytes)
    recv := r.recv.filter fun x => x.pass != r.pass }

/-! ### Progress -/

/-- Take what has arrived as far as it goes. -/
def State.mergeGo : Nat → State → Nat → State
  | 0, s, _ => s
  | n + 1, s, id =>
    match s.merge? id with
    | none => s
    | some r =>
      if r.phase = 100 then
        (if r.allEnded then
          (s.onMerge id MergeRun.joinLeaves).countMerged ((2 ^ treeLevels r.units - 1) * ((r.owned r.pos).2 - (r.owned r.pos).1))
         else s)
      else match r.awaited with
      | none => s
      | some k =>
        let j := if r.phase = 1 then 0 else r.phase - 1
        let ownLow := r.phase == 1 || decide (r.pos < r.partner (r.phase - 2))
        let s := (s.onMerge id fun r => r.absorb k ownLow).countMerged (r.hi - r.lo)
        match s.merge? id with
        | none => s
        | some r => State.mergeGo n (s.mergeLevel r j) id

def mergeFuel : Nat := 32

/-- Does a merge exchange rows with other members? -/
def MergeRun.exchanges (r : MergeRun) : Bool := !(r.invariant && r.prefill)

/-- Does an exchange reach the member that it is meant for? -/
def MergeRun.expects (r : MergeRun) (x : MergeIn) : Bool :=
  match x.kind with
  | none => r.invariant
  | some .prefold => !r.invariant && x.sender == r.pos + r.p2
  | some (.level j) => !r.invariant && decide (j < r.levels) && x.sender == r.partner j
  | some (.leaf u) => r.invariant && decide (u < r.units)

/-- Where area B takes what arrives (DEDUCED for a level: row r at its own place). -/
def State.landAt (s : State) (r : MergeRun) (x : MergeIn) : Nat :=
  match x.kind with
  | some (.leaf u) => s.areaB r + (u * ((r.owned r.pos).2 - (r.owned r.pos).1) + (x.lo - (r.owned r.pos).1)) * r.pb
  | _ => s.areaB r + x.lo * r.pb

/-- Something arrives for a merge that runs. -/
def State.mergeArrive (s : State) (r : MergeRun) (x : MergeIn) : State :=
  if !r.expects x then s else
  match x.kind with
  | none => (s.onMerge r.flight fun r => { r with ends := r.ends ++ [x.sender] }).mergeGo mergeFuel r.flight
  | some k =>
    let x := { x with pass := match k with
      | .leaf _ => r.ends.count x.sender
      | .prefold => r.prefoldPass x.lo
      | .level _ => 0 }
    let dup : Bool := match k with
      | .leaf u => (r.rowIn (r.recv.filter fun y => y.kind == some (.leaf u) && y.pass == x.pass) x.lo).isSome
      | _ => false
    if dup then s.circFail (some r.flight) eCircLeafDup 0 0 x.sender 0
    else
      let s := s.setT1 (s.landAt r x) x.data
      (s.onMerge r.flight fun r => { r with recv := r.recv ++ [x] }).mergeGo mergeFuel r.flight

/-- Something arrives at the merge unit: for the merge of its command, or kept until that begins. -/
def State.mergeTake (s : State) (x : MergeIn) : State :=
  match s.circ.merges.find? fun r => r.exchanges && r.tag == x.tag with
  | none => { s with circ := { s.circ with early := s.circ.early ++ [x] } }
  | some r => s.mergeArrive r x

/-! ### A pass begins (R298) -/

/-- Does the merge of a flight begin its next pass now? -/
def State.mergeReady (s : State) (r : MergeRun) : Bool :=
  r.phase == 0 && decide (r.pass < r.passes) &&
  match s.flight? r.flight with
  | some f => f.stage == .running && decide ((r.pass + 1) * f.cores.length ≤ s.chipCtr (f.get 82 2))
  | none => false

/-- The local tree of a row over the eight entries. -/
def State.coreTree (s : State) (r : MergeRun) (cores : List Nat) (row : Nat) : Part :=
  mergeTree r.dv 3 ((List.range 8).map fun k => if cores.contains k then s.partialOf r k row else Part.identity r.dv)

/-- Give the merge a node over all rows. -/
def State.putNode (s : State) (r : MergeRun) (g : Nat → Part) (phase : Nat) : State :=
  s.onMerge r.flight fun r =>
    { r with phase := phase, lo := 0, hi := r.nq, node := (List.range r.nq).map fun i => (i, (g i).bytes) }

/-- Begin a pass outside invariant mode. -/
def State.beginLace (s : State) (r : MergeRun) (cores : List Nat) : State :=
  let s := (s.putNode r (s.coreTree r cores) 1).countMerged (7 * r.nq)
  match s.merge? r.flight with
  | none => s
  | some r =>
    if r.p2 ≤ r.pos then
      (s.sendMerge r (r.pos - r.p2) 0 0 0 (r.rows 0 r.nq)).onMerge r.flight fun r => { r with phase := 200, lo := 0, hi := 0 }
    else if r.pos + r.p2 < r.size then s.mergeGo mergeFuel r.flight
    else (s.mergeLevel r 0).mergeGo mergeFuel r.flight

/-- Send one held unit's rows to their owners. -/
def State.sendLeaf (s : State) (r : MergeRun) (e u : Nat) : State :=
  (List.range r.size).foldl (fun s q =>
    let (lo, hi) := r.owned q
    let data := s.t1 (s.areaA r e lo) ((hi - lo) * r.pb)
    if q = r.pos then
      match s.merge? r.flight with
      | some r => s.mergeArrive r ⟨r.tag, some (.leaf u), q, 0, lo, data⟩
      | none => s
    else s.sendMerge r q 2 u lo data) s

/-- Begin a pass in invariant mode: the leaves to their owners, then an end marker to every member. -/
def State.beginUnits (s : State) (r : MergeRun) : State :=
  let s := s.onMerge r.flight fun r => { r with phase := 100 }
  let s := (r.held.zipIdx).foldl (fun s (u, e) => s.sendLeaf r e u) s
  let s := (List.range r.size).foldl (fun s q => if q = r.pos then s else s.sendMerge r q 3 0 0 []) s
  match s.merge? r.flight with
  | some r => s.mergeArrive r ⟨r.tag, none, r.pos, 0, 0, []⟩
  | none => s

/-- Begin a pass. A poisoned word of area A is met at its reading. -/
def State.mergeBegin (s : State) (r : MergeRun) (cores : List Nat) : State :=
  match s.readT1 (s.areaA r 0 0) (r.entries * r.nq * r.pb) (some r.flight) with
  | (none, s) => s
  | (some _, s) =>
    if !r.invariant then s.beginLace r cores
    else if r.prefill then
      (s.putNode r (fun i => r.rootOf fun u => s.partialOf r u i) 200).countMerged ((2 ^ treeLevels r.units - 1) * r.nq)
    else s.beginUnits r

/-- MERGE_START (R298). -/
def execMergeStart (s : State) : Out :=
  if s.mem.wiping || s.disc.busy || s.fatal then .next s else
  match s.circ.merges.find? s.mergeReady with
  | none => .next s
  | some r =>
    match s.flight? r.flight with
    | none => .next s
    | some f => .next (s.mergeBegin r f.cores)

/-- MERGE_EXCHANGE (R299, R300): one message of rows. -/
def execMergeExchange (tag : Word) (k : MergeKind) (sender rowLo : Nat) (data : List Byte) (s : State) : Out :=
  if s.disc.busy || !s.linked then .next s else .next (s.mergeTake ⟨tag.toNat, some k, sender, 0, rowLo, data⟩)

/-- MERGE_END_MARKER (R300). -/
def execMergeEndMarker (tag : Word) (sender : Nat) (s : State) : Out :=
  if s.disc.busy || !s.linked then .next s else .next (s.mergeTake ⟨tag.toNat, none, sender, 0, 0, []⟩)

/-! ### A pass ends (R298, R302) -/

/-- A finished row in OUT_FMT, and its saturations. -/
def finishedRow (fmt : Nat) (p : Part) : List Byte × Nat := normalRow (fmtOf fmt) [⟨p.m, p.l⟩] p.o

/-- Bytes of one element of OUT. -/
def outElem (fmt : Nat) : Nat := (fmtOf fmt).bits / 8

/-- Add 1 to MERGE_CTR on every participating core; a refused increment ends the command. -/
def State.mergeSignal (s : State) (f : Flight) : State :=
  f.cores.foldl (fun s n =>
    match s.addCore n (f.get 84 1) 1 (srcWord s.chipId 2 0 0) with
    | (s, none) => s
    | (s, some code) => s.failCommand f.id code 0#32 (f.get 84 1 * 2 ^ 16)) s

/-- The next pass waits, or the merge is over. -/
def State.mergeNext (s : State) (r : MergeRun) : State :=
  if r.pass + 1 < r.passes then s.onMerge r.flight fun r => { r with pass := r.pass + 1, phase := 0, node := [] }
  else (s.dropMerge r.flight).settle r.flight

/-- Write the finished rows to OUT. The spec names no core for their saturations (R44): here the lowest core of the command counts them. -/
def State.writeOut (s : State) (f : Flight) (r : MergeRun) (e : Entry) (off : Nat) : State :=
  let rows := (List.range (r.hi - r.lo)).map fun i => finishedRow (f.get 85 1) (r.part (r.lo + i))
  let s := s.setObj e off (rows.map Prod.fst).flatten
  match f.cores with
  | c :: _ => s.addSat c (rows.map Prod.snd).sum
  | [] => s

/-- MERGE_COMPLETE. Rows of OUT that are not resident halt the command (R209), and a lost granule ends it (R212). -/
def execMergeComplete (s : State) : Out :=
  if s.mem.wiping || s.disc.busy || s.fatal then .next s else
  match s.circ.merges.find? fun r => r.phase == 200 with
  | none => .next s
  | some r =>
    match s.flight? r.flight with
    | none => .next s
    | some f =>
      if f.halted.isSome then .next s else
      let e := s.entry (f.get 88 4 % 2 ^ 16)
      let w := r.dv * outElem (f.get 85 1)
      let off := f.get 96 8 + r.lo * w
      if s.lostIn e off ((r.hi - r.lo) * w) then .next (s.failHandle f.id (f.get 88 4) eObjLost)
      else match s.absent e off ((r.hi - r.lo) * w) with
      | item :: _ => .next (s.haltMove f.id e item)
      | [] => .next (((s.writeOut f r e off).mergeSignal f).mergeNext r)

/-! ### A merge comes with its command (R298) -/

/-- Does a command merge? ATTN_DECODE, and ATTN_PREFILL in invariant mode. -/
def merges (f : Flight) : Bool := f.opcode == 0x11 || (f.opcode == 0x10 && (f.get 20 2).testBit 0)

/-- The lace, the members and this chip's position of a command's merge: those of the primary lace of its group's lace (R274); of the group
where that has no lace, and one member without a group. -/
def State.mergePlace (s : State) (f : Flight) : Nat × Nat × Nat :=
  match if f.opcode = 0x11 then s.group? f.group else none with
  | none => (6, 1, 0)
  | some g =>
    if g.lace < 6 ∧ (s.lace g.lace).valid = true then
      let x := s.lace (s.primary g.lace)
      (x.index, x.members, x.pos)
    else (6, g.members, g.position)

/-- The merge of a command, NU over the longest KV_LEN of its table. -/
def mergeOf (f : Flight) (tab : List LenEntry) (place : Nat × Nat × Nat) (held : List Nat) : MergeRun :=
  { flight := f.id, tag := f.get 4 4, group := f.group, lace := place.1, size := place.2.1, pos := place.2.2, obj := f.get 72 4 % 2 ^ 16,
    nq := f.get 76 4, dv := f.get 80 2, units := ceilDiv ((tab.map LenEntry.kvLen).foldl max 0) 4096, held := held,
    invariant := (f.get 20 2).testBit 0, prefill := f.opcode == 0x10, pass := 0, passes := f.get 68 2, phase := 0, node := [],
    lo := 0, hi := 0, recv := [], ends := [] }

/-- The merge units that this chip holds of a command's sequences, ascending: those that the walk forms a run for. -/
def State.heldUnits (s : State) (p : Pool) (tab : List LenEntry) : Kv (List Nat) := do
  let us ← (tab.filter fun e => e.qCount ≠ 0).foldlM (fun acc e => do
    let l ← s.walkList p e.seq e.kvLen
    pure (acc ++ (runsOf true e.kvLen l).map fun r => (r.headD ⟨0, 0, 0⟩).base / 4096)) []
  let top := us.foldl max 0
  pure ((List.range (top + 1)).filter us.contains)

/-- The checks of a merge's parameters (R298, R303): the code of the first that fails, and the handle that it concerns. -/
def State.mergeCheck (s : State) (f : Flight) (r : MergeRun) : Option (Nat × Nat) × State :=
  if r.passes < 1 ∨ 256 < r.passes ∨ r.dv % 64 ≠ 0 ∨ r.dv < 64 ∨ 1024 < r.dv ∨ r.nq < 1 ∨ 65536 < r.nq ∨ 4096 ≤ f.get 82 2 ∨
    96 ≤ f.get 84 1 ∨ srcFmtOk (f.get 85 1) = false then (some (eCircShape, 0), s)
  else match s.checkRange (f.get 72 4) 0 0 true (some f.id) with
  | (.error code, s) => (some (code, f.get 72 4), s)
  | (.ok e, s) =>
    if e.policy ≠ 1 ∨ e.length < r.need then (some (eCircShape, 0), s)
    else match s.checkRange (f.get 88 4) (f.get 96 8) (f.get 96 8 + r.nq * r.dv * outElem (f.get 85 1)) true (some f.id) with
    | (.error code, s) => (some (code, f.get 88 4), s)
    | (.ok _, s) => (none, s)

/-- Put a merge at work: what came before it is taken now. -/
def State.startMerge (s : State) (r : MergeRun) : State :=
  let early := s.circ.early.filter fun x => x.tag == r.tag
  let s := { s with circ := { s.circ with merges := s.circ.merges ++ [r] } }
  if !r.exchanges || early == [] then s
  else early.foldl State.mergeTake { s with circ := { s.circ with early := s.circ.early.filter fun x => x.tag != r.tag } }

end Sys2Proof.Machine
end

