-- ==== Sys2Proof/Machine/Circ.lean ====
section
/-! DEFINITION. Sequence circulation (R277 to R294): ATTN_PREFILL, ATTN_DECODE and CIRCULATE, the blocks, acknowledgements, credits and
aborts of a lace, and CIRC_DONE. -/

namespace Sys2Proof.Machine

/-! ### Lanes (R281, R282, R288) -/

def laneKey (l d : Nat) : Nat := 2 * l + d
def noLane (_ : Nat) : CircLane := CircLane.reset

def CircRun.lane (r : CircRun) (l d : Nat) : CircLane := look noLane r.lanes (laneKey l d)

def State.onCirc (s : State) (id : Nat) (g : CircRun → CircRun) : State :=
  { s with circ := { s.circ with runs := s.circ.runs.map fun r => if r.flight = id then g r else r } }

def State.onLane (s : State) (id l d : Nat) (g : CircLane → CircLane) : State :=
  s.onCirc id fun r => { r with lanes := modify noLane r.lanes (laneKey l d) g }

/-- Members that a block reaches in a direction: ⌈(N − 1)/2⌉ and ⌊(N − 1)/2⌋. -/
def CircRun.reach (r : CircRun) (d : Nat) : Nat := if d = 0 then r.size / 2 else (r.size - 1) / 2

/-- Blocks of a stripe pair that travel on a lace (R280). -/
def CircRun.own (r : CircRun) (l : Nat) : Nat :=
  let nl := r.laces.length
  (r.blocks + nl - 1 - (r.laces.idxOf l)) / nl

/-- Blocks sent, and received, in one pass. -/
def CircRun.perPass (r : CircRun) (l d : Nat) : Nat := r.own l * r.reach d
def CircRun.total (r : CircRun) (l d : Nat) : Nat := r.passes * r.perPass l d

/-- What goes out next on a lane, if anything can: the n-th own block of the lace, or a landed block to forward. -/
inductive CircSend where
  | own (n : Nat)
  | forward (x : Landing)
  deriving DecidableEq, Repr

/-- Is a lane complete in its first n blocks: all received, every own and forwarded block acknowledged, every slot of them free (R288)? -/
def CircLane.completeTo (x : CircLane) (n : Nat) : Bool :=
  decide (n ≤ x.rx) && x.unacked.all (fun k => decide (n ≤ k)) && x.slots.all fun y => decide (n ≤ y.seqno)

/-- The fixed order of R282: own blocks, then forwards in landing order; a pass begins once the one before it is complete on the lane. -/
def CircRun.nextSend (r : CircRun) (l d : Nat) : Option CircSend :=
  let x := r.lane l d
  let per := r.perPass l d
  if r.total l d ≤ x.tx then none
  else
    let i := x.tx % per
    if i = 0 ∧ x.completeTo x.tx = false then none
    else if i < r.own l then some (.own i)
    else (x.slots.find? fun y => y.landed && decide (y.header.hopsLeft.toNat ≠ 0) && y.fwdSent.isNone).map .forward

/-- A lane's part is over: every block sent and acknowledged, every expected block landed, every slot free. -/
def CircRun.laneDone (r : CircRun) (l d : Nat) : Bool :=
  let x := r.lane l d
  x.tx == r.total l d && x.rx == r.total l d && x.unacked.isEmpty && x.slots.isEmpty

def CircRun.done (r : CircRun) : Bool := r.laces.all fun l => r.laneDone l 0 && r.laneDone l 1

/-- A member's part completes (R288). -/
def State.circSettle (s : State) (id : Nat) : State :=
  match s.circ.runs.find? fun r => r.flight = id with
  | none => s
  | some r => if r.done then (s.dropCirc id).settle id else s

def Dir.ofIdx (d : Nat) : Dir := if d = 0 then .next else .prev

/-! ### Slots (R285 to R287) -/

/-- Is a slot free? -/
def Landing.free (x : Landing) (consumers : Nat) : Bool :=
  x.landed && (coresIn consumers).all (fun c => x.released.testBit c) && (x.header.hopsLeft == 0#32 || x.fwdAcked)

/-- Free what can be freed: each slot returns a credit to the sender. -/
def State.freeSlots (s : State) (r : CircRun) (l : Nat) (d : Dir) : State :=
  let c := (s.lace l).consumers d
  let gone := (r.lane l d.idx).slots.filter fun x => x.free c
  let s := s.onLane r.flight l d.idx fun x => { x with slots := x.slots.filter fun y => !y.free c }
  let s := gone.foldl (fun s _ => s.laceCredit l d 7 r.tag) s
  s.circSettle r.flight

def State.tryFree (s : State) (id l : Nat) (d : Dir) : State :=
  match s.circ.runs.find? fun r => r.flight = id with
  | none => s
  | some r => s.freeSlots r l d

/-! ### The block on the wire (R283) -/

def circHdrBytes (h : CircHdr) : List Byte :=
  bytesOf 4 h.tag.toNat ++ bytesOf 4 h.seqno.toNat ++ bytesOf 4 h.origin.toNat ++ bytesOf 4 h.hopsLeft.toNat ++
  bytesOf 2 h.layer.toNat ++ bytesOf 1 h.group.toNat ++ bytesOf 1 h.pages.toNat ++ bytesOf 4 h.firstIndex.toNat ++
  bytesOf 4 h.payload.toNat ++ bytesOf 4 h.epoch.toNat ++ bytesOf 2 h.pass.toNat ++ List.replicate 30 0#8

/-- Group and first page index of block b of the stripe pair (R277, R280). -/
def CircRun.blockAt (r : CircRun) (b : Nat) : Nat × Nat :=
  let half := r.stripe / r.pages
  let k := b % (2 * half)
  let stripe := if k < half then r.pos else 2 * r.size - 1 - r.pos
  (b / (2 * half), stripe * r.stripe + k % half * r.pages)

/-- Rows of a page that are sent. -/
def CircRun.rowsOf (r : CircRun) (base : Nat) : Nat := min 256 (r.klen - base)

/-- The entries of a block: the page entry of each of its indices, or a hole. -/
def blockEntries (list : List PageEntry) (first pages : Nat) : List (Option PageEntry) :=
  (List.range pages).map fun j => entryAt list (256 * (first + j))

/-- The key header of a block. -/
def keyHeader (es : List (Option PageEntry)) : List Byte :=
  ((List.range 16).map fun j => bytesOf 4 (match es.getD j none with
    | some x => x.base
    | none => 0xFFFFFFFF)).flatten

/-- The parts of STORE that a block sends. On the wire the rows follow one another without the gaps of the slot. -/
def CircRun.rangesOf (r : CircRun) (p : Pool) (g : Nat) (es : List (Option PageEntry)) : List (Nat × Nat) :=
  es.filterMap fun e => e.map fun x => (p.rowAt r.layer g x.page 0, r.rowsOf x.base * r.rowBytes)

/-- Write slot contents into a consumer's working store; what the block does not send keeps its value. -/
def State.writeSlot (s : State) (r : CircRun) (core base : Nat) (payload : List Byte) : State :=
  let s := s.setWs core base (slice payload 0 64)
  let pages : List (Nat × Nat) := (List.range r.pages).filterMap fun j =>
    let k := field payload (4 * j) 4
    if k = 0xFFFFFFFF then none else some (j, r.rowsOf k)
  let rows := (pages.map fun (j, n) => (List.range n).map fun t => base + 64 + 256 * j * r.pitch + t * r.pitch).flatten
  (rows.zipIdx).foldl (fun s (at_, i) => s.setWs core at_ (slice payload (64 + i * r.rowBytes) r.rowBytes)) s

/-! ### Sending (R282, R283) -/

/-- Put a block on a lane: it takes a credit, and waits to be acknowledged. -/
def State.putBlock (s : State) (r : CircRun) (l : Nat) (d : Dir) (h : CircHdr) (payload : List Byte) : State :=
  let s := s.onLane r.flight l d.idx fun x =>
    { x with tx := x.tx + 1, credits := x.credits - 1, unacked := x.unacked ++ [x.tx] }
  let s := s.bump (pageCirc + 0x800 + 16 * laneKey l d.idx)
  s.sendLace l d (4 + laneKey l d.idx) (0, 0) (circHdrBytes h) payload

/-- Read and send the n-th own block of a lace. -/
def State.sendOwn (s : State) (r : CircRun) (l : Nat) (d : Dir) (n : Nat) : State :=
  match s.pool r.pool r.flight with
  | (.error code, s) => s.failHandle r.flight r.pool code
  | (.ok p, s) =>
    match s.walkList p r.seq r.klen with
    | .error e => s.kvFail r.flight e
    | .ok list =>
      let (g, first) := r.blockAt (r.laces.idxOf l + n * r.laces.length)
      let es := blockEntries list first r.pages
      let rs := r.rangesOf p g es
      match (rs.map fun x => s.absent p.store x.1 x.2).flatten with
      | item :: _ => s.haltMove r.flight p.store item
      | [] =>
        if rs.any fun x => s.lostIn p.store x.1 x.2 then s.failHandle r.flight p.store.index eObjLost
        else match rs.findSome? fun x => s.objPoison p.store x.1 x.2 with
        | some w => s.reportUe w (some r.flight)
        | none =>
          let payload := keyHeader es ++ (rs.map fun x => s.objBytes p.store x.1 x.2).flatten
          let tx := (r.lane l d.idx).tx
          s.putBlock r l d
            { tag := BitVec.ofNat 32 r.tag, seqno := BitVec.ofNat 32 tx, origin := BitVec.ofNat 20 r.pos,
              hopsLeft := BitVec.ofNat 32 (r.reach d.idx - 1), layer := BitVec.ofNat 16 r.layer, group := BitVec.ofNat 8 g,
              pages := BitVec.ofNat 8 r.pages, firstIndex := BitVec.ofNat 32 first, payload := BitVec.ofNat 32 payload.length,
              epoch := (s.lace l).epoch, pass := BitVec.ofNat 16 (tx / r.perPass l d.idx) } payload

/-- A landed block has been sent on. -/
def Landing.sentOn (x : Landing) (seqno tx : Nat) : Landing := if x.seqno = seqno then { x with fwdSent := some tx } else x

/-- Forward a landed block. -/
def State.sendForward (s : State) (r : CircRun) (l : Nat) (d : Dir) (x : Landing) : State :=
  let tx := (r.lane l d.idx).tx
  let s := s.putBlock r l d
    { x.header with
      seqno := BitVec.ofNat 32 tx, hopsLeft := x.header.hopsLeft - 1#32, epoch := (s.lace l).epoch } x.payload
  s.onLane r.flight l d.idx fun y => { y with slots := y.slots.map fun z => z.sentOn x.seqno tx }

/-- BLOCK_SEND (R282). One own block at a time waits for its part of STORE. -/
def execBlockSend (l : Fin 6) (d : Dir) (s : State) : Out :=
  if s.mem.wiping || s.disc.busy || s.fatal then .next s else
  match s.circRun? l with
  | none => .next s
  | some r =>
    if (r.lane l d.idx).credits = 0 then .next s
    else match r.nextSend l d.idx with
    | none => .next s
    | some (.forward x) => .next (s.sendForward r l d x)
    | some (.own n) =>
      match s.flight? r.flight with
      | none => .next s
      | some f => if f.halted.isSome then .next s else .next (s.sendOwn r l d n)

/-! ### Receiving (R284, R285) -/

/-- The checks of R284 before the CRC. -/
def State.blockCode (s : State) (r : CircRun) (l : Nat) (d : Dir) (h : CircHdr) : Option Nat :=
  if h.tag.toNat ≠ r.tag ∨ h.seqno.toNat ≠ (r.lane l d.idx).rx % 2 ^ 32 ∨ 64 * (s.lace l).slotUnits < h.payload.toNat then some eCircSeq
  else if h.epoch ≠ (s.lace l).epoch then some eCircEpoch
  else none

/-- A checked block takes its slot and goes to every consumer. -/
def State.takeBlock (s : State) (r : CircRun) (l : Nat) (d : Dir) (h : CircHdr) (payload : List Byte) : State :=
  let x := s.lace l
  let base := x.landBase d + h.seqno.toNat % 8 * (64 * x.slotUnits)
  let s := (coresIn (x.consumers d)).foldl (fun s c => s.writeSlot r c base payload) s
  s.onLane r.flight l d.idx fun y =>
    { y with rx := y.rx + 1, slots := y.slots ++ [⟨h.seqno.toNat, h, payload, false, 0, none, false⟩] }

/-- CIRC_BLOCK (R284, R285). During a device discard one for an aborted lace is dropped (R443). -/
def execCircBlock (l : Fin 6) (d : Dir) (h : CircHdr) (payload : List Byte) (crc : Word) (s : State) : Out :=
  if h.payload.toNat ≠ payload.length then .fault .illFormed
  else if (s.disc.busy && s.disc.circLaces.contains l.val) || !s.heard (s.laceIn l d) then .next s
  else match s.circRun? l with
  | none => .next (s.circFail none eCircSeq l d.idx h.origin.toNat h.seqno.toNat)
  | some r =>
    match s.blockCode r l d h with
    | some code => .next (s.circFail (some r.flight) code l d.idx h.origin.toNat h.seqno.toNat)
    | none =>
      if crc32c (circHdrBytes h ++ payload) ≠ crc then
        .next (s.circFail (some r.flight) eCircBlockCrc l d.idx h.origin.toNat h.seqno.toNat)
      else .next (s.takeBlock r l d h payload)

/-- The oldest block of a lane that has not yet landed, as landed. -/
def Landing.land (x : Landing) (seqno : Nat) : Landing := if x.seqno = seqno then { x with landed := true } else x

/-- The landing counters of the consumers, and the code where an increment is refused. -/
def State.countLanding (s : State) (x : Lace) (d : Dir) : State × Option Nat :=
  (coresIn (x.consumers d)).foldl (fun ((s, err) : State × Option Nat) c =>
    match err, s.addCore c (x.landCtr d) 1 (srcWord s.chipId 2 0 0) with
    | none, (s', none) => (s', none)
    | none, (_, some code) => (s, some code)
    | some code, _ => (s, some code)) (s, none)

/-- BLOCK_LANDED (R284, R285, R287): 16 cycles after its trailer. A counter that refuses the increment ends the command, and stands in
SYNC_ERR_INFO (R131, R134). -/
def execBlockLanded (l : Fin 6) (d : Dir) (s : State) : Out :=
  if s.disc.busy || s.fatal then .next s else
  match s.circRun? l with
  | none => .next s
  | some r =>
    match (r.lane l d.idx).slots.find? fun x => !x.landed with
    | none => .next s
    | some y =>
      let s := s.onLane r.flight l d.idx fun x => { x with slots := x.slots.map fun z => z.land y.seqno }
      let s := (s.bump (pageCirc + 0x804 + 16 * laneKey l d.idx)).circAck l d y.seqno
      match s.countLanding (s.lace l) d with
      | (s, some code) => .next (s.failCommand r.flight code (BitVec.ofNat 32 y.header.origin.toNat) ((s.lace l).landCtr d * 2 ^ 16))
      | (s, none) => .next (s.tryFree r.flight l d)

/-- A forward of block `seqno` of the next member is acknowledged. -/
def Landing.acked (x : Landing) (seqno : Nat) : Landing :=
  match x.fwdSent with
  | some n => if n ≤ seqno then { x with fwdAcked := true } else x
  | none => x

/-- CIRC_ACK (R287): a running count, so it covers every block up to its own (R359). -/
def execCircAck (l : Fin 6) (d : Dir) (seqno : Word) (s : State) : Out :=
  if !s.hearsControl (s.laceOut l d) then .next s else
  match s.circRun? l with
  | none => .next s
  | some r =>
    let n := seqno.toNat
    let s := s.onLane r.flight l d.idx fun x =>
      { x with unacked := x.unacked.filter fun k => decide (n < k), slots := x.slots.map fun z => z.acked n }
    .next (s.tryFree r.flight l d)

def noCredits (_ : Nat) : List Nat := []
def noDead (_ : Nat) : Option (Nat × Nat) := none

/-- Eight credits at most. -/
def CircLane.grant (x : CircLane) : CircLane := { x with credits := min 8 (x.credits + 1) }

/-- CIRC_CREDIT (R288): one for a circulation not started yet is kept under its tag. -/
def execCircCredit (l : Fin 6) (d : Dir) (tag : Word) (s : State) : Out :=
  if !s.hearsControl (s.laceOut l d) then .next s else
  match s.circ.runs.find? fun r => r.laces.contains l.val && r.tag == tag.toNat with
  | some r => .next (s.onLane r.flight l d.idx CircLane.grant)
  | none =>
    .next { s with circ := { s.circ with
      credits := modify noCredits s.circ.credits (laneKey l d.idx) fun t => t ++ [tag.toNat] } }

/-- An abort of a circulation that has not begun to circulate here: it is forwarded once, and ends this chip's part. A command that has not
started is ended when it starts. -/
def State.abortAwaited (s : State) (l : Nat) (f : Option Flight) (code pos : Nat) : State :=
  let ls := (f.map Flight.laces).getD [l]
  let s := (s.setReg (pageCirc + 0x48) (BitVec.ofNat 32 pos)).sendCircAbort ls code pos (some l)
  let s := { s with circ := { s.circ with
    credits := (ls.map fun k => [laneKey k 0, laneKey k 1]).flatten.foldl (fun t k => store noCredits t k []) s.circ.credits } }
  match f with
  | some f => (s.onFlight f.id Flight.finish).endCommand f.id code (BitVec.ofNat 32 pos)
  | none => { s with circ := { s.circ with dead := store noDead s.circ.dead l (some (code, pos)) } }

/-- CIRC_ABORT (R293): forwarded once. Without a circulation on the lace it concerns the command that holds the lace, or the next one to
begin on it. -/
def execCircAbort (l : Fin 6) (code : BitVec 16) (pos : BitVec 20) (s : State) : Out :=
  if !(s.hearsControl (s.laceOut l .next) || s.hearsControl (s.laceOut l .prev)) then .next s else
  match takeCopy s.circ.copies l, s.circRun? l with
  | some t, _ => .next { s with circ := { s.circ with copies := t } }
  | none, none =>
    .next (s.abortAwaited l (s.cmd.flights.find? fun f => circulates f && f.stage != .ended && f.laces.contains l) code.toNat pos.toNat)
  | none, some r =>
    let s := s.setReg (pageCirc + 0x48) (BitVec.ofNat 32 pos.toNat)
    let s := (s.sendCircAbort r.laces code.toNat pos.toNat (some l)).dropCirc r.flight
    .next (s.endCommand r.flight code.toNat (BitVec.ofNat 32 pos.toNat))

/-- CIRC_TIMEOUT (R294). -/
def execCircTimeout (l : Fin 6) (d : Dir) (s : State) : Out :=
  match s.circRun? l with
  | none => .next s
  | some r =>
    let x := r.lane l d.idx
    let waits := decide (x.rx < r.total l d.idx) || ((r.nextSend l d.idx).isSome && x.credits == 0)
    if (s.stg (pageCirc + 0x1C0)).toNat % 2 ^ 16 = 0 ∨ !waits ∨ s.fatal then .next s
    else .next (s.circFail (some r.flight) eCircTimeout l d.idx r.pos x.rx)

/-! ### CIRC_DONE (R286) -/

/-- The landed block that core c may release, when it is the one in a slot. -/
def CircLane.releasable (x : CircLane) (c slot : Nat) : Option Landing :=
  match x.slots.find? fun y => y.landed && !y.released.testBit c with
  | none => none
  | some y => if y.seqno % 8 = slot then some y else none

def Landing.release (x : Landing) (seqno c : Nat) : Landing :=
  if x.seqno = seqno then { x with released := Nat.lor x.released (2 ^ c) } else x

/-- Release a slot, or end the core's command. -/
def State.circDone (s : State) (c w pc : Nat) : State :=
  let l := bitsOf w 2 0
  let d := bitsOf w 3 3
  let bad (s : State) : State := s.failIssued c 3 eCircCredit pc (l * 2 ^ 16 + d * 2 ^ 19)
  match s.circRun? l with
  | none => bad s
  | some r =>
    if !((s.lace l).consumers (Dir.ofIdx d)).testBit c then bad s
    else match (r.lane l d).releasable c (bitsOf w 6 4) with
    | none => bad s
    | some y =>
      let s := s.onLane r.flight l d fun x => { x with slots := x.slots.map fun z => z.release y.seqno c }
      s.tryFree r.flight l (Dir.ofIdx d)

def execCircDone (c : Fin 8) (s : State) : Out :=
  .next (s.issue c 3 0x35 noCheck fun w pc _ s => s.circDone c w pc)

/-! ### The operators (R277, R279, R288, R295, R397) -/

/-- The landing areas that a core of the image has on the laces of a mask: offset and length. -/
def State.landAreas (s : State) (ls : List Nat) (n : Nat) : List (Nat × Nat) :=
  (ls.map fun l => [Dir.next, Dir.prev].filterMap fun d =>
    let x := s.lace l
    if (x.consumers d).testBit n then some (x.landBase d, 8 * (64 * x.slotUnits)) else none).flatten

/-- The KIND 4 buffers of a core in an image (R182). -/
def State.receiveBuffers (s : State) (m : Image) (n : Nat) : List (Nat × Nat) :=
  match s.imageSection m 4 n with
  | none => []
  | some (o, len) =>
    (List.range (len / 16)).filterMap fun i =>
      let b := s.objBytes m.entry (o + 16 * i) 16
      if field b 8 1 = 4 then some (field b 0 4, field b 4 4) else none

/-- The checks of a circulation's parameters, laces and landing areas. -/
def State.circCode (s : State) (f : Flight) (p : Pool) (e : LenEntry) : Option Nat :=
  let ls := coresIn (f.get 64 1)
  let bp := f.get 65 1
  let st := f.get 66 2
  let n := (s.lace (s.primary (ls.headD 0))).members
  let bad :=
    ls.isEmpty || !(ls.all fun l => (s.lace l).valid && (s.lace l).set == (s.lace (ls.headD 0)).set) ||
    decide (bp < 1 ∨ 16 < bp ∨ st < 1 ∨ st % bp ≠ 0 ∨ f.get 68 2 < 1 ∨ 256 < f.get 68 2 ∨ 512 * n * st < e.kvLen) ||
    ((f.get 20 2).testBit 0 && decide (st % 16 ≠ 0 ∨ bp ≠ 16))
  if bad then some eCircShape
  else
    let short := ls.any fun l => decide (64 * (s.lace l).slotUnits < 64 + bp * 256 * p.wsPitch)
    let differs := match s.imageOf f.body with
      | none => false
      | some m => f.cores.any fun c =>
        let a := s.landAreas ls c
        let b := s.receiveBuffers m c
        !(a.all b.contains && b.all a.contains)
    if short || differs then some eCircLandMismatch else none

/-- Start a circulation: its lanes hold what credits have come, and each upstream neighbour is granted eight (R288). -/
def State.startCirc (s : State) (f : Flight) (p : Pool) (e : LenEntry) : State :=
  let ls := coresIn (f.get 64 1)
  let x := s.lace (s.primary (ls.headD 0))
  let tag := f.get 4 4
  let keys := (ls.map fun l => [laneKey l 0, laneKey l 1]).flatten
  let r : CircRun :=
    { flight := f.id, tag := tag, laces := ls, size := x.members, pos := x.pos, pool := f.get 48 4, seq := e.seq, klen := e.kvLen,
      layer := f.get 52 2, stripe := f.get 66 2, pages := f.get 65 1, passes := f.get 68 2, rowBytes := p.rowBytes, pitch := p.wsPitch,
      blocks := 2 * p.groups * f.get 66 2 / f.get 65 1,
      lanes := keys.foldl (fun t k => modify noLane t k fun y =>
        { y with credits := min 8 ((look noCredits s.circ.credits k).count tag) }) [] }
  let s := { s with circ := { s.circ with
    runs := s.circ.runs ++ [r]
    credits := keys.foldl (fun t k => modify noCredits t k fun c => c.filter (· != tag)) s.circ.credits } }
  let s := ls.foldl (fun s l => (s.clearNotes l [8]).clearAcks l) s
  let s := ls.foldl (fun s l => [Dir.next, Dir.prev].foldl (fun s d =>
      (List.range 8).foldl (fun s _ => s.laceCredit l d 7 tag) s) s) s
  s.circSettle f.id

/-- The checks of the operator's own fields, in order: the layer, the circulation, the sequence it carries. -/
def State.attnCode (s : State) (f : Flight) (p : Pool) (tab : List LenEntry) : Option KvErr :=
  if p.layers ≤ f.get 52 2 then some (.code eCircShape)
  else if !circulates f then none
  else match tab.head? with
  | none => some (.code eCircShape)
  | some e =>
    match s.circCode f p e with
    | some code => some (.code code)
    | none => match s.walkList p e.seq e.kvLen with
      | .error x => some x
      | .ok _ => none

/-- The cores, the circulation and the merge of a checked command begin; the records of an attention operator are filled (R241). -/
def State.attnRun (s : State) (f : Flight) (p : Pool) (tab : List LenEntry) (r : Option MergeRun) : State :=
  let s := s.runCores f
  let s := if f.opcode = 0x12 then s else s.fillRecords p f tab
  let s := match r with
    | some r => s.startMerge r
    | none => s
  let s := match tab.head? with
    | some e => if circulates f then s.startCirc f p e else s
    | none => s
  if f.cores = [] && !s.engineBusy f.id then s.onFlight f.id Flight.finish else s

/-- End a circulation that was aborted before it began here (R293): the abort goes on over its other laces. -/
def State.endDead (s : State) (f : Flight) (l : Nat) (x : Nat × Nat) : State :=
  let s := (s.setReg (pageCirc + 0x48) (BitVec.ofNat 32 x.2)).sendCircAbort (f.laces.filter (· != l)) x.1 x.2
  let s := { s with circ := { s.circ with dead := f.laces.foldl (fun t k => store noDead t k none) s.circ.dead } }
  (s.onFlight f.id Flight.finish).endCommand f.id x.1 (BitVec.ofNat 32 x.2)

/-- An attention operator: its checks, then its run. -/
def State.attnOp (s : State) (f : Flight) : State :=
  match if circulates f then f.laces.findSome? fun l => (look noDead s.circ.dead l).map fun x => (l, x) else none with
  | some (l, x) => s.endDead f l x
  | none =>
  match s.pool (f.get 48 4) f.id with
  | (.error code, s) => s.failHandle f.id (f.get 48 4) code
  | (.ok p, s) =>
    match s.lenTab f with
    | .error e => s.kvFail f.id e
    | .ok tab =>
      match s.attnCode f p tab with
      | some e => s.kvFail f.id e
      | none =>
        if !merges f then s.attnRun f p tab none
        else match s.heldUnits p tab with
        | .error e => s.kvFail f.id e
        | .ok held =>
          let r := mergeOf f tab (s.mergePlace f) held
          match s.mergeCheck f r with
          | (some (code, h), s) => s.failHandle f.id h code
          | (none, s) => s.attnRun f p tab (some r)

def State.attnCommand (s : State) (q op : Nat) : State :=
  if s.mem.wiping then s else
  match s.flightAt q op .started with
  | none => s
  | some f => s.attnOp f

/-- ATTN_PREFILL (R397): with a lace mask it circulates, in invariant mode it merges on its own chip (R301). -/
def execAttnPrefill (q : Fin 64) (s : State) : Out := .next (s.attnCommand q 0x10)
/-- ATTN_DECODE (R295, R298). -/
def execAttnDecode (q : Fin 64) (s : State) : Out := .next (s.attnCommand q 0x11)
/-- CIRCULATE (R279). -/
def execCirculate (q : Fin 64) (s : State) : Out := .next (s.attnCommand q 0x12)

end Sys2Proof.Machine
end

