-- ==== Sys2Proof/Machine/Requests.lean ====
section
/-! DEFINITION. The answers to this chip's own requests on the links: acknowledgement, read data and refusal, each taken by the owner of
the request (R11, R84, R120, R131, R214, R357, R522). -/

namespace Sys2Proof.Machine

def State.request? (s : State) (tag : Nat) : Option Request := s.cmd.requests.find? fun r => r.tag = tag

/-- The command that a request belongs to. -/
def State.ownerFlight (s : State) (o : Owner) : Option Nat :=
  match o with
  | .piece n _ _ => (s.core n).eng.flight
  | .signal n _ => (s.core n).eng.flight
  | .awl n id _ => if (s.core n).eng.flight = some id then some id else none
  | .command id => some id
  | .control _ => none

/-- A tag is no longer awaited by a transfer; one that then awaits none is over. -/
def Transfer.answer (t : Transfer) (tag : Nat) : Option Transfer :=
  if !t.tags.contains tag then some t
  else
    let ts := t.tags.filter (· != tag)
    if ts = [] then none else some { t with tags := ts }

/-- A tag is no longer awaited by an instruction in flight. -/
def InFlight.answer (i : InFlight) (tag : Nat) : InFlight :=
  { i with open_ := i.open_.filterMap fun t => t.answer tag, owed := i.owed.filter (· != tag) }

/-- The read data of a transfer that awaits only this tag. -/
def Transfer.landing (t : Transfer) (tag : Nat) : List (Nat × List Byte) :=
  if t.tags.contains tag && (t.tags.filter (· != tag)).isEmpty then t.land else []

/-- A request of a block is over. The data of a FETCH lands when its last piece has been answered, so that no granule is torn (R112). -/
def State.pieceOver (s : State) (n e tag : Nat) : State :=
  let data := (((s.core n).eng.flyOf e).map fun i => (i.open_.map fun t => t.landing tag).flatten).flatten
  (s.landAll data).onEng n fun g => g.onFly e fun l => l.map fun i => i.answer tag

/-- The request is over: what waited for its tag waits no more. -/
def State.released (s : State) (r : Request) : State :=
  let s := s.dropRequest r.tag
  match r.owner with
  | .piece n e _ => s.pieceOver n e r.tag
  | .signal n _ => s.onEng n fun g => g.onFly 3 fun l => l.map fun i => i.answer r.tag
  | .awl n _ _ => s.onEng n fun g => { g with awls := g.awls.filter (· != r.tag) }
  | .command _ => s
  | .control c => s.controlAck c r.tag

/-- A command goes on once one of its requests has been answered. -/
def State.commandAnswered (s : State) (id tag : Nat) : State :=
  match s.flight? id with
  | none => s
  | some f =>
    if f.stage ≠ .running ∨ (f.branches.any fun b => b.tag == tag) then s
    else if f.opcode = 0x40 then s.moveSettle id
    else if f.opcode = 0x42 then s.onFlight id Flight.finish
    else s

/-- An acknowledgement (R11). -/
def State.acked (s : State) (r : Request) : State :=
  let s := s.released r
  match r.owner with
  | .command id => s.commandAnswered id r.tag
  | _ => s

/-- Read data of a piece joins its transfer. -/
def Transfer.keep (t : Transfer) (tag pos : Nat) (data : List Byte) : Transfer :=
  if t.tags.contains tag then { t with land := t.land ++ [(pos, data)] } else t

/-- The T1 offset of an instruction in flight, and its engine. -/
def State.pcOf (s : State) (n e iid : Nat) : Option Nat :=
  (((s.core n).eng.flyOf e).find? fun i => i.iid = iid).map InFlight.pc

/-- The data of a read arrives: it waits with its transfer for the pieces still to come, or lands at its place in a MOVE that still runs. -/
def State.landData (s : State) (r : Request) (pos : Nat) (data : List Byte) : State :=
  match r.owner with
  | .command id =>
    match s.flight? id with
    | some f => if f.stage = .running then s.moveTake id pos data else s
    | none => s
  | .piece n e iid => s.onEng n fun g => g.onFly e fun l => l.map fun i =>
      if i.iid = iid then { i with open_ := i.open_.map fun t => t.keep r.tag pos data } else i
  | _ => s

/-- The request of an instruction is refused: the instruction raises no signal, and its core stops. -/
def State.pieceRefused (s : State) (n e iid code : Nat) : State :=
  match s.pcOf n e iid with
  | none => s
  | some pc =>
    (s.onEng n fun g => g.onFly e fun l => l.map fun i => if i.iid = iid then { i with cut := true } else i).coreRefused n e code pc

/-- A class 2 refusal discards the work of the chip, and ends the fan-out branch that it answers (R32, R443, R522). One that comes during a
discard joins it: the command keeps the code of the first event (R444). `quiet`: this chip's own port was lost, and that is logged. -/
def State.refusedClass2 (s : State) (own : Option Nat) (tag code : Nat) (quiet : Bool) : State :=
  let s := if quiet then s else match own.bind s.flight? with
    | some f => s.logError code f.queue f.scope f.tagWord
    | none => s.logError code 0 false 0#32
  let branch := s.branchOf tag
  let s := s.startDiscard code own none
  match branch with
  | some (f, b) => s.onFlight f.id fun f => { f with branches := f.branches.filter fun x => x.tag ≠ b.tag }
  | none => s

/-- A refusal with a class 1 code ends the request at its source (R131, R357, R522). `unit` is the chip that refuses. -/
def State.refusedClass1 (s : State) (r : Request) (code : Nat) (unit : Word) : State :=
  match r.owner with
  | .piece n e iid => s.pieceRefused n e iid code
  | .signal n iid => s.pieceRefused n 3 iid code
  | .awl n id pc => if (s.core n).eng.flight = some id then s.coreRefused n 3 code pc else s
  | .command id =>
    match s.branchOf r.tag with
    | some (f, b) => s.endBranch f b code 0 unit 0#32
    | none => s.endCommand id code 0#32
  | .control _ => s

/-- A refusal. -/
def State.refused (s : State) (r : Request) (code : Nat) (unit : Word) (quiet : Bool := false) : State :=
  let own := s.ownerFlight r.owner
  let s := s.released r
  if errClass code = 2 then s.refusedClass2 own r.tag code quiet else s.refusedClass1 r code unit

end Sys2Proof.Machine
end

