-- ==== Sys2Proof/Machine/Links.lean ====
section
/-! DEFINITION. The link ports: frames, credits and retry, training, the plan check, loss, and the forwarding of messages (R355 to R376,
R522). -/

namespace Sys2Proof.Machine

/-! ### Registers of a port (R375, R376) -/

def State.portEn (s : State) (p : Nat) : Bool := (s.stg (pageLink p + 0x100)).getLsbD 0
def State.portHalfOk (s : State) (p : Nat) : Bool := (s.stg (pageLink p + 0x100)).getLsbD 1
def State.portVerMax (s : State) (p : Nat) : Nat := (s.stg (pageLink p + 0x100)).toNat / 4 % 4
def State.retryLimit (s : State) (p : Nat) : Nat := (s.stg (pageLink p + 0x110)).toNat % 2 ^ 8

/-- The version a port has trained at. -/
def State.portVer (s : State) (p : Nat) : Nat := (s.reg (pageLink p + 0x40)).toNat / 2 ^ 5 % 4

/-- A port whose lanes are trained: UP or HELD. -/
def State.trained (s : State) (p : Nat) : Bool := s.portState p == 2 || s.portState p == 3

def allPorts : List Nat := [0, 1, 2, 3, 4, 5, 6, 7, 8, 9, 10, 11, 12, 13, 14, 15, 16, 17]

/-- Flits that a VC buffer holds (R360); a v1 port carries VCs 0 to 2 only (R364). -/
def vcBuffer (ver vc : Nat) : Nat := if ver = 1 ∧ 2 < vc then 0 else if vc < 4 then 256 else 64

/-- The content of a port's records has changed (R359). -/
def State.noteChange (s : State) (p : Nat) : State := s.onPort p fun x => { x with changed := true }

/-! ### The plan check (R369) -/

/-- Serial and port that the plan expects at a port; none where it leaves the port unconnected. -/
def State.planPeer (s : State) (p : Nat) : Option (Nat × Nat) :=
  let w := (s.stg (pageLink p + 0x10C)).toNat
  if w / 2 ^ 25 % 2 = 1 then some (s.stg2 (pageLink p + 0x104), w / 2 ^ 20 % 32) else none

/-- Serial and port that a trained port has received. -/
def State.seenPeer (s : State) (p : Nat) : Nat × Nat :=
  ((s.reg (pageLink p + 0x44)).toNat + (s.reg (pageLink p + 0x48)).toNat * 2 ^ 32, (s.reg (pageLink p + 0x4C)).toNat / 2 ^ 20 % 32)

/-- STATE of a port's check. -/
def State.planState (s : State) (p : Nat) : Nat :=
  match s.planPeer p, s.trained p with
  | some e, true => if e = s.seenPeer p then 0 else 2
  | some _, false => 1
  | none, true => 3
  | none, false => 4

/-- The port of the chip's own plan that expects what port p sees. -/
def State.foundAt (s : State) (p : Nat) : Option Nat :=
  if s.planState p = 2 ∨ s.planState p = 3 then allPorts.find? fun q => q != p && s.planPeer q == some (s.seenPeer p) else none

/-- LINK_PLAN_STAT after the check. -/
def State.planStat (s : State) (p : Nat) : Word :=
  let f := s.foundAt p
  let w := match f with
    | some q => if s.foundAt q = some p then q else 0x1F
    | none => 0x1F
  BitVec.ofNat 32 (s.planState p + f.getD 0x1F * 2 ^ 8 + w * 2 ^ 16)

/-- Put a port into or out of service as its check, its peer's report and its hold say. One that is UP stays so whatever its peer reports
(R373); its own check can hold it. A reserve port that comes into service for the first time since its training greets its appliance (R216). -/
def State.serve (s : State) (p : Nat) : State :=
  if !s.trained p then s
  else
    let x := s.port p
    let own := s.planned && (s.reg (pageLink p + 0x50)).toNat % 8 == 0
    if own && (s.portState p == 2 || (x.peerState == some 0 && !x.hold)) then
      if s.portState p = 2 then s
      else
        let s := s.setPortState p 2
        let s := if 16 ≤ p && !(s.resPort (p - 16)).greeted then
            (s.onResPort (p - 16) fun r => { r with greeted := true }).sendRes (p - 16) 0x10 0 0 0 []
          else s
        s.drainPort p
    else s.setPortState p 3

/-- Store a port's new LINK_PLAN_STAT, and report a mismatch or a swap that it newly shows. -/
def State.setPlanStat (s : State) (p : Nat) (w : Word) : State :=
  let o := pageLink p + 0x50
  if s.reg o = w then s
  else
    let s := (s.setReg o w).noteChange p
    let st := w.toNat % 8
    if st = 2 ∨ st = 3 then s.advisory (eLink p (if w.toNat / 2 ^ 16 % 32 = 0x1F then 3 else 4)) 0 none else s

/-- The plan check of every port. Without a plan no port is checked, and none is in service. -/
def State.planCheck (s : State) : State :=
  let t := s
  let s := allPorts.foldl (fun s p =>
    if t.planned then s.setPlanStat p (t.planStat p) else s.setReg (pageLink p + 0x50) (regReset (pageLink p + 0x50))) s
  allPorts.foldl State.serve s

/-! ### Frames (R355, R358, R359) -/

def frameTag (f : Frame) : Nat := f.seq.toNat + f.vc.toNat * 2 ^ 8 + f.fill * 2 ^ 12 + (if f.ctrl then 2 ^ 17 else 0)

/-- The CRC that a frame's flits and tag call for. -/
def frameCrc (f : Frame) : BitVec 16 :=
  crc16 (((f.flits ++ List.replicate (20 - f.flits.length) 0#512).map flitBytes).flatten ++ bytesOf 3 (frameTag f))

/-- Discard a frame and ask for the one expected (R358). -/
def State.askAgain (s : State) (p : Nat) : State :=
  if (s.port p).nakOpen then s else s.onPort p fun x => { x with nakOpen := true, changed := true }

/-- Take a frame that came in sequence: its flits leave the receive buffer, and its credits return. -/
def State.takeFrame (s : State) (p : Nat) (f : Frame) : State :=
  (s.onPort p fun x => { x with
    rxSeq := (x.rxSeq + 1) % 256, nakOpen := false, changed := true, freed := modify noCount x.freed f.vc.toNat (· + f.fill) }).bump64
    (pageLink p + 0x78) f.fill

/-- Count what the decoder has corrected, on the port and on each lane, and what it could not (R375). -/
def State.countFec (s : State) (p : Nat) (r : FecReport) : State :=
  let s := (s.bump64 (pageLink p + 0x58) r.lanes.sum).bump (pageLink p + 0x60) r.bad
  (r.lanes.zipIdx).foldl (fun s (n, i) =>
    let o := pageLink p + 0x200 + 4 * i
    let w := (s.reg o).toNat
    s.setReg o (BitVec.ofNat 32 (w % 2 ^ 16 + min (w / 2 ^ 16 + n) 0xFFFF * 2 ^ 16))) s

/-- FRAME_RECEIVE (R354, R355, R358). A HELD port takes control frames only (R369); what their records say comes as commands of their own. A
frame that fails its CRC there is counted like any (R375), and asks for no replay. -/
def execFrameReceive (p : Fin 18) (f : Frame) (fec : FecReport) (s : State) : Out :=
  if !fecOk fec then .fault .illFormed
  else if !s.trained p || s.fatal then .next s
  else
    let s := s.countFec p fec
    let up := s.portState p == 2
    if fec.bad ≠ 0 then .next (if up then s.askAgain p else s)
    else if frameCrc f ≠ f.crc then .next (if up then (s.bump (pageLink p + 0x64)).askAgain p else s.bump (pageLink p + 0x64))
    else if f.ctrl || f.fill == 0 || !up then .next s
    else if f.seq.toNat = (s.port p).rxSeq then .next (s.takeFrame p f)
    else .next (s.askAgain p)

/-- Split a replay buffer after the frame of a sequence number; none where it holds no such frame. -/
def splitAfter (seq : Nat) : List Frame → Option (List Frame × List Frame)
  | [] => none
  | f :: r =>
    if f.seq.toNat = seq then some ([f], r)
    else (splitAfter seq r).map fun x => (f :: x.1, x.2)

/-- Is a message sent whole, and its last frame among these? -/
def LinkMsg.endedBy (m : LinkMsg) (gone : List Frame) : Bool :=
  m.flits.isEmpty && match m.last with
    | some k => gone.any fun f => f.seq.toNat == k
    | none => false

/-- The peer has these frames: they leave the replay buffer, and the messages that they end leave the port. -/
def Port.acknowledge (x : Port) (gone rest : List Frame) : Port :=
  { x with
    replay := rest
    tries := gone.foldl (fun t f => store noCount t f.seq.toNat 0) x.tries
    msgs := x.msgs.filter fun m => !m.endedBy gone }

/-- Take an acknowledgement at a port: the collective engine hears of the chunks that it forwarded (R317). -/
def State.framesAcked (s : State) (p : Nat) (gone rest : List Frame) : State :=
  let ms := ((s.port p).msgs.filter fun m => m.endedBy gone).filter fun m => m.vc == 2 && m.type != 0
  ms.foldl (fun s m => s.forwardAcked m.tag (m.type - 1)) (s.onPort p fun x => x.acknowledge gone rest)

/-- FRAME_ACK (R358, R359). -/
def execFrameAck (p : Fin 18) (seq : Byte) (s : State) : Out :=
  if !s.trained p || s.fatal then .next s
  else match splitAfter seq.toNat (s.port p).replay with
    | none => .next s
    | some (gone, rest) => .next ((s.framesAcked p gone rest).drainPort p)

/-! ### Loss (R363, R522) -/

/-- Laces that use a port. -/
def State.lacesOn (s : State) (p : Nat) : List Nat :=
  allLaces.filter fun l => (s.lace l).valid && ((s.lace l).nextPort == p || (s.lace l).prevPort == p)

/-- Record and log the loss of a lace's port for a command (R450). -/
def State.laneLost (s : State) (code more id : Nat) : State :=
  let s := s.recordCode code more
  let s := match s.flight? id with
    | some f => s.logError code f.queue f.scope f.tagWord
    | none => s.logError code 0 false 0#32
  s.onFlight id fun f => f.fail code s.unit 0#32

/-- The circulation and collective engines report a lost port for their own commands. -/
def State.lanesLost (s : State) (p : Nat) : State :=
  (s.lacesOn p).foldl (fun s l =>
    let s := match s.circRun? l with
      | some r => s.laneLost eCircLinkLost (l * 2 ^ 16) r.flight
      | none => s
    let s := (s.circ.merges.filter fun r => r.exchanges && r.lace == l).foldl (fun s r => s.laneLost eCircLinkLost (l * 2 ^ 16) r.flight) s
    match s.collRun? l with
    | some r => s.laneLost eCollLinkLost (r.errMore l) r.flight
    | none => s) s

/-- What a port forgets when it leaves service: frames, credits and sequence numbers. -/
def Port.cleared (x : Port) : Port := { Port.reset with hold := x.hold, notes := x.notes, changed := true }

/-- No lane of a port is locked or in use (R375). -/
def State.clearLanes (s : State) (p : Nat) : State :=
  (List.range 16).foldl (fun s i => let o := pageLink p + 0x200 + 4 * i; s.setReg o (s.reg o &&& 0xFFFF0000#32)) s

/-- A port leaves service or loses its lock: one that was in service, or is lost, is held when it has trained again. -/
def State.leavePort (s : State) (p : Nat) (lost : Bool) : State :=
  let up := decide (s.portState p = 2) || lost
  (s.onPort p fun x => { x.cleared with hold := x.hold || up }).clearLanes p

/-- Start the training of a port. -/
def State.startTraining (s : State) (p : Nat) (lost : Bool) : State := (s.leavePort p lost).train p

/-- Refuse a request message that a lost port held: to its source, or to this chip's own request. -/
def State.refuseHeld (s : State) (code : Nat) (m : LinkMsg) : State :=
  if m.src = s.chipId then match s.request? m.tag with
    | some r => s.refused r code s.unit true
    | none => s
  else (s.sendMsg 0x83 s.chipId m.src 0 m.tag 0 0 code [] []).1

/-- A port is lost: LINK_DOWN discards the work of the chip, every request message held is refused, and training starts again. -/
def State.losePort (s : State) (p : Nat) : State :=
  let held := (s.port p).msgs.filter fun m => m.vc = 0
  let s := (s.bump (pageLink p + 0x6C)).lanesLost p
  let s := s.startTraining p true
  let s := s.class2 (eLink p 1) 0 none
  let s := if p < 16 then held.foldl (fun s m => s.refuseHeld (eLink p 1) m) s else s.reserveLost (p - 16)
  s.planCheck

/-- LINK_LOSS (R363). -/
def execLinkLoss (p : Fin 18) (s : State) : Out := s.live (.next (if s.trained p then s.losePort p else s))

/-- Replay everything from the front of the buffer (R358). -/
def State.replayFrom (s : State) (p : Nat) : State :=
  let x := s.port p
  match x.replay with
  | [] => s.drainPort p
  | f :: _ =>
    if x.replay.any fun g => decide (s.retryLimit p ≤ look noCount x.tries g.seq.toNat) then s.losePort p
    else
      let s := s.onPort p fun x => { x with
        tries := x.replay.foldl (fun t g => modify noCount t g.seq.toNat (· + 1)) x.tries, since := x.since + x.replay.length }
      ((s.bump (pageLink p + 0x68) x.replay.length).send (.replay p f.seq.toNat x.replay.length)).drainPort p

/-- NAK (R358): frames before the expected SEQ are acknowledged by it, the others are sent again. -/
def execNak (p : Fin 18) (seq : Byte) (s : State) : Out :=
  if s.portState p ≠ 2 ∨ s.fatal then .next s
  else
    let x := s.port p
    let gone := match splitAfter ((seq.toNat + 255) % 256) x.replay with
      | some (g, r) => some (g, r)
      | none => if (x.replay.head?.map fun f => f.seq.toNat) = some seq.toNat then some ([], x.replay) else none
    match gone with
    | none => .next s
    | some (g, r) => .next ((s.framesAcked p g r).replayFrom p)

/-! ### Credits and control frames (R359, R360) -/

/-- LINK_CREDIT: a running total, so a lost record is repaired by the next. -/
def execLinkCredit (p : Fin 18) (vc : Fin 16) (total : Nat) (s : State) : Out :=
  if !s.trained p || s.fatal || decide (total ≤ look noCount (s.port p).granted vc) then .next s
  else .next ((s.onPort p fun x => { x with granted := store noCount x.granted vc total }).drainPort p)

/-- A record of 8 bytes: its kind, an index, and a value. -/
def ctlRecord (kind index value : Nat) : List Byte := bytesOf 1 kind ++ bytesOf 1 index ++ bytesOf 6 value

/-- The records that a port's control frame carries: acknowledgement, NAK, credits, identity word, the STATE of its check, and what the
circulation and collective engines have to say there (R359). -/
def State.ctlRecords (s : State) (p : Nat) : List Byte :=
  let x := s.port p
  let ver := s.portVer p
  ctlRecord 1 0 ((x.rxSeq + 255) % 256) ++ (if x.nakOpen then ctlRecord 2 0 x.rxSeq else []) ++
  ((List.range 16).map fun vc => ctlRecord 3 vc (vcBuffer ver vc + look noCount x.freed vc)).flatten ++
  ctlRecord 4 0 (s.chipId + p * 2 ^ 20 + s.portVerMax p * 2 ^ 25) ++ ctlRecord 4 1 (Config.serial.toNat % 2 ^ 48) ++
  ctlRecord 4 2 (Config.serial.toNat / 2 ^ 48) ++ ctlRecord 5 0 ((s.reg (pageLink p + 0x50)).toNat % 8) ++
  (x.notes.map Prod.snd).flatten

/-- Control frames for records of 8 bytes, eight to a flit. They are in no sequence and on no channel: SEQ and VC are 0. -/
def controlFrames (records : List Byte) : List Frame :=
  (blocksOf (ceilDiv records.length 1280) 1280 records).map fun b => mkFrame true 0 0 (flitsOf b)

/-- CONTROL_FRAME_SEND: after a change, or once in 32 frames. -/
def execControlFrameSend (p : Fin 18) (s : State) : Out :=
  let x := s.port p
  if !s.trained p || s.fatal || !(x.changed || decide (32 ≤ x.since)) then .next s
  else
    let t := s.onPort p fun x => { x with changed := false, since := 0 }
    .next { t with out := t.out ++ (controlFrames (s.ctlRecords p)).map (Sent.frame p) }

/-! ### Identity and training (R361, R362, R364, R369) -/

/-- Keep the peer's identity word. -/
def State.setPeer (s : State) (p : Nat) (w : Identity) : State :=
  ((s.setReg (pageLink p + 0x44) (w.serial.truncate 32)).setReg (pageLink p + 0x48) ((w.serial >>> 32).truncate 32)).setReg
    (pageLink p + 0x4C) (BitVec.ofNat 32 (w.chip.toNat + w.port.toNat * 2 ^ 20 + w.ver.toNat * 2 ^ 25))

/-- IDENTITY_WORD (R361, R369). -/
def execIdentityWord (p : Fin 18) (r : IdReport) (s : State) : Out :=
  if !s.trained p || s.fatal then .next s
  else match r with
    | .word w => .next (s.setPeer p w).planCheck
    | .state n => .next ((s.onPort p fun x => { x with peerState := some n.val }).serve p)

/-- Lanes in use. -/
def laneList : Width → List Nat
  | .full => List.range 16
  | .lower => List.range 8
  | .upper => (List.range 8).map (· + 8)

/-- LINK_TRAINED (R362): a half width that LINK_CFG does not allow is no training (R375), and a reserve port refuses v1 (R364). DESIGN CHOICE
(log 125): R361 gives a received VER of 0 or 3 no meaning; here a peer of VER 3 trains at VER_MAX, and one of VER 0 does not train. -/
def execLinkTrained (p : Fin 18) (w : Width) (peer : Identity) (s : State) : Out :=
  let pg := pageLink p
  let half := w != .full
  let ver := min peer.ver.toNat (s.portVerMax p)
  if s.portState p ≠ 1 || s.fatal || (half && !s.portHalfOk p) || ver == 0 then .next s
  else if 16 ≤ p.val ∧ ver = 1 then .next (s.advisory (eLink p 6) 0 none)
  else
    let status := 3 + (if half then 8 else 0) + (if w = .upper then 16 else 0) + ver * 2 ^ 5
    let s := (s.setPeer p peer).setReg (pg + 0x40) (BitVec.ofNat 32 status)
    let s := (List.range 16).foldl (fun s i =>
      let o := pg + 0x200 + 4 * i
      s.setReg o ((s.reg o &&& 0xFFFF0000#32) ||| (if (laneList w).contains i then 3#32 else 0#32))) s
    let s := s.setReg (pg + 8) (s.reg (pg + 8) &&& ~~~1#32)
    let s := s.onPort p fun x => { x.cleared with
      msgs := x.msgs, granted := (List.range 16).foldl (fun t vc => store noCount t vc (vcBuffer ver vc)) [] }
    let s := if half then s.advisory (eLink p 2) 0 none else s
    .next s.planCheck

/-- LINK_TRAIN_FAIL (R362). -/
def execLinkTrainFail (p : Fin 18) (s : State) : Out :=
  if s.portState p ≠ 1 ∨ s.fatal then .next s
  else .next (((s.setPortState p 0).setReg (pageLink p + 8) (s.reg (pageLink p + 8) &&& ~~~1#32)).advisory (eLink p 5) 0 none)

/-- LINK_TRAIN_RESTART (R362): while EN is 1. -/
def execLinkTrainRestart (p : Fin 18) (s : State) : Out :=
  .next (if s.portState p = 0 && s.portEn p && s.sec.stage == 4 && !s.fatal then s.train p else s)

/-- A write of BLK_CTRL.RETRAIN (R373, R376): a port that EN enables trains again; messages that it has not begun to send wait for it. -/
def State.retrain (s : State) (p : Nat) : State :=
  if !s.portEn p || s.portState p == 4 then s
  else
    let keep := (s.port p).msgs.filter fun m => m.flits.length == m.total
    let s := (s.startTraining p false).onPort p fun x => { x with msgs := keep }
    let s := if 16 ≤ p then s.reserveLost (p - 16) else s
    (s.setReg (pageLink p + 8) (s.reg (pageLink p + 8) ||| 1#32)).planCheck

def execRetrain (p : Fin 18) (s : State) : Out := s.live (.next (s.retrain p))

/-- A write of BLK_CTRL.RESUME (R363): a HELD port whose check passes again. -/
def State.resumePort (s : State) (p : Nat) : State :=
  if s.portState p ≠ 3 then s
  else
    let s := s.planCheck
    if s.planned && (s.reg (pageLink p + 0x50)).toNat % 8 == 0 then (s.onPort p fun x => { x with hold := false }).serve p else s

def execResume (p : Fin 18) (s : State) : Out := s.live (.next (s.resumePort p))

/-- The plan check that follows a commit lets a port that had left service come back (R373). -/
def State.planCheckCommit (s : State) : State :=
  let s := s.planCheck
  allPorts.foldl (fun s p =>
    if s.planned && (s.reg (pageLink p + 0x50)).toNat % 8 == 0 then (s.onPort p fun x => { x with hold := false }).serve p else s) s

/-! ### Forwarding (R357, R360, R370, R522) -/

/-- A request message that is discarded on its way is refused to its source. -/
def State.refuseTo (s : State) (src : Nat) (tag : Word) (code : Nat) : State :=
  (s.sendMsg 0x83 s.chipId src 0 tag.toNat 0 0 code [] []).1

def typeCode : MsgType → Nat
  | .write => 0x01
  | .read => 0x02
  | .signal => 0x03
  | .awl => 0x04
  | .fanout => 0x05
  | .ack => 0x81
  | .readData => 0x82
  | .refuse => 0x83
  | .merge => 0

/-- The virtual channel of a message that the route table carries (R356). -/
def channelOf (t : MsgType) : Nat :=
  match t with
  | .merge => 3
  | .ack => 1
  | .readData => 1
  | .refuse => 1
  | _ => 0

def isRequest (t : MsgType) : Bool := channelOf t == 0

/-- Does a message that came in on port a and leaves on port b go on along the same ring (R360)? -/
def sameRing (a b : Nat) : Bool := decide (a < 12 ∧ b < 12 ∧ a / 4 = b / 4)

/-- Put a link word into a header flit. -/
def withHops (f : Flit) (dst src hops flits : Nat) : List Flit :=
  flitsOf (slice (flitBytes f) 0 56 ++ bytesOf 8 (dst + src * 2 ^ 20 + hops * 2 ^ 40 + flits * 2 ^ 46))

/-- MESSAGE_FORWARD: the message's flits, header first. -/
def execMessageForward (t : MsgType) (m : Msg) (flits : List Flit) (s : State) : Out :=
  let src := m.src.toNat
  let dst := m.dst.toNat
  match flits with
  | [] => .fault .illFormed
  | h :: rest =>
    if s.heard m.port = false ∨ dst = s.chipId then .next s
    else if 63 ≤ m.hops then
      let s := if isRequest t then ((s.recordCode (eLink m.port 7) 0).logError (eLink m.port 7) 0 false 0#32).refuseTo src m.tag (eLink m.port 7)
        else (s.recordCode (eLink m.port 7) 0).logError (eLink m.port 7) 0 false 0#32
      .next s
    else match s.route src dst with
      | none => .next (if isRequest t then s.refuseTo src m.tag eAddrUnrouted else s)
      | some p =>
        let fl := withHops h dst src (m.hops + 1) flits.length ++ rest
        .next (s.transmit p ⟨channelOf t, typeCode t, m.tag.toNat, src, if sameRing m.port p then 1 else 2, fl.length, fl, none⟩)

end Sys2Proof.Machine
end

