-- ==== Sys2Proof/Machine/RegMap.lean ====
section
/-! DEFINITION. The register map: which offsets of the window hold a register, with what access and which bits (R486 to R491, R499, R500 and
the register tables of every block). -/

namespace Sys2Proof.Machine

/-- The access code of a register (R487), with the bits that are not reserved. -/
inductive RegKind where
  | none
  | ro
  | rw (mask : Word)
  | w1c (mask : Word)
  | wo
  | stg (mask : Word)
  deriving DecidableEq, Repr

/-- Bits [n-1:0]. -/
def low (n : Nat) : Word := BitVec.ofNat 32 (2 ^ n - 1)

def allOnes : Word := 0xFFFFFFFF#32

/-- Is `o` in an array of `n` registers from `a` at a stride? -/
def inArr (o a stride n : Nat) : Bool := decide (a ≤ o ∧ (o - a) % stride = 0 ∧ (o - a) / stride < n)

/-- Bits of BLK_ERR and BLK_ERR_EN of a block (R108, R135, R220, R305, R328, R348, R376, R377, R410, R413, R436, R499). -/
def errBits (b : Nat) : Nat :=
  if b = 0 ∨ b = 4 ∨ b = 5 then 14
  else if b = 1 ∨ b = 3 then 8
  else if b = 6 ∨ b = 7 then 10
  else if b = 0x0A then 5
  else if b = 0x0B then 11
  else if 0x10 ≤ b ∧ b < 0x18 then 9
  else if 0x20 ≤ b ∧ b < 0x32 then 9
  else 1

/-- Bits of BLK_CTRL of a block. -/
def ctrlBits (b : Nat) : Nat :=
  if b = 5 ∨ b = 0x0A ∨ (0x20 ≤ b ∧ b < 0x32) then 2 else if 0x10 ≤ b ∧ b < 0x18 then 4 else 0

/-- The common header (R489). -/
def headerKind (b o : Nat) : RegKind :=
  if o = 0x00 ∨ o = 0x04 ∨ o = 0x0C ∨ o = 0x18 then .ro
  else if o = 0x08 then .rw (low (ctrlBits b))
  else if o = 0x10 then .w1c (low (errBits b))
  else if o = 0x14 then .rw (low (errBits b))
  else if o = 0x1C then .rw 0xF#32
  else .none

/-- Reserved bits of the words of a group entry (R25). -/
def groupMask (w : Nat) : Word :=
  if w = 0 then low 21 else if w = 2 then low 15 else if w = 6 ∨ w = 7 then 0#32 else allOnes

/-- Reserved bits of the words of a lace entry (R273). -/
def laceMask (w : Nat) : Word :=
  if w = 0 then low 29 else if w = 1 then low 25 else if w = 2 ∨ w = 3 then low 20 else if w = 4 ∨ w = 5 then low 28
  else if w = 6 then low 30 else allOnes

/-- The global page (R450, R485, R499). -/
def globalKind (o : Nat) : RegKind :=
  if o = 0x40 ∨ o = 0x44 ∨ o = 0x50 ∨ o = 0x54 ∨ o = 0x64 ∨ o = 0x68 ∨ o = 0x6C ∨
      o = 0x70 ∨ o = 0x80 ∨ o = 0x84 ∨ o = 0x88 then .ro
  else if o = 0x58 ∨ o = 0x5C then .rw allOnes
  else if o = 0x60 then .wo
  else if o = 0x74 then .rw (low 16)
  else if o = 0x200 ∨ inArr o 0x208 4 5 then .ro
  else if o = 0x204 then .rw 1#32
  else if inArr o 0x400 4 128 ∨ inArr o 0x600 4 128 then .ro
  else if inArr o 0x800 4 5 then .ro
  else if o = 0x814 ∨ o = 0x828 then .wo
  else if o = 0x818 then .w1c (low 8)
  else if o = 0x81C ∨ o = 0x82C then .ro
  else if o = 0x820 then .rw allOnes
  else if o = 0x824 then .rw (low 10)
  else if inArr o 0x840 4 8 then .rw allOnes
  else if inArr o 0x860 4 7 then .ro
  else if inArr o 0x1000 4 8 then .ro
  else if inArr o 0x2000 4 2048 then .stg (groupMask ((o - 0x2000) / 4 % 8))
  else .none

/-- The power page (R435). -/
def powerKind (o : Nat) : RegKind :=
  if inArr o 0x40 4 11 ∨ inArr o 0x70 4 10 ∨ o = 0xA0 then .ro
  else if o = 0xA4 then .wo
  else if o = 0x100 then .stg (low 11)
  else if o = 0x104 then .stg (low 5)
  else if o = 0x108 then .stg (low 6)
  else if o = 0x10C then .stg (low 24)
  else if o = 0x110 then .stg (low 16)
  else if o = 0x114 ∨ o = 0x118 then .stg (low 7)
  else if o = 0x11C then .stg (low 15)
  else if inArr o 0x200 4 64 ∨ inArr o 0x300 4 32 ∨ inArr o 0x400 4 16 then .ro
  else .none

/-- The control cluster page (R410). -/
def controlKind (o : Nat) : RegKind := if inArr o 0x40 4 4 then .ro else .none

/-- The synchronisation page (R134). -/
def syncKind (o : Nat) : RegKind :=
  if o = 0x40 ∨ o = 0x44 ∨ inArr o 0x4C 4 5 ∨ o = 0x6C then .ro
  else if o = 0x48 then .rw (low 16)
  else if o = 0x60 ∨ o = 0x64 then .wo
  else if o = 0x68 then .rw (low 4)
  else if o = 0x100 then .stg (low 16)
  else if inArr o 0x200 4 128 ∨ inArr o 0x400 4 128 then .stg allOnes
  else if inArr o 0x1000 4 8192 then .ro
  else .none

/-- The T1 and reserve page (R219). -/
def memKind (o : Nat) : RegKind :=
  if inArr o 0x40 4 12 ∨ o = 0x74 ∨ o = 0x78 then .ro
  else if o = 0x70 then .wo
  else if inArr o 0x80 4 16 then .rw allOnes
  else if inArr o 0xC0 4 8 then .ro
  else if o = 0x100 then .stg allOnes
  else if o = 0x104 then .stg (low 10)
  else if o = 0x108 then .stg (low 17)
  else if o = 0x10C then .stg (low 8)
  else if o = 0x110 then .stg (low 2)
  else .none

/-- The circulation engine page (R304). -/
def circKind (o : Nat) : RegKind :=
  if inArr o 0x40 4 5 then .ro
  else if inArr o 0x100 4 48 then .stg (laceMask ((o - 0x100) / 4 % 8))
  else if o = 0x1C0 then .stg (low 16)
  else if inArr o 0x800 4 48 then .ro
  else .none

/-- The collective engine page (R327). -/
def collKind (o : Nat) : RegKind :=
  if inArr o 0x40 4 5 ∨ o = 0x58 ∨ o = 0x5C ∨ inArr o 0x60 4 12 ∨ inArr o 0xA0 4 6 ∨ inArr o 0xC0 4 12 then .ro
  else if o = 0x54 then .rw allOnes
  else if o = 0x100 then .stg (low 16)
  else .none

/-- A link port's page (R375). -/
def linkKind (o : Nat) : RegKind :=
  if inArr o 0x40 4 32 then .ro
  else if o = 0x100 then .stg (low 4)
  else if o = 0x104 ∨ o = 0x108 then .stg allOnes
  else if o = 0x10C then .stg (low 26)
  else if o = 0x110 then .stg (low 8)
  else if inArr o 0x200 4 16 then .ro
  else .none

/-- The link common page (R377). -/
def linksKind (o : Nat) : RegKind :=
  if o = 0x40 then .ro
  else if o = 0x100 then .stg (low 20)
  else if o = 0x104 then .stg (low 6)
  else if inArr o 0x1000 4 2048 then .stg (if o % 8 = 0 then allOnes else low 27)
  else .none

/-- A queue's registers on the host port page (R411). -/
def cqKind (o : Nat) : RegKind :=
  if o = 0x00 then .stg (low 17)
  else if o = 0x04 then .stg allOnes
  else if o = 0x08 then .stg (low 10)
  else if o = 0x0C then .stg (low 5)
  else if o = 0x10 ∨ o = 0x14 ∨ o = 0x18 then .stg allOnes
  else if o = 0x1C ∨ o = 0x20 ∨ o = 0x24 ∨ o = 0x28 then .ro
  else if o = 0x2C then .wo
  else .none

/-- Reserved bits of the words of a memory region. -/
def mrMask (w : Nat) : Word := if w = 2 then low 10 else if w = 5 then low 3 else if w = 6 ∨ w = 7 then 0#32 else allOnes

/-- The host port page (R411). -/
def hostKind (o : Nat) : RegKind :=
  if inArr o 0x40 4 7 ∨ o = 0x64 then .ro
  else if o = 0x60 then .wo
  else if inArr o 0x80 4 8 then .rw allOnes
  else if o = 0x100 then .stg (low 7)
  else if o = 0x104 ∨ o = 0x10C ∨ inArr o 0x110 4 4 ∨ o = 0x128 then .stg allOnes
  else if o = 0x108 ∨ o = 0x120 ∨ o = 0x124 ∨ o = 0x12C ∨ o = 0x130 then .stg (low 16)
  else if inArr o 0x200 4 64 then .stg allOnes
  else if inArr o 0x400 4 512 then .stg (mrMask ((o - 0x400) / 4 % 8))
  else if 0x1000 ≤ o ∧ o < 0x2000 ∧ o % 4 = 0 then cqKind (o % 0x40)
  else .none

/-- The scan and top-k page (R347). -/
def scanKind (o : Nat) : RegKind := if inArr o 0x40 4 8 ∨ inArr o 0x60 4 16 then .ro else .none

/-- A core's region: control page (R104), counter page (R136) and special function unit (R162). -/
def coreKind (o : Nat) : RegKind :=
  if inArr o 0x40 4 4 then .ro
  else if o = 0x50 then .rw (low 24)
  else if o = 0x54 then .rw (low 4)
  else if o = 0x58 then .rw allOnes
  else if o = 0x5C then .wo
  else if inArr o 0x60 4 24 ∨ inArr o 0xC0 4 3 ∨ inArr o 0x200 4 16 then .ro
  else if inArr o 0x1000 4 257 then .ro
  else if o = 0x2000 ∨ o = 0x200C ∨ o = 0x2010 ∨ o = 0x2018 ∨ o = 0x201C then .ro
  else if o = 0x2004 then .w1c 0x7F#32
  else if o = 0x2008 then .rw 0x7F#32
  else if o = 0x2020 ∨ o = 0x2024 then .rw allOnes
  else if o = 0x2100 then .stg (low 2)
  else if o = 0x2104 then .stg (low 14)
  else if inArr o 0x4000 4 4096 ∨ inArr o 0x10000 4 16384 then .rw allOnes
  else .none

/-- The offset of a window offset in its block's region. -/
def inBlock (b off : Nat) : Nat := off - (blockPage b).getD 0

/-- The register at a window offset. -/
def regKind (off : Nat) : RegKind :=
  match offsetBlock off with
  | none => .none
  | some b =>
    let o := inBlock b off
    if off % 4 ≠ 0 then .none
    else if o < 0x40 then headerKind b o
    else if b = 0 then globalKind o
    else if b = 1 then powerKind o
    else if b = 3 then controlKind o
    else if b = 4 then syncKind o
    else if b = 5 then memKind o
    else if b = 6 then circKind o
    else if b = 7 then collKind o
    else if b = 0x0A then hostKind o
    else if b = 0x0B then scanKind o
    else if b < 0x20 then coreKind o
    else if b = 0x3F then linksKind o
    else linkKind o

end Sys2Proof.Machine
end

