-- ==== Sys2Proof/Machine/Native.lean ====
section
/-! DEFINITION. The native special functions of the SFU (R147, R148). -/

namespace Sys2Proof.Machine

/-- What is known of a function's exact value: the value itself, an enclosure, or a value beside a dyadic number by less
than any representable step. -/
inductive Known where
  | point (v : Val)
  | within (i : Itv)
  | above (v : Val)
  | below (v : Val)
  deriving DecidableEq, Repr

/-- A value moved by an amount below every format's resolution, up or down the number line. -/
def nudge (up : Bool) (v : Val) : Val :=
  match v with
  | .num neg m e =>
    let d : Int := if up then 1 else -1
    Val.ofInt (Val.mant neg m 0 (-2400) + d) (e - 2400)
  | w => w

/-- The magnitude code at or below n/d (toward zero). -/
def floorCode (p : FloatFmt) (n d : Nat) : Nat :=
  if n = 0 then 0 else
  let emin : Int := 1 - (p.bias : Int)
  let k := floorLog2 n d
  let q := (if k < emin then emin else k) - (p.manBits : Int)
  (q - (emin - (p.manBits : Int))).toNat * 2 ^ p.manBits + n * Val.pow2 (-q) / (d * Val.pow2 q)

/-- A faithful FP32 rounding of a value known not to be representable: one of the two neighbours, by the free choice. -/
def faithful (up : Bool) (neg : Bool) (n d : Nat) : Conv :=
  let c := floorCode Fmt.fp32.float n d + (if up then 1 else 0)
  let c := if floorCode Fmt.fp32.float n d > maxCode Fmt.fp32.float then maxCode Fmt.fp32.float + 1 else c
  ⟨signBit .fp32 neg + c, false⟩

/-- Round what is known of a result to the output format (R148). -/
def roundKnown (f : Fmt) (up : Bool) (k : Known) : Conv :=
  match k with
  | .point v => convert f v
  | .within i =>
    if f = .fp32 then faithful up (decide (i.lo + i.hi < 0)) (2 * (i.lo + i.hi).natAbs) (4 * 2 ^ prec)
    else roundItv! f i
  | .above v =>
    match nudge true v with
    | .num neg m e =>
      if f = .fp32 then faithful up neg (m * Val.pow2 e) (Val.pow2 (-e)) else convert f (.num neg m e)
    | w => convert f w
  | .below v =>
    match nudge false v with
    | .num neg m e =>
      if f = .fp32 then faithful up neg (m * Val.pow2 e) (Val.pow2 (-e)) else convert f (.num neg m e)
    | w => convert f w

/-- |x| ≥ b for a finite x. -/
def atLeast (x : Val) (b : Nat) : Bool := !(Val.lt x.abs (.num false b 0))

def itvOf : Val → Itv
  | .num neg m e => Itv.ofDyadic neg m e
  | _ => ⟨0, 0⟩

/-- 1/(1 + e^(−t)) for an enclosure t with |t| ≤ 700. -/
def sigmoidItv (t : Itv) : Itv := (Itv.exact Itv.one).divPos ((Itv.exact Itv.one).add (Itv.exp t.neg))

/-- √(2/π)·(x + 0.044715·x³), with exact constants (R147). -/
def geluInner (x : Val) : Itv :=
  let cube := Val.mul x (Val.mul x x)
  let poly := (itvOf x).add ((itvOf cube).mul (Itv.ofRat 44715 1000000))
  poly.mul (Itv.sqrt ((Itv.exact (2 * Itv.one)).divPos Itv.pi))

/-- The functions of R147 on a finite non-zero argument. -/
def nativeFinite (fn : Nat) (x : Val) : Known :=
  let neg := x.isNeg
  let xi := itvOf x
  match fn with
  | 0 => if atLeast x 20 then (if neg then .below .negZero else .below x)
         else .within ((xi.mul ((Itv.exact Itv.one).add (Itv.erf (xi.mul (Itv.sqrt (Itv.ofRat 1 2)))))).shift (-1))
  | 1 => if atLeast x 20 then (if neg then .below .negZero else .below x)
         else .within (xi.mul (sigmoidItv ((geluInner x).shift 1)))
  | 2 => if atLeast x 600 then (if neg then .below .negZero else .below x)
         else .within (xi.mul (sigmoidItv xi))
  | 3 => if atLeast x 14 then (if neg then .above (.num true 1 0) else .below (.num false 1 0))
         else .within (Itv.erf xi)
  | 4 => if atLeast x 600 then (if neg then .above .zero else .point (.num false 1 900)) else .within (Itv.exp xi)
  | 5 => match x with
    | .num _ m e =>
      if atLeast x 900 then (if neg then .above .zero else .point (.num false 1 900))
      else if m % Val.pow2 (-e) = 0 then
        .point (.num false 1 (Val.mant neg (m / Val.pow2 (-e)) (if e < 0 then 0 else e) 0))
      else .within (Itv.exp (xi.mul Itv.ln2))
    | _ => .point .nan
  | 6 => if neg then .point .nan
         else match x with
          | .num _ m e =>
            if m * Val.pow2 e = Val.pow2 (-e) then .point .zero else .within (Itv.log xi)
          | _ => .point .nan
  | 7 => match x with
    | .num _ m e =>
      if m = 2 ^ Nat.log2 m then .point (.num neg 1 (-(Nat.log2 m : Int) - e))
      else .within (let i := Itv.ofRat (Val.pow2 (700 - e) : Nat) (m * Val.pow2 (e - 700))
                    (if neg then i.neg else i).shift (-700))
    | _ => .point .nan
  | 8 => if neg then .point .nan
         else match x with
          | .num _ m e =>
            let t := (Nat.log2 m : Int) + e
            if m = 2 ^ Nat.log2 m ∧ t % 2 = 0 then .point (.num false 1 (-(t / 2)))
            else .within (Itv.sqrt (Itv.ofRat (Val.pow2 (-e) : Nat) (m * Val.pow2 e)))
          | _ => .point .nan
  | 9 => if atLeast x 300 then (if neg then .above (.num true 1 0) else .below (.num false 1 0))
         else
          let e2 := Itv.exp (xi.shift 1)
          .within ((e2.sub (Itv.exact Itv.one)).divPos (e2.add (Itv.exact Itv.one)))
  | 10 => if atLeast x 600 then (if neg then .above .zero else .below (.num false 1 0)) else .within (sigmoidItv xi)
  | _ => if atLeast x 600 then (if neg then .above .zero else .above x)
         else .within (Itv.log ((Itv.exact Itv.one).add (Itv.exp xi)))

/-- The special values of R147, on zeros, infinities and NaN. -/
def nativeSpecial (fn : Nat) (x : Val) : Known :=
  match x with
  | .nan => .point .nan
  | .inf neg =>
    match fn with
    | 0 | 1 | 2 => .point (if neg then .negZero else .inf false)
    | 3 | 9 => .point (.num neg 1 0)
    | 4 | 5 | 11 => .point (if neg then .zero else .inf false)
    | 6 => .point (if neg then .nan else .inf false)
    | 7 => .point (.num neg 0 0)
    | 8 => .point (if neg then .nan else .zero)
    | _ => .point (if neg then .zero else .num false 1 0)
  | .num neg _ _ =>
    match fn with
    | 0 | 1 | 2 | 3 | 9 => .point (.num neg 0 0)
    | 4 | 5 => .point (.num false 1 0)
    | 6 => .point (.inf true)
    | 7 | 8 => .point (.inf neg)
    | 10 => .point (.num false 1 (-1))
    | _ => .within Itv.ln2

/-- One element of an SFU instruction (R147, R148): function code below 12, source value, output format, free choice. -/
def native (fn : Nat) (f : Fmt) (up : Bool) (x : Val) : Conv :=
  roundKnown f up (if x.isFinite && !x.isZero then nativeFinite fn x else nativeSpecial fn x)

end Sys2Proof.Machine
end

