-- ==== Sys2Proof/Machine/SfuOps.lean ====
section
/-! DEFINITION. The special function unit: SFU, UPROG, SFU_SWAP (R147 to R159, R164). -/

namespace Sys2Proof.Machine

def Sfu.bank (u : Sfu) (i : Bool) : SfuBank := if i then u.bank1 else u.bank0

/-- The active bank (R154). -/
def Sfu.live (u : Sfu) : SfuBank := u.bank u.active

def Sfu.shadow (u : Sfu) : SfuBank := u.bank (!u.active)

def Sfu.setShadow (u : Sfu) (b : SfuBank) : Sfu := if u.active then { u with bank0 := b } else { u with bank1 := b }

def SfuBank.word (b : SfuBank) (i : Nat) : Word := look noWord b.prog i
def SfuBank.table (b : SfuBank) (i : Nat) : Word := look noWord b.tab i

/-! ### Native functions -/

structure SfuInstr where
  dst   : Nat
  src   : Nat
  tile  : Nat
  tally : Bool
  fn    : Nat

def SfuInstr.of (w : Nat) : SfuInstr :=
  { dst := 64 * bitsOf w 19 0, src := 64 * bitsOf w 39 20, tile := bitsOf w 22 20, tally := bitsOf w 40 40 = 1,
    fn := bitsOf w 47 41 }

/-- The table word of function f's directory (R158). -/
def State.compatBase (s : State) (n f : Nat) : Nat := (s.stg (pageCore n + 0x2104)).toNat % 2 ^ 14 + 64 * f

def State.compatMissing (s : State) (n f : Nat) : Bool :=
  (s.core n).sfu.compat && (s.core n).sfu.live.table (s.compatBase n f) != 1#32

def sfuCheck (w n : Nat) (s : State) : Option Nat :=
  let i := SfuInstr.of w
  match s.shape n with
  | none => some (eCore n 1)
  | some h =>
    if !h.ok i.tally || h.fmtD.isMx || h.fmtD.isInt then some (eCore n 1)
    else if !wsFits i.dst (h.extent h.fmtD) || (!i.tally && !wsFits i.src (h.extent h.fmtA)) then some (eCore n 6)
    else if s.compatMissing n i.fn then some (eSfu n 4)
    else none

/-- A piecewise-linear evaluation (R159). Where no segment bound lies at or below the clamped input (the bounds do not ascend), the
segment is a free value. -/
def compatElem (b : SfuBank) (base : Nat) (f : Fmt) (x : Val) : Conv :=
  if x.isNan then convert f .nan
  else
    let t (i : Nat) : Val := f32 (b.table (base + i))
    let xc := (x.max (t 1)).min' (t 17)
    let sg := ((List.range 16).reverse.find? fun i => !(Val.lt xc (t (1 + i))) && !xc.isNan && !(t (1 + i)).isNan)
    let i := sg.getD (Config.compatSegment ((List.range 17).map fun i => b.table (base + 1 + i)) (toF32 xc)).toNat
    convert f (rne ((t (18 + 2 * i)).add ((t (19 + 2 * i)).mul xc)))

/-- A number that stands for an input value, for the free choice of R148. -/
def valKey (v : Val) : Nat :=
  match v with
  | .num neg m e => 2 * (m * 2 ^ 16 + (e + 2 ^ 15).toNat) + (if neg then 1 else 0)
  | _ => 0

def fmtCode (f : Fmt) : Nat :=
  match f with
  | .fp32 => 0 | .bf16 => 1 | .fp16 => 2 | .e4m3 => 3 | .e5m2 => 4 | .mxE3m2 => 5 | .mxE2m3 => 6 | .mxE2m1 => 7 | .int8 => 8
  | .int32 => 9 | .mx16 => 10

/-- One element of an SFU instruction (R148, R158). -/
def State.sfuElem (s : State) (n : Nat) (i : SfuInstr) (h : Shape) (x : Val) : Conv :=
  let u := (s.core n).sfu
  if u.compat then compatElem u.live (s.compatBase n i.fn) h.fmtD x
  else native i.fn h.fmtD (Config.faithfulUp i.fn (fmtCode h.fmtA) (valKey x)) x

def State.sfuRow (s : State) (n : Nat) (i : SfuInstr) (h : Shape) (r : Nat) : List (Nat × List Byte) × Nat :=
  let xs := if i.tally then h.tallyRow s n i.tile r else h.srcRow s n h.fmtA i.src r
  let cs := xs.map (s.sfuElem n i h)
  ([(r * h.stride h.fmtD, (cs.map fun c => bytesOf (h.fmtD.bits / 8) c.bits).flatten)], (cs.filter Conv.sat).length)

def State.sfu (s : State) (n w : Nat) : State :=
  let i := SfuInstr.of w
  match s.shape n with
  | none => s
  | some h =>
    s.writeRows n i.dst ((List.range h.rows).map (s.sfuRow n i h))

def execSfu (c : Fin 8) (s : State) : Out :=
  .next (s.issue c 2 0x43 (fun w => sfuCheck w c) fun w _ _ s => s.sfu c w)

/-! ### Micro-programs (R149 to R153) -/

/-- A lane: u0 to u7, k, the input, and the saturations counted so far (R44). -/
structure Lane where
  u     : List Word
  k     : Int
  input : Word
  sats  : Nat

def Lane.get (l : Lane) (i : Nat) : Val := f32 (l.u.getD i 0#32)
def Lane.put (l : Lane) (i : Nat) (v : Val) : Lane := { l with u := l.u.set i (toF32 v) }

/-- k saturates at its limits (R152). -/
def satK (i : Int) : Int := max (-(2 ^ 31 : Int)) (min (2 ^ 31 - 1) i)

/-- The outcome of a step: go on, end with u[A] and the saturations counted, or an SFU code. -/
inductive StepRes where
  | go (l : Lane)
  | done (v : Val) (sats : Nat)
  | err (code : Nat)

/-- A table word, or SFU_TABLE_RANGE. -/
def tableAt (b : SfuBank) (i : Nat) (f : Val → StepRes) : StepRes := if 16383 < i then .err 2 else f (f32 (b.table i))

/-- Horner's rule from table word `i` for degree d, the coefficients i + 1 onward (HORN). -/
def horner (b : SfuBank) (x : Val) (i : Nat) : Nat → Val → Val
  | 0, p => p
  | d + 1, p => horner b x (i + 1) d (rne ((p.mul x).add (f32 (b.table (i + 1)))))

/-- Conditions of SEL; none for a reserved one. -/
def selCond (b : SfuBank) (imm : Nat) (x : Val) : Option Bool :=
  let t := f32 (b.table (bitsOf imm 16 3))
  match bitsOf imm 2 0 with
  | 0 => some x.isNan
  | 1 => some (x == .inf false)
  | 2 => some (x == .inf true)
  | 3 => some x.isNeg
  | 4 => some (Val.lt x.abs t)
  | 5 => some (!x.isNan && !t.isNan && !Val.lt x.abs t)
  | _ => none

/-- One step (R152). -/
def laneStep (b : SfuBank) (w : Nat) (l : Lane) : StepRes :=
  let d := bitsOf w 27 25
  let imm := bitsOf w 18 0
  let a := l.get (bitsOf w 24 22)
  let v := l.get (bitsOf w 21 19)
  let i := bitsOf imm 13 0
  match bitsOf w 31 28 with
  | 0x0 => .done a l.sats
  | 0x1 =>
    if 16383 < i + 2 then .err 2 else
    let t (j : Nat) : Val := f32 (b.table (i + j))
    let c := convert .int32 (rne (a.mul (t 0)))
    let k := decodeInt 32 c.bits
    let kv := Val.ofInt k 0
    .go { l.put d (rne ((rne (a.sub (kv.mul (t 1)))).sub (kv.mul (t 2)))) with k := k, sats := l.sats + if c.sat then 1 else 0 }
  | 0x2 => .go { l with k := satK ((bitsOf (l.u.getD (bitsOf w 24 22) 0#32).toNat 31 (bitsOf imm 4 0) % 2 ^ bitsOf imm 9 5 : Nat)) }
  | 0x3 => tableAt b (i + (l.k % (2 ^ bitsOf imm 18 14 : Nat)).toNat) fun t => .go (l.put d t)
  | 0x4 =>
    let n := bitsOf imm 17 14
    if n = 0 then .err 1 else if 16383 < i + n then .err 2 else .go (l.put d (horner b a i n (f32 (b.table i))))
  | 0x5 => .go (l.put d (a.scale l.k))
  | 0x6 => match selCond b imm (f32 l.input) with
    | some c => .go (l.put d (if c then a else v))
    | none => .err 1
  | 0x7 => .go (l.put d (f32 (b.table i)))
  | 0x8 => .go (l.put d (a.add v))
  | 0x9 => .go (l.put d (a.mul v))
  | 0xA => .go (l.put d ((a.mul v).add (l.get d)))
  | 0xB => .go (l.put d (a.max v))
  | 0xC => .go (l.put d (a.min' v))
  | 0xD => .go { l with k := satK (l.k + decodeInt 19 imm) }
  | _ => .err 1

/-- Run a lane from a program word with `n` counted steps left; HORN counts once for each degree (R149).
DESIGN CHOICE (log 133): the step past word 4,095 is reported as word 0 (R161). -/
def laneRun (b : SfuBank) : Nat → Nat → Nat → Lane → Except (Nat × Nat) (Val × Nat)
  | 0, _, pc, _ => .error (3, pc)
  | fuel + 1, n, pc, l =>
    if 4095 < pc then .error (3, pc % 4096)
    else
      let w := (b.word pc).toNat
      let cost := if bitsOf w 31 28 = 4 then max 1 (bitsOf w 17 14) else 1
      if n < cost then .error (3, pc)
      else match laneStep b w l with
        | .err c => .error (c, pc)
        | .done v k => .ok (v, k)
        | .go l => laneRun b fuel (n - cost) (pc + 1) l

/-- A micro-program on one element (R149): its result, and the saturations of its RED steps.
DESIGN CHOICE (log 132): an input with no exact FP32 value is rounded to FP32. -/
def microprogram (b : SfuBank) (entry : Nat) (x : Val) : Except (Nat × Nat) (Val × Nat) :=
  laneRun b 33 32 entry ⟨toF32 x :: List.replicate 7 0#32, 0, toF32 x, 0⟩

/-- All elements of a row, or the first error. -/
def microRow (b : SfuBank) (entry : Nat) : List Val → Except (Nat × Nat) (List (Val × Nat))
  | [] => .ok []
  | x :: xs => match microprogram b entry x with
    | .error e => .error e
    | .ok v => match microRow b entry xs with
      | .error e => .error e
      | .ok vs => .ok (v :: vs)

structure Uprog where
  dst   : Nat
  src   : Nat
  entry : Nat

def Uprog.of (w : Nat) : Uprog := ⟨64 * bitsOf w 19 0, 64 * bitsOf w 39 20, bitsOf w 51 40⟩

def uprogCheck (w n : Nat) (s : State) : Option Nat :=
  let i := Uprog.of w
  match s.shape n with
  | none => some (eCore n 1)
  | some h =>
    if h.fmtD.isMx && h.len % h.fmtD.block != 0 then some (eCore n 1)
    else if !wsFits i.dst (h.extent h.fmtD) || !wsFits i.src (h.extent h.fmtA) then some (eCore n 6)
    else none

/-- The rows of a UPROG, from row r for `k` rows, or the first error. -/
def State.uprogRows (s : State) (n : Nat) (i : Uprog) (h : Shape) : Nat → Nat → Except (Nat × Nat) (List (List (Nat × List Byte) × Nat))
  | 0, _ => .ok []
  | k + 1, r =>
    match microRow (s.core n).sfu.live i.entry (h.srcRow s n h.fmtA i.src r) with
    | .error e => .error e
    | .ok vs => match s.uprogRows n i h k (r + 1) with
      | .error e => .error e
      | .ok rest =>
        let (ps, sat) := encodeRow h.fmtD (vs.map Prod.fst)
        .ok ((ps.map fun p => (r * h.stride h.fmtD + p.1, p.2), sat + (vs.map Prod.snd).sum) :: rest)

/-- UPROG (R149): every element, or the first error, which stops the core (R161). -/
def State.uprog (s : State) (n w pc : Nat) : State :=
  let i := Uprog.of w
  match s.shape n with
  | none => s
  | some h =>
    match s.uprogRows n i h h.rows 0 with
    | .ok rows => s.writeRows n i.dst rows
    | .error (c, word) => s.failIssued n 2 (eSfu n c) pc (word * 2 ^ 16)

def execUprog (c : Fin 8) (s : State) : Out :=
  .next (s.issue c 2 0x44 (fun w => uprogCheck w c) fun w pc _ s => s.uprog c w pc)

/-! ### Swap (R155 to R157, R164) -/

/-- The SFU quiet point: no SFU or UPROG instruction issued and incomplete. -/
def State.sfuQuiet (s : State) (n : Nat) : Bool := !s.inFlight n 2 [0x43, 0x44]

/-- The committed swap or COMPAT change takes effect. -/
def State.sfuSwap (s : State) (n : Nat) : State :=
  let u := (s.core n).sfu
  if !(u.pending && s.sfuQuiet n) then s else
  let s := s.onCore n fun c => { c with sfu := { c.sfu with
    active := c.sfu.active != c.sfu.swapPending, compat := c.sfu.compatPending.getD c.sfu.compat, swapPending := false,
    compatPending := none } }
  let o := pageCore n + 0x2100
  let s := if u.swapPending then
      (s.setActive o (s.stg o &&& 0xFFFFFFFD#32)).bump (pageCore n + 0x2010)
    else s
  match (s.core n).eng.flight with
  | some id => s.advisory (eSfu n 6) 0 (some id)
  | none => s

end Sys2Proof.Machine
end

