-- ==== Sys2Proof/Machine/Commit.lean ====
section
/-! DEFINITION. The staged commit: its checks, its quiet points, the apply with its actions, and DISCARD (R26 to R28, R114, R127, R155, R164,
R221, R275, R276, R364, R368, R382, R412, R437, R492 to R498). -/

namespace Sys2Proof.Machine

/-! ### What a commit would bring -/

/-- A staged word as a commit of the named blocks sees it (R494). -/
def State.staged (s : State) (bs : List Nat) (off : Nat) : Word :=
  match offsetBlock off with
  | some b => if bs.contains b then s.shadow off else s.stg off
  | none => s.stg off

/-- Offsets of a block's staged words written since its last apply or discard (R490), ascending. -/
def State.writtenOf (s : State) (b : Nat) : List Nat :=
  (s.win.written.filter fun e => offsetBlock e.1 == some b).map Prod.fst

/-- Indices of an array of staged entries that have been written. -/
def State.changed (s : State) (b lo size n : Nat) : List Nat :=
  (List.range n).filter fun i => (s.writtenOf b).any fun o => decide (lo + size * i ≤ o ∧ o < lo + size * (i + 1))

/-- Group entries that a commit of the named blocks changes. -/
def State.changedGroups (s : State) (bs : List Nat) : List Nat := if bs.contains 0 then s.changed 0 0x2000 32 256 else []

/-- Lace entries that it changes. -/
def State.changedLaces (s : State) (bs : List Nat) : List Nat :=
  if bs.contains 6 then s.changed 6 (pageCirc + 0x100) 32 6 else []

/-- Queues whose registers it changes. -/
def State.changedQueues (s : State) (bs : List Nat) : List Nat :=
  if bs.contains 0x0A then s.changed 0x0A 0x0A01000 0x40 64 else []

/-- The first failure of a list of checks: entry or word index, and condition. -/
abbrev Failure := Nat × Nat

/-! ### RANGE (0x02) -/

/-- A group entry against R25 and the first three conditions of R26. -/
def State.groupRange (s : State) (bs : List Nat) (e : Nat) : Option Failure :=
  let w (k : Nat) : Nat := (s.staged bs (0x2000 + 32 * e + 4 * k)).toNat
  let count := w 1 % 2 ^ 16
  let list := w 3 + w 4 * 2 ^ 32
  let d := Dev.of list
  if w 2 / 2 ^ 12 % 8 = 6 ∨ (List.range 8).any fun k => w k ≠ w k % 2 ^ 32 ∨ Nat.land (w k) (groupMask k).toNat ≠ w k then some (e, 0)
  else if count = 0 ∨ 4096 < count then some (e, 1)
  else if count ≤ w 1 / 2 ^ 16 then some (e, 2)
  else if !s.isSelf d.chip ∨ d.tier ≠ 1 ∨ d.off % 4 ≠ 0 ∨ t1Bytes < d.off + 4 * count then some (e, 3)
  else none

/-- A lace entry against R273 and the first condition of R275. -/
def State.laceRange (s : State) (bs : List Nat) (l : Nat) : Option Failure :=
  let x := laceOf (s.staged bs) l
  let w (k : Nat) : Nat := laceWord (s.staged bs) l k
  if (List.range 8).any fun k => Nat.land (w k) (laceMask k).toNat ≠ w k then some (l, 0)
  else if !x.valid then none
  else if x.members = 0 ∨ x.members ≤ x.pos then some (l, 1)
  else if 1048512 < x.members ∨ 5 < x.set ∨ x.slotUnits = 0 then some (l, 0)
  else none

/-- Is a power page word within R435? The condition of R437 that it fails. -/
def powerRange (o v : Nat) : Option Nat :=
  let bad (ok : Bool) : Option Nat := if ok then none else some 1
  if o = 0x100 then bad (decide (900 ≤ v ∧ v ≤ 1400))
  else if o = 0x104 then bad (decide (1 ≤ v ∧ v ≤ 30))
  else if o = 0x108 then (if 64 ≤ v then some 1 else if 13 < v / 4 then some 3 else none)
  else if o = 0x10C then (if 2 ^ 24 ≤ v then some 1 else if 80 < v % 2 ^ 7 then some 2 else none)
  else if o = 0x110 then bad (decide (v < 2 ^ 16 ∧ 85 ≤ v % 2 ^ 8 ∧ v % 2 ^ 8 ≤ 105))
  else if o = 0x114 ∨ o = 0x118 then bad (decide (v < 2 ^ 7 ∧ 1 ≤ v % 64))
  else bad (decide (v < 2 ^ 15 ∧ 1 ≤ v % 2 ^ 8))

/-- A queue's word within R411. -/
def cqRange (o v : Nat) : Bool :=
  if o = 0 then decide ((v / 2 % 4 = 1 ∨ v / 2 % 4 = 2) ∧ 6 ≤ v / 8 % 32 ∧ v / 8 % 32 ≤ 16)
  else if o = 4 then decide (v % 64 = 0)
  else if o = 0xC then decide (6 ≤ v ∧ v ≤ 16)
  else true

/-- A chip id that a plan may name (R15, R368). -/
def chipOk (c : Nat) : Bool := decide (c < 0xFFFC0 ∨ c = 0xFFFFF)

/-- The stated ranges of the words that need no other word. `o`: the offset in the block's region. -/
def wordRange (b o v : Nat) : Bool :=
  if b = 5 then
    (if o = 0x100 then decide (v % 2 ^ 22 = 0) else if o = 0x104 then decide (v < 32)
     else if o = 0x108 then decide (10 ≤ v ∧ v ≤ 100000) else if o = 0x10C then decide (1 ≤ v) else true)
  else if b = 0x3F then
    (if o = 0x100 then chipOk v else if o = 0x104 then decide (v % 4 ≠ 3 ∧ v / 4 % 4 ≠ 3 ∧ v / 16 % 4 ≠ 3) else true)
  else if b = 0x0A then (if 0x1000 ≤ o then cqRange (o % 0x40) v else true)
  else if 0x20 ≤ b then
    (if o = 0x100 then decide (v / 4 = 1 ∨ v / 4 = 2)
     else if o = 0x10C then (v / 2 ^ 25 == 0) || (decide (v % 2 ^ 20 < 0xFFFC0) && decide (v / 2 ^ 20 % 32 < 18))
     else if o = 0x110 then decide (1 ≤ v) else true)
  else true

/-- The index that CHIP_COMMIT_DETAIL shows for a staged word: its entry, or its place in its array or among the words of the page. -/
def wordIndex (b o : Nat) : Nat :=
  if b = 4 ∧ 0x400 ≤ o then (o - 0x400) / 4
  else if b = 4 ∧ 0x200 ≤ o then (o - 0x200) / 4
  else if b = 0x0A ∧ 0x1000 ≤ o then (o - 0x1000) / 0x40
  else if b = 0x0A ∧ 0x400 ≤ o then (o - 0x400) / 32
  else if b = 0x0A ∧ 0x200 ≤ o then (o - 0x200) / 16
  else if b = 0x3F ∧ 0x1000 ≤ o then (o - 0x1000) / 8
  else if 0x10 ≤ b ∧ b < 0x18 then (o - 0x2100) / 4
  else (o - 0x100) / 4

/-- The check of one written word. -/
def State.rangeAt (s : State) (bs : List Nat) (b off : Nat) : Option Failure :=
  let o := inBlock b off
  let v := s.shadow off
  if b = 0 then s.groupRange bs ((o - 0x2000) / 32)
  else if b = 6 ∧ o < 0x1C0 then s.laceRange bs ((o - 0x100) / 32)
  else if b = 1 then (powerRange o v.toNat).map fun c => (wordIndex b o, c)
  else
    let ok := match regKind off with
      | .stg m => v &&& m == v && wordRange b o v.toNat
      | _ => true
    if ok then none else some (wordIndex b o, 0)

def State.rangeCheck (s : State) (bs : List Nat) (b : Nat) : Option Failure := (s.writtenOf b).findSome? (s.rangeAt bs b)

/-! ### The other codes -/

/-- GROUP_ENTRY (0x03): the last two conditions of R26. -/
def State.groupCheck (s : State) (bs : List Nat) (b : Nat) : Option Failure :=
  if b ≠ 0 then none
  else
    let w (e k : Nat) : Nat := (s.staged bs (0x2000 + 32 * e + 4 * k)).toNat
    let valid (e : Nat) : Bool := (w e 0).testBit 20
    (s.changedGroups bs).findSome? fun e =>
      let l := w e 2 / 2 ^ 12 % 8
      if valid e && (List.range 256).any fun f => f != e && valid f && w f 0 % 2 ^ 20 == w e 0 % 2 ^ 20 then some (e, 4)
      else if l < 6 ∧ (laceOf (s.staged bs) l).members ≠ w e 1 % 2 ^ 16 then some (e, 5)
      else none

/-- GROUP_CTR (0x04): R127. -/
def State.groupCtrCheck (s : State) (bs : List Nat) (b : Nat) : Option Failure :=
  if b ≠ 0 then none
  else (s.changedGroups bs).findSome? fun e =>
    let c := (s.staged bs (0x2000 + 32 * e + 8)).toNat % 2 ^ 12
    if bs.contains 4 && (s.shadow (pageSync + 0x400 + 4 * (c / 32))).getLsbD (c % 32) then none else some (e, 1)

/-- Is a wait or a barrier pending on a chip counter (R113, R114)? -/
def State.ctrAwaited (s : State) (i : Nat) : Bool :=
  (s.cmd.flights.any fun f => f.stage == .running &&
    ((f.opcode == 0x43 && f.get 20 2 == i) || (f.opcode == 0x41 && match s.group? f.group with
      | some g => g.ctr == i
      | none => false))) ||
  s.circ.merges.any fun r => r.phase == 0 && decide (r.pass < r.passes) && match s.flight? r.flight with
    | some f => f.get 82 2 == i
    | none => false

/-- CTR_IN_USE (0x05): R114. -/
def State.ctrCheck (s : State) (bs : List Nat) (b : Nat) : Option Failure :=
  if b ≠ 4 then none
  else (List.range 128).findSome? fun w =>
    let clear := if bs.contains 4 then s.shadow (pageSync + 0x400 + 4 * w) else 0#32
    let kind := s.staged bs (pageSync + 0x200 + 4 * w) ^^^ s.stg (pageSync + 0x200 + 4 * w)
    let bits := clear ||| kind
    if bits ≠ 0#32 ∧ (List.range 32).any (fun k => bits.getLsbD k && s.ctrAwaited (32 * w + k)) then some (w, 1) else none

/-- The landing areas of a lace: direction, base, end, cores. -/
def Lace.areas (x : Lace) : List (Nat × Nat × Nat × Nat) :=
  [Dir.next, Dir.prev].map fun d => (d.idx, x.landBase d, x.landBase d + 512 * x.slotUnits, x.consumers d)

/-- Do two areas overlap on a core that both name? -/
def areasClash (a b : Nat × Nat × Nat × Nat) : Bool :=
  decide (Nat.land a.2.2.2 b.2.2.2 ≠ 0 ∧ a.2.1 < b.2.2.1 ∧ b.2.1 < a.2.2.1)

/-- LACE_ENTRY (0x06): the conditions 2 to 10 of R275 for a lace. -/
def State.laceFails (s : State) (bs : List Nat) (l : Nat) : Option Nat :=
  let rd := s.staged bs
  let x := laceOf rd l
  let others := (allLaces.filter fun k => k != l && (laceOf rd k).valid).map (laceOf rd)
  let many := decide (2 ≤ x.members)
  let named := (List.range 256).any fun e =>
    (rd (0x2000 + 32 * e)).getLsbD 20 && (rd (0x2000 + 32 * e + 8)).toNat / 2 ^ 12 % 8 == l &&
      (rd (0x2000 + 32 * e + 4)).toNat % 2 ^ 16 != x.members
  let wrong (p chip : Nat) : Bool := s.trained p && (s.reg (pageLink p + 0x4C)).toNat % 2 ^ 20 != chip
  let areas := others.map Lace.areas
  if !x.valid then none
  else if others.any fun y => y.set == x.set && y.members != x.members then some 2
  else if x.members ≠ (s.lace l).members ∧ named then some 3
  else if many && (decide (15 < x.nextPort) || decide (15 < x.prevPort)) then some 4
  else if many && (wrong x.nextPort x.nextChip || wrong x.prevPort x.prevChip) then some 5
  else if many && others.any fun y => decide (2 ≤ y.members) && (y.nextPort == x.nextPort || y.prevPort == x.prevPort) then some 6
  else if many && (x.consumers .next == 0 || x.consumers .prev == 0) then some 7
  else if 96 ≤ x.landCtr .next ∨ 96 ≤ x.landCtr .prev then some 8
  else if x.areas.any fun a => decide (wsBytes < a.2.2.1) then some 9
  else if x.areas.any (fun a => areas.flatten.any (areasClash a)) || match x.areas with
      | [a, b] => areasClash a b
      | _ => false then some 10
  else none

def State.laceCheck (s : State) (bs : List Nat) (b : Nat) : Option Failure :=
  if b ≠ 6 then none else (s.changedLaces bs).findSome? fun l => (s.laceFails bs l).map fun c => (l, c)

/-- LACE_V1 (0x07): R364. -/
def State.laceV1Check (s : State) (bs : List Nat) (b : Nat) : Option Failure :=
  if b ≠ 6 then none
  else (s.changedLaces bs).findSome? fun l =>
    let x := laceOf (s.staged bs) l
    let v1 (p : Nat) : Bool := s.trained p && s.portVer p == 1
    if x.valid && decide (2 ≤ x.members) && (v1 x.nextPort || v1 x.prevPort) then some (l, 1) else none

/-- SFU_COMPAT (0x08): R164. -/
def State.sfuCheck (s : State) (bs : List Nat) (b : Nat) : Option Failure :=
  if b < 0x10 ∨ 0x18 ≤ b then none
  else
    let p := pageCore (b - 0x10) + 0x2100
    if (s.staged bs p).getLsbD 0 && decide (16384 < (s.staged bs (p + 4)).toNat % 2 ^ 14 + 64 * 12) then some (1, 1) else none

/-- Has a word of PT_BASE been written? -/
def State.ptBaseWritten (s : State) : Bool := (s.writtenOf 5).any fun o => o == pageMem + 0x100 || o == pageMem + 0x104

/-- PT_BASE_LIVE (0x09): R221. -/
def State.ptCheck (s : State) (_bs : List Nat) (b : Nat) : Option Failure :=
  if b = 5 ∧ s.ptBaseWritten ∧ s.objects ≠ [] then some (0, 1) else none

/-- PLAN_LIVE (0x0A): R368. -/
def State.planLiveCheck (s : State) (_bs : List Nat) (b : Nat) : Option Failure :=
  if b = 0x3F ∧ (s.writtenOf 0x3F).contains (pageLinks + 0x100) ∧ s.cmd.flights ≠ [] then some (0, 1) else none

/-- A memory region as a reader of staged words shows it: base, length, rights. -/
def regionOf (rd : Nat → Word) (m : Nat) : Nat × Nat × Nat :=
  let w (k : Nat) : Nat := (rd (0x0A00400 + 32 * m + 4 * k)).toNat
  (w 1 + w 2 % 2 ^ 10 * 2 ^ 32, w 3 + w 4 * 2 ^ 32, w 5 % 8)

/-- MR_OVERLAP (0x0B): R382. -/
def State.regionCheck (s : State) (bs : List Nat) (b : Nat) : Option Failure :=
  if b ≠ 0x0A ∧ !(b = 5 ∧ s.ptBaseWritten) then none
  else
    let rd := s.staged bs
    let pt := ((rd (pageMem + 0x100)).toNat + (rd (pageMem + 0x104)).toNat * 2 ^ 32) % 2 ^ 42
    (List.range 64).findSome? fun m =>
      let (base, len, _) := regionOf rd m
      let hit (o n : Nat) : Bool := decide (base < o + n ∧ o < base + len)
      if len ≠ 0 ∧ (hit pt 0x400000 || s.cachedObjects.any fun i => hit (s.entry i).t1Base (s.entry i).t1Bytes) then
        some (m, 1)
      else none

/-- QUEUE_LIVE (0x0C): the first condition of R412. -/
def State.queueLiveCheck (s : State) (bs : List Nat) (b : Nat) : Option Failure :=
  if b ≠ 0x0A then none
  else (s.changedQueues bs).findSome? fun q =>
    if s.cqHead q ≠ s.cqTail q ∨ s.cmd.flights.any (fun f => f.queue == q) then some (q, 1) else none

/-- QUEUE_SHAPE (0x0D): its second and third conditions. -/
def State.queueShapeCheck (s : State) (bs : List Nat) (b : Nat) : Option Failure :=
  if b ≠ 0x0A then none
  else (s.changedQueues bs).findSome? fun q =>
    let rd := s.staged bs
    let cfg := (rd (cqPage q)).toNat
    let slots := cfg / 8 % 32
    let base := ((rd (cqPage q + 4)).toNat + (rd (cqPage q + 8)).toNat * 2 ^ 32) % 2 ^ 42
    if (rd (cqPage q + 0xC)).toNat % 32 < slots then some (q, 2)
    else if t1Bytes < base + slotBytes (cfg / 2 % 4) * 2 ^ slots then some (q, 3)
    else none

/-- VARIANT (0x0E): the fourth condition of R437. -/
def State.variantCheck (s : State) (bs : List Nat) (b : Nat) : Option Failure :=
  if b = 1 ∧ Config.isVariantE = true ∧ (s.writtenOf 1).contains (pagePower + 0x108) ∧ (s.staged bs (pagePower + 0x108)).getLsbD 0 = false then
    some (2, 4)
  else none

/-- The checks in ascending reason code. -/
def commitChecks : List (Nat × (State → List Nat → Nat → Option Failure)) :=
  [(0x02, State.rangeCheck), (0x03, State.groupCheck), (0x04, State.groupCtrCheck), (0x05, State.ctrCheck), (0x06, State.laceCheck),
   (0x07, State.laceV1Check), (0x08, State.sfuCheck), (0x09, State.ptCheck), (0x0A, State.planLiveCheck), (0x0B, State.regionCheck),
   (0x0C, State.queueLiveCheck), (0x0D, State.queueShapeCheck), (0x0E, State.variantCheck)]

/-- Reason, block and detail of the first failure (R494). -/
def State.commitFailure (s : State) (bs : List Nat) : Option (Nat × Nat × Nat) :=
  match bs.find? fun b => (blockPage b).isNone with
  | some b => some (0x01, b, 0)
  | none => commitChecks.findSome? fun (reason, check) => bs.findSome? fun b =>
      (check s bs b).map fun (i, c) => (reason, b, i + c * 2 ^ 16)

/-! ### COMMIT and DISCARD (R493) -/

/-- A core whose named block stages a swap or a change of COMPAT waits for its quiet point (R155, R164). -/
def State.awaitSwap (s : State) (n : Nat) : State :=
  let o := pageCore n + 0x2100
  if !(s.writtenOf (0x10 + n)).contains o then s
  else
    let w := s.shadow o
    let compat := if w.getLsbD 0 != (s.core n).sfu.compat then some (w.getLsbD 0) else none
    s.onCore n fun c => { c with sfu := { c.sfu with swapPending := w.getLsbD 1, compatPending := compat } }

/-- Steps 3 to 6. -/
def State.commitStart (s : State) : State :=
  if s.commit.busy then s.errBit pageGlobal 0
  else
    let bs := s.namedBlocks
    let s := { s with commit := { s.commit with busy := true, quiet := false, refused := s.commit.refused.filter fun b => !bs.contains b } }
    match s.commitFailure bs with
    | some (reason, block, detail) => s.refuseCommit reason block detail
    | none =>
      let s := { s with commit := { s.commit with quiet := true, pending := bs } }
      allCores.foldl (fun s n => if bs.contains (0x10 + n) then s.awaitSwap n else s) s

/-- The named blocks' written marks go. -/
def State.cleanBlocks (s : State) (bs : List Nat) : State :=
  let keep (o : Nat) : Bool := match offsetBlock o with
    | some b => !bs.contains b
    | none => true
  { s with win := { s.win with written := restrict keep s.win.written } }

/-- Record that a commit has ended with APPLIED. -/
def State.commitOk (s : State) (bs : List Nat) : State :=
  { s with commit := { s.commit with
    busy := false, quiet := false, reason := 0, block := 0, detail := 0, pending := [],
    reasons := bs.foldl (fun t b => store noCount t b 0) s.commit.reasons } }

/-- A write of DISCARD: the values in force of the named blocks go back into their shadows. -/
def State.commitDiscard (s : State) : State :=
  if s.commit.busy then s.errBit pageGlobal 0
  else
    let bs := s.namedBlocks
    let os := (bs.map s.writtenOf).flatten
    let s := { s with win := { s.win with shadow := os.foldl (fun t o => store stgReset t o (s.stg o)) s.win.shadow } }
    (s.cleanBlocks bs).commitOk bs

/-- A write of CHIP_COMMIT (R493, R499). -/
def State.commitWrite (s : State) (v : Word) : State :=
  if s.commit.busy then s.errBit pageGlobal 0
  else if v = 1#32 then s.commitStart
  else if v = 2#32 then s.commitDiscard
  else s

def execCommit (s : State) : Out := s.live (.next (s.commitWrite 1#32))
def execDiscard (s : State) : Out := s.live (.next (s.commitWrite 2#32))

/-! ### Quiet points (R495, R496) -/

/-- Is a pending block quiet? A command is in flight until it completes, also once its part here is over (R27, R276). The power block is
at its 2 µs tick: at the time of the last POWER_TICK. -/
def State.blockQuiet (s : State) (b : Nat) : Bool :=
  if b = 0 then
    let gids := ((s.changedGroups [0]).map fun e => s.groupWord e 0 % 2 ^ 21).filter fun w => w.testBit 20
    !s.cmd.flights.any fun f => f.scope && gids.contains (f.group + 2 ^ 20)
  else if b = 1 then s.power.tickAt == some s.time
  else if b = 6 then
    let ls := s.changedLaces [6]
    !ls.any fun l => (s.circRun? l).isSome || (s.collRun? l).isSome ||
      s.cmd.flights.any fun f => f.laces.contains l || (s.usesLaces f.opcode f.body).contains l
  else if 0x10 ≤ b ∧ b < 0x18 then s.sfuQuiet (b - 0x10)
  else true

/-! ### The apply -/

/-- Put a word in force and into its shadow. -/
def State.copyWord (s : State) (o : Nat) : State := s.setActive o (s.shadow o)

/-- A changed entry whose EPOCH has not been written counts it up (R28). -/
def State.nextEpoch (s : State) (o : Nat) (written : List Nat) : State :=
  if written.contains o then s else s.setActive o (s.stg o + 1#32)

/-- Group entries have changed (R28, R127). -/
def State.applyGroups (s : State) (es written : List Nat) : State :=
  es.foldl (fun s e =>
    let s := s.nextEpoch (0x2000 + 32 * e + 20) written
    { s with sync := { s.sync with bars := restrict (fun k => k / 256 != e && k % 256 != e) s.sync.bars } }) s

/-- CC_CLEAR zeroes its counters, then reads 0 (R114). -/
def State.applyClear (s : State) : State :=
  (List.range 128).foldl (fun s w =>
    let o := pageSync + 0x400 + 4 * w
    let v := s.stg o
    if v = 0#32 then s
    else ((List.range 32).foldl (fun s k => if v.getLsbD k then s.setChipCtr (32 * w + k) 0 else s) s).setActive o 0#32) s

/-- Every entry of the table at PT_BASE becomes free, with generation 1 (R459). -/
def State.initTable (s : State) : State :=
  let b := s.ptBase
  if s.mem.wiping then s
  else
    let out (k : Nat) : Bool := decide (k < b ∨ b + 0x400000 ≤ k)
    { s with mem := { s.mem with
      t1 := restrict out s.mem.t1
      poison := restrict (fun w => out (32 * w)) s.mem.poison
      tables := b :: s.mem.tables.filter fun c => c != b } }

/-- Lace entries have changed: EPOCH and COLL_SEQ (R28, R321). -/
def State.applyLaces (s : State) (ls written : List Nat) : State :=
  ls.foldl (fun s l =>
    let s := s.nextEpoch (pageCirc + 0x100 + 32 * l + 28) written
    { s with coll := { s.coll with seq := store noCount s.coll.seq l 0 } }) s

/-- A queue that the apply has enabled begins at index 0 (R412). -/
def State.enableQueue (s : State) (q : Nat) : State :=
  (((s.setHead q 0).setTail q 0).setCount (cqPage q + 0x24) 0).onQueue q fun k => { k with
    arrivals := k.arrivals.filter fun a => match a with
      | .host _ => false
      | .fan _ _ _ _ => true }

/-- A link port's LINK_CFG has changed (R495). `was`: EN before the apply. -/
def State.applyPort (s : State) (p : Nat) (was : Bool) : State :=
  let en := s.portEn p
  if was && !en then
    let x := s.port p
    let s := if !x.replay.isEmpty || x.msgs.any fun m => !m.flits.isEmpty then s.losePort p else s.leavePort p false
    let s := if 16 ≤ p then s.reserveLost (p - 16) else s
    (s.setReg (pageLink p + 8) (s.reg (pageLink p + 8) &&& ~~~1#32)).setPortState p 4
  else if !was && en then s.train p
  else s

/-- CHIP_ID takes PLAN_CHIP; the identity word of every port changes with it (R361, R368). -/
def State.applyPlan (s : State) : State :=
  let id := (s.stg (pageLinks + 0x100)) &&& 0xFFFFF#32
  if s.reg 0x40 = id then s else allPorts.foldl State.noteChange (s.setReg 0x40 id)

/-- RES_CFG in force: the reserve ports that it enables. -/
def State.resEnabled (s : State) : List Nat := [0, 1].filter fun r => (s.stg (pageMem + 0x110)).getLsbD r

/-- What needs a reserve port that RES_CFG no longer enables fails (R217, R219). -/
def State.applyReserve (s : State) (was : List Nat) : State :=
  (was.filter fun r => !s.resEnabled.contains r).foldl State.failPort s

/-- FIXED starts a change to point 13 (R437). -/
def State.applyPower (s : State) : State := if s.pwrFixed && s.power.point != 13 then s.changeToward 13 else s

/-- Step 7 of R493. -/
def State.commitApply (s : State) : State :=
  let bs := s.commit.pending
  let os := (bs.map s.writtenOf).flatten
  let es := s.changedGroups bs
  let ls := s.changedLaces bs
  let pt := bs.contains 5 && s.ptBaseWritten
  let were := allPorts.map s.portEn
  let qs := (List.range 64).filter fun q => !s.cqEn q
  let res := s.resEnabled
  let s := (os.foldl State.copyWord s).cleanBlocks bs
  let s := s.applyGroups es os
  let s := if bs.contains 1 then s.applyPower else s
  let s := if bs.contains 4 then s.applyClear else s
  let s := if pt then s.initTable else s
  let s := if bs.contains 5 then s.applyReserve res else s
  let s := s.applyLaces ls os
  let s := if bs.contains 0x0A then (qs.filter s.cqEn).foldl State.enableQueue s else s
  let s := allCores.foldl (fun s n => if bs.contains (0x10 + n) then s.sfuSwap n else s) s
  let s := (were.zipIdx).foldl (fun s (was, p) => if bs.contains (0x20 + p) then s.applyPort p was else s) s
  let s := if bs.contains 0x3F then s.applyPlan else s
  let s := if bs.contains 0x3F || (allPorts.any fun p => bs.contains (0x20 + p)) then s.planCheckCommit else s
  let s := bs.foldl (fun s b => s.perf b 3 1) s
  let s := { s with commit := { s.commit with
    applied := bs.foldl (fun t b => store noCount t b ((look noCount t b + 1) % 2 ^ 16)) s.commit.applied } }
  (s.commitOk bs).bump 0x6C

/-- Is an accepted commit ready: are all its blocks quiet at once? -/
def State.commitReady (s : State) : Bool := s.commit.busy && s.commit.quiet && s.commit.pending.all s.blockQuiet

/-- COMMIT_APPLY (R493, R495). -/
def execCommitApply (s : State) : Out := .next (if s.commitReady && !s.fatal then s.commitApply else s)

/-- SFU_SWAP (R155, R495): the swap of a core takes effect with the apply of its commit, at the SFU quiet point. -/
def execSfuSwap (c : Fin 8) (s : State) : Out :=
  .next (if (s.core c).sfu.pending && s.commitReady && !s.fatal then s.commitApply else s)

/-- QUIET_TIMEOUT (R496). -/
def execQuietTimeout (s : State) : Out :=
  if !(s.commit.busy && s.commit.quiet) || s.fatal then .next s
  else match s.commit.pending.find? fun b => !s.blockQuiet b with
    | none => .next s
    | some b => .next (s.refuseCommit 0x0F b 0)

end Sys2Proof.Machine
end

