-- ==== Sys2Proof/Machine/Qp.lean ====
section
/-! DEFINITION. The queue pairs, the QP mailbox and the Ethernet port (R378 to R381, R408, R409, R411, R413). -/

namespace Sys2Proof.Machine

/-! ### Queue pairs (R380, R381) -/

/-- QP_STAGE as bytes. -/
def State.qpStage (s : State) : List Byte :=
  ((List.range 8).map fun w => bytesOf 4 (s.reg (pageHost + 0x80 + 4 * w)).toNat).flatten

/-- The record writes that a QP has not seen acknowledged have failed: the chip keeps the records (R408). -/
def State.failRecords (s : State) (n : Nat) : State :=
  let l := (s.qp n).unacked
  (l.foldl (fun s r => s.keepRecord r.2.1 (r.2.2.1, r.2.2.2.1, r.2.2.2.2)) s).onQp n fun p => { p with unacked := [] }

/-- A QP enters ERROR (R381). -/
def State.qpError (s : State) (n : Nat) : State :=
  let s := (s.onQp n fun p => { p with state := 2 }).advisory eHpQpError (n * 2 ^ 22) none
  s.failRecords n

/-- Does an enabled queue name this QP (R411)? -/
def State.qpInUse (s : State) (n : Nat) : Bool := (List.range 64).any fun q => s.cqEn q && s.cqQp q == n

/-- The QP that a QP_STAGE image describes. -/
def Qp.ofStage (b : List Byte) : Qp :=
  let f := field b
  { state := f 3 1, remote := f 0 3, sqPsn := f 4 4 % 2 ^ 24, rqPsn := f 8 4 % 2 ^ 24, ip := f 12 16, udp := f 28 2, mtu := f 30 1,
    retry := f 31 1 % 8, timeout := f 31 1 / 8 % 16, tries := 0, halvings := 0, unacked := [] }

/-- QP_OP_STAT after an operation. -/
def State.qpDone (s : State) (n result : Nat) : State :=
  { s with host := { s.host with qpStat := BitVec.ofNat 32 (result * 2 ^ 4 + n * 2 ^ 8 + (s.qp n).state % 4 * 2 ^ 16) } }

/-- MODIFY: RESULT, from the image and the queues. An unlisted STATE or MTU code is BAD_FIELD (R8). -/
def State.qpResult (s : State) (n : Nat) : Nat :=
  let b := s.qpStage
  let st := field b 3 1
  if 1 < st ∨ field b 30 1 = 0 ∨ 5 < field b 30 1 then 1 else if st = 0 ∧ s.qpInUse n then 2 else 0

/-- A write of QP_OP with MODIFY (R381). -/
def State.qpModify (s : State) (n : Nat) : State :=
  let r := s.qpResult n
  if r ≠ 0 then s.qpDone n r
  else
    let p := Qp.ofStage s.qpStage
    ((s.failRecords n).onQp n fun _ => if p.state = 0 then Qp.reset else p).qpDone n 0

/-- A write of QP_OP (R411). A reserved OP or bit answers BAD_FIELD. -/
def State.qpOp (s : State) (v : Word) : State :=
  let n := v.toNat % 2 ^ 8
  let op := v.toNat / 2 ^ 8
  if op = 1 then s.qpModify n
  else if op = 2 then s.qpDone n 0
  else s.qpDone n 1

def execModify (qp : Fin 256) (s : State) : Out := .next (s.qpOp (BitVec.ofNat 32 (qp.val + 2 ^ 8)))
def execQpQuery (qp : Fin 256) (s : State) : Out := .next (s.qpOp (BitVec.ofNat 32 (qp.val + 2 * 2 ^ 8)))

/-! ### The Ethernet port (R378, R379, R413) -/

def State.setMode (s : State) (m : Nat) : State := { s with host := { s.host with mode := m, pfc := if m = 0 then false else s.host.pfc } }

/-- BLK_CTRL.RETRAIN: training begins again, and the port is down until it ends. -/
def State.hostRetrain (s : State) : State :=
  (s.setReg (pageHost + 8) (s.reg (pageHost + 8) ||| 2#32)).setMode 0

def execHostRetrain (s : State) : Out := .next s.hostRetrain

/-- A write of BLK_CTRL: a cleared LINK_EN takes the port down. -/
def State.hostCtrl (s : State) (v : Word) : State :=
  let s := s.setReg (pageHost + 8) ((s.reg (pageHost + 8) &&& 2#32) ||| (v &&& 1#32))
  let s := if v.getLsbD 0 then s else s.setMode 0
  if v.getLsbD 1 then s.hostRetrain else s

/-- The mode the port comes up at: the highest that both sides allow, or with AN_EN clear MODE_MAX itself; 0 where there is none. -/
def State.trainedMode (s : State) (partner : Nat) : Nat :=
  let cfg := (s.stg (pageHost + 0x100)).toNat
  if cfg / 4 % 2 = 1 then min (cfg % 4) partner else if cfg % 4 ≤ partner then cfg % 4 else 0

/-- HOST_PORT_TRAINED (R378): training ends, and RETRAIN reads 0. -/
def execHostPortTrained (partnerMax : BitVec 2) (s : State) : Out :=
  let m := s.trainedMode partnerMax.toNat
  if (s.reg (pageHost + 8)).getLsbD 0 = false ∨ m = 0 then .next s
  else .next ((s.setReg (pageHost + 8) (s.reg (pageHost + 8) &&& ~~~2#32)).setMode m)

/-- HP_LINK_DOWN (R409): a port that was up. -/
def execHpLinkDown (s : State) : Out :=
  if s.host.mode = 0 then .next s else .next ((s.setMode 0).advisory eHpLinkDown 0 none)

/-- PFC_PAUSE (R379): the one priority PFC_PRIO, where PFC_EN is set. -/
def execPfcPause (prio : Fin 8) (on : Bool) (s : State) : Out :=
  let cfg := (s.stg (pageHost + 0x100)).toNat
  if cfg / 8 % 2 = 1 ∧ cfg / 16 % 8 = prio.val then .next { s with host := { s.host with pfc := on } } else .next s

end Sys2Proof.Machine
end

