-- ==== Sys2Proof/Machine/Regs.lean ====
section
/-! DEFINITION. Reads and writes of the register window (R487 to R491, R497, and the register tables of every block). -/

namespace Sys2Proof.Machine

/-! ### Requester classes (R488) -/

/-- The class of a requester: RWP, the four control cores, the security core, remote chips. The chip's own cores, which R488 does not
name, are one class more. -/
def classRwp : Nat := 0
def classControl (c : Nat) : Nat := 1 + c
def classSecurity : Nat := 5
def classRemote : Nat := 6
def classCores : Nat := 7

def requesterClass : Requester → Nat
  | .rwp => classRwp
  | .control c => classControl c.val
  | .security => classSecurity
  | .remote => classRemote

/-! ### Wide read-only quantities (R488) -/

/-- Is this the LO half of a read-only pair? `o`: the offset in the block's region. -/
def isWide (b o : Nat) : Bool :=
  if b = 0 then o == 0x50 || o == 0x808 || inArr o 0x600 8 64
  else if b = 1 then o == 0x50 || inArr o 0x70 8 5
  else if b = 4 then o == 0x4C || inArr o 0x1000 8 4096
  else if b = 5 then o == 0x4C || inArr o 0xC0 8 4
  else if b = 7 then o == 0x58 || inArr o 0x60 8 6
  else if b = 0x0B then o == 0x50 || inArr o 0x60 8 8
  else if 0x10 ≤ b ∧ b < 0x18 then o == 0x48 || o == 0xC4 || o == 0x2018 || inArr o 0x60 8 12 || inArr o 0x1000 8 128
  else if 0x20 ≤ b ∧ b < 0x32 then o == 0x44 || o == 0x58 || o == 0x70 || o == 0x78
  else false

/-- DBG_SEL: a core counter or a chip counter, its core and its index (R134). -/
def State.dbgSel (s : State) : Bool × Nat × Nat :=
  let v := (s.reg (pageSync + 0x48)).toNat
  (v / 2 ^ 15 % 2 == 1, v / 2 ^ 12 % 8, v % 2 ^ 12)

def State.dbgValue (s : State) : Nat :=
  match s.dbgSel with
  | (true, n, i) => s.coreCtr n (i % 128)
  | (false, _, i) => s.chipCtr i

/-- A pair of plain registers. -/
def State.reg2 (s : State) (off : Nat) : Nat := (s.reg off).toNat + (s.reg (off + 4)).toNat * 2 ^ 32

/-- The value of a wide read-only quantity. -/
def State.wideVal (s : State) (b o : Nat) (off : Nat) : Nat :=
  let n := b - 0x10
  if b = 0 then (if o = 0x50 then s.time else if o = 0x808 then Config.serial.toNat else s.count off)
  else if b = 1 then (if o = 0x50 then s.power.energy / 10 ^ 6 else s.count off)
  else if b = 4 then (if o = 0x4C then s.dbgValue else s.chipCtr ((o - 0x1000) / 8))
  else if b = 5 then (if o = 0x4C then s.count off else if o < 0xD0 then s.reg2 off else s.count off / 2 ^ 16)
  else if b = 7 then (if o = 0x58 then s.reg2 off else look noCount s.coll.sig ((o - 0x60) / 8))
  else if b = 0x0B then s.count off
  else if b < 0x18 then
    let g := (s.core n).eng
    if o = 0x48 then g.base + 16 * g.next else if o = 0xC4 then s.reg2 off
    else if o = 0x2018 then (s.core n).sfu.live.id.toNat
    else if o < 0x1000 then s.count off else s.coreCtr n ((o - 0x1000) / 8)
  else if o = 0x44 then s.reg2 off
  else s.count off

/-! ### Counting registers -/

/-- Is this register a 32-bit count? -/
def isCount (b o : Nat) : Bool :=
  if b = 0 then o == 0x6C || o == 0x70 || o == 0x20C
  else if b = 1 then o == 0x64 || o == 0x68
  else if b = 3 then o == 0x48 || o == 0x4C
  else if b = 4 then o == 0x44
  else if b = 5 then o == 0x44 || o == 0x48 || inArr o 0x54 4 5
  else if b = 6 then o == 0x50 || inArr o 0x800 16 12 || inArr o 0x804 16 12 || inArr o 0x80C 16 12
  else if b = 7 then inArr o 0xC0 4 12
  else if b = 0x0A then inArr o 0x48 4 5 || (decide (0x1000 ≤ o) && inArr (o % 0x40) 0x1C 4 3)
  else if b = 0x0B then o == 0x48 || o == 0x4C || o == 0x58
  else if 0x10 ≤ b ∧ b < 0x18 then o == 0x2010
  else if 0x20 ≤ b ∧ b < 0x32 then inArr o 0x60 4 4
  else false

/-! ### Status registers -/

def bit (c : Bool) (k : Nat) : Nat := if c then 2 ^ k else 0

/-- RUN of a block: it has work in flight (R489; what that is on each block is this model's reading). -/
def State.run (s : State) (b : Nat) : Bool :=
  if b = 0 then s.commit.busy || s.disc.busy
  else if b = 1 then s.power.change.isSome || s.power.cal.busy
  else if b = 3 then !s.cmd.flights.isEmpty
  else if b = 4 then !s.sync.fences.isEmpty || s.cmd.flights.any fun f => f.stage == .running && (f.opcode == 0x41 || f.opcode == 0x43)
  else if b = 5 then s.tier.ptOp.busy || !s.tier.pages.isEmpty || !s.tier.t2.isEmpty || s.mem.wiping
  else if b = 6 then !s.circ.runs.isEmpty || !s.circ.merges.isEmpty
  else if b = 7 then !s.coll.runs.isEmpty
  else if b = 0x0A then s.host.qps.any fun e => !e.2.unacked.isEmpty
  else if b = 0x0B then !s.queries.isEmpty
  else if 0x10 ≤ b ∧ b < 0x18 then (s.core (b - 0x10)).eng.flight.isSome
  else if 0x20 ≤ b ∧ b < 0x32 then !(s.port (b - 0x20)).msgs.isEmpty || !(s.port (b - 0x20)).replay.isEmpty
  else false

/-- BLK_ID (R500). -/
def blkId (b : Nat) : Nat := if 0x10 ≤ b ∧ b < 0x18 then 0x100 + (b - 0x10) else (blockPage b).getD 0 / 0x10000

/-- BLK_STAGE_STAT (R490). -/
def State.stageStat (s : State) (b : Nat) : Nat :=
  bit (!(s.writtenOf b).isEmpty) 0 + bit (s.commit.pending.contains b) 1 + bit (s.commit.refused.contains b) 2 +
  look noCount s.commit.reasons b % 2 ^ 8 * 2 ^ 8 + look noCount s.commit.applied b % 2 ^ 16 * 2 ^ 16

/-- Ports in a state, as a mask. -/
def State.portsIn (s : State) (st : Nat) : Nat := (allPorts.map fun p => bit (s.portState p == st) p).sum

/-- Does the head of an engine's queue wait on its counter, and on which (R136)? -/
def State.headWaits (s : State) (n e : Nat) : Option Nat :=
  match s.head n e with
  | some (w, _) => if s.waitOk n w.toNat then none else some (waitCtr w.toNat)
  | none => none

/-- Commands that wait on chip counter i: their kinds and queues, oldest first. -/
def State.chipWaiters (s : State) (i : Nat) : List (Nat × Nat) :=
  s.cmd.flights.filterMap fun f =>
    if f.stage ≠ .running then none
    else if f.opcode = 0x43 then (if f.get 20 2 = i then some (2, f.queue) else none)
    else if f.opcode = 0x41 then match s.group? f.group with
      | some g => if g.ctr = i then some (3, f.queue) else none
      | none => none
    else none

/-- DBG_WAITERS (R134). -/
def State.dbgWaiters (s : State) : Nat :=
  match s.dbgSel with
  | (true, n, i) =>
    let es := [0, 1, 2, 3].filter fun e => s.headWaits n e == some (i % 128)
    match es with
    | [] => 0
    | e :: _ => es.length + 2 ^ 8 + e * 2 ^ 10
  | (false, _, i) =>
    match s.chipWaiters i with
    | [] => 0
    | (k, q) :: rest => min (rest.length + 1) 255 + k * 2 ^ 8 + q * 2 ^ 12

def State.dbgKey (s : State) : Nat :=
  match s.dbgSel with
  | (true, n, i) => coreKey n (i % 128)
  | (false, _, i) => i

/-- STATE of a lace's collective (R327): which lap it is in is told by what it has done. -/
def CollRun.shown (r : CollRun) : Nat :=
  if r.state = 1 then 4
  else if r.state = 2 then 5
  else if r.spec.op = 0x22 then 3
  else if r.spec.prepass ∧ r.exps.length < r.spec.chunks then 1
  else if r.spec.op = 0x21 ∨ r.written = [] then 2 else 3

/-- CORE_STATUS (R107). WBANK and WVALID show the banks as they are: DESIGN CHOICE (log 128): while an ATTN_KV loads its blocks the spec gives them no
value; here both stay as they were until it completes and clears the valid bits (R224), and WBANK moves with SWAP alone. -/
def State.coreStatus (s : State) (n : Nat) : Nat :=
  let k := s.core n
  k.eng.phase + k.eng.halted * 4 + bit k.eng.broken 6 + bit (s.gated n) 7 + k.plane.valid.toNat * 2 ^ 8 + bit k.plane.active 16 +
  bit k.plane.bank0.valid 17 + bit k.plane.bank1.valid 18

/-- The registers that are worked out when they are read; none for the others. -/
def State.computed (s : State) (b o off : Nat) : Option Nat :=
  let w := s.reg off
  if o < 0x40 then
    if o = 0 then some (blkId b)
    else if o = 4 then some 0x00020000
    else if o = 0xC then some (bit (s.run b) 0 + bit (s.reg (off + 4) != 0#32) 1)
    else if o = 0x18 then some (s.stageStat b)
    else if o = 8 ∧ b = 5 then some ((w &&& 2#32).toNat + bit s.mem.wiping 0)
    else if o = 8 ∧ 0x10 ≤ b ∧ b < 0x18 ∧ s.debugPerm 1 = false then some (w &&& 0xB#32).toNat
    else none
  else if b = 0 then
    if o = 0x44 then some deviceReg.toNat
    else if o = 0x64 then some (bit s.commit.busy 0 + bit s.commit.quiet 1 + s.commit.reason * 2 ^ 8 + s.commit.block * 2 ^ 16)
    else if o = 0x68 then some s.commit.detail
    else if o = 0x80 then some (bit s.planned 0 + (s.stg (pageLinks + 0x104)).toNat % 64 * 2)
    else if o = 0x84 then some (s.portsIn 2)
    else if o = 0x88 then some (s.portsIn 3)
    else if o = 0x800 then some s.bootStatus.toNat
    else if o = 0x804 then some s.lcState.toNat
    else if inArr o 0x860 4 4 then some (s.nonce / 2 ^ (8 * (o - 0x860)) % 2 ^ 32)
    else if o = 0x870 then some (s.sec.leaf % 2 ^ 30)
    else if o = 0x874 then some (2 ^ 30 - s.sec.leaf)
    else if o = 0x878 then some s.debugStat.toNat
    else if inArr o 0x1000 4 8 then some ((List.range 32).map fun j => bit (s.broken (32 * ((o - 0x1000) / 4) + j)) j).sum
    else none
  else if b = 1 then
    if o = 0x40 then some s.pwrStatus.toNat
    else if o = 0x44 then some (min (s.power.estimate / 200000) 0xFFFF)
    else if o = 0x48 then some (min (10 * s.windowTotal / s.windowWatt) 0xFFFF)
    else if o = 0x58 ∨ o = 0x5C then some ((List.range 4).map fun c => s.issueK (c + (o - 0x58)) * 2 ^ (8 * c)).sum
    else if o = 0xA0 then some s.calStat.toNat
    else if inArr o 0x400 4 16 then some (pointMv ((o - 0x400) / 4))
    else none
  else if b = 3 then (if o = 0x40 then some (if s.sec.verified.contains 2 then 0x1F else 0) else none)
  else if b = 4 then
    if o = 0x40 then some (bit s.handSetEn 0)
    else if o = 0x54 then some s.dbgWaiters
    else if o = 0x58 then some (look noCount s.sync.lastSrc s.dbgKey)
    else if o = 0x5C then some (look noCount s.sync.lastAmt s.dbgKey)
    else if o = 0x68 then some ((List.range 4).map fun c => bit (look noTags s.sync.fences c != []) c).sum
    else none
  else if b = 5 then
    if o = 0x44 then some (min (s.count off + Config.t1Corrected (s.count (pageMem + 0xD0)) (s.count (pageMem + 0xD8))) 0xFFFFFFFF)
    else if o = 0x40 then some (bit s.mem.wiping 0 + bit (s.resPort 0).up 2 + bit (s.resPort 1).up 3 + s.cachedObjects.length * 2 ^ 4)
    else if o = 0x68 then (if s.tier.ptOp.busy then some (1 + s.tier.ptOp.index * 2 ^ 8) else none)
    else none
  else if b = 6 then
    if o = 0x40 then some ((allLaces.map fun l => bit (s.circRun? l).isSome l).sum + bit (!s.circ.merges.isEmpty) 6)
    else if inArr o 0x808 16 12 then
      let i := (o - 0x808) / 16
      match s.circRun? (i / 2) with
      | some r => let x := look (fun _ => CircLane.reset) r.lanes i; some (min x.credits 8 + min x.slots.length 8 * 2 ^ 8)
      | none => some 0
    else none
  else if b = 7 then
    if o = 0x40 then some (allLaces.map fun l => (match s.collRun? l with
      | some r => r.shown
      | none => 0) * 2 ^ (3 * l)).sum
    else if inArr o 0xA0 4 6 then some (look noCount s.coll.seq ((o - 0xA0) / 4) % 2 ^ 32)
    else none
  else if b = 0x0A then
    if o = 0x40 then some (s.host.mode + bit s.host.pfc 2)
    else if o = 0x64 then some s.host.qpStat.toNat
    else if 0x1000 ≤ o ∧ o % 0x40 = 0x28 then
      let q := (o - 0x1000) / 0x40
      some (bit (s.lastFlight q).isSome 0 + bit (s.queue q).stopped 1 + bit (s.cqEn q && (s.queueHead q).isSome) 2 +
        bit (s.queue q).blocked 3)
    else none
  else if b = 0x0B then
    if o = 0x40 then some ((allCores.map fun n => bit (s.inFlight n 1 [0x25]) n).sum +
      bit (s.cmd.flights.any fun f => f.opcode == 0x30 && f.stage != .ended && f.get 52 1 == 1) 8)
    else if o = 0x5C then some (s.queries.filter fun q => q.old).length
    else none
  else if 0x10 ≤ b ∧ b < 0x18 then
    let n := b - 0x10
    let k := s.core n
    if o = 0x40 then some (s.coreStatus n)
    else if o = 0x44 then some ((List.range 4).map fun e => (k.eng.queueOf e).length * 2 ^ (8 * e)).sum
    else if inArr o 0x200 4 16 then
      let i := (o - 0x200) / 4
      some (match s.head n (i / 4) with
        | some (w, _) => w.toNat / 2 ^ (32 * (i % 4)) % 2 ^ 32
        | none => 0)
    else if o = 0x1400 then some ((List.range 4).map fun e => match s.headWaits n e with
      | some c => (c + 128) * 2 ^ (8 * e)
      | none => 0).sum
    else if o = 0x2000 then some (bit k.sfu.active 0 + bit k.sfu.compat 1 + bit k.sfu.swapPending 2 + bit (!s.sfuQuiet n) 3)
    else if o = 0x2020 then some (k.sfu.shadow.id.toNat % 2 ^ 32)
    else if o = 0x2024 then some (k.sfu.shadow.id.toNat / 2 ^ 32)
    else if inArr o 0x4000 4 4096 then some (k.sfu.shadow.word ((o - 0x4000) / 4)).toNat
    else if inArr o 0x10000 4 16384 then some (k.sfu.shadow.table ((o - 0x10000) / 4)).toNat
    else none
  else if b = 0x3F then
    if o = 0x40 then some (bit s.planned 0 + (allPorts.filter fun p => s.portState p == 3).length * 2 ^ 4 +
      (allPorts.filter fun p => s.portState p == 2).length * 2 ^ 9)
    else none
  else if 0x20 ≤ b ∧ b < 0x32 then
    if inArr o 0x80 4 16 then some (min ((s.port (b - 0x20)).credit ((o - 0x80) / 4)) 0xFFFF) else none
  else none

/-- The value in force of a register that is no staged word and no half of a wide quantity. -/
def State.regVal (s : State) (b o off : Nat) : Word :=
  match s.computed b o off with
  | some v => BitVec.ofNat 32 v
  | none => if isCount b o then BitVec.ofNat 32 (s.count off) else s.reg off

/-! ### Reads -/

/-- Where a requester class keeps its latch of the pair whose LO lies at `off`. -/
def latchKey (off cls : Nat) : Nat := off * 8 + cls

/-- One 32-bit read of the window by a requester class (R486 to R488). -/
def State.regRead (s : State) (cls off : Nat) : Word × State :=
  match offsetBlock off with
  | none => (0#32, s)
  | some b =>
    let o := inBlock b off
    match regKind off with
    | .none => (0#32, s)
    | .wo => (0#32, s)
    | .stg m => (s.shadow off &&& m, s)
    | .rw m => (s.regVal b o off &&& m, s)
    | .w1c m => (s.regVal b o off &&& m, s)
    | .ro =>
      if isWide b o then
        let v := s.wideVal b o off
        (BitVec.ofNat 32 v,
         { s with win := { s.win with latch := store noWord s.win.latch (latchKey off cls) (BitVec.ofNat 32 (v / 2 ^ 32)) } })
      else if isWide b (o - 4) && decide (4 ≤ o) then (look noWord s.win.latch (latchKey (off - 4) cls), s)
      else (s.regVal b o off, s)

/-! ### Writes -/

/-- The ERR_INFO register of a block; none where it keeps none. -/
def errInfoAt (b : Nat) : Option Nat :=
  if b = 0 ∨ b = 0x3F then none
  else (blockPage b).map fun p =>
    p + (if b = 1 then 0x60 else if b = 4 then 0x6C else if b = 5 then 0x74 else if 0x10 ≤ b ∧ b < 0x18 then 0xC0
      else if 0x20 ≤ b then 0x54 else 0x44)

/-- LIVE_WRITE of a core's special function unit (R156, R491). -/
def State.sfuLive (s : State) (n : Nat) : State :=
  let p := pageCore n + 0x2000
  let s := (s.perf (0x10 + n) 2 1).setReg (p + 4) (s.reg (p + 4) ||| 1#32)
  if s.reg (p + 8) &&& 1#32 ≠ 0#32 then s.send (.interrupt p) else s

/-- A write of a staged word (R487, R491). -/
def State.stageWrite (s : State) (b off : Nat) (v : Word) : State :=
  if s.commit.pending.contains b then
    (if 0x10 ≤ b ∧ b < 0x18 then s.sfuLive (b - 0x10) else s.errBit ((blockPage b).getD 0) 0)
  else s.setShadow off v

/-- A write of a w1c register: ones clear. When BLK_ERR or a register like it then reads zero, its ERR_INFO is free again. -/
def State.clearWrite (s : State) (b o off : Nat) (v : Word) : State :=
  let w := s.reg off &&& ~~~v
  let s := s.setReg off w
  if w ≠ 0#32 then s
  else if o = 0x818 then s.setReg 0x81C 0#32
  else if o = 0x2004 then s.setReg (off + 8) 0#32
  else match errInfoAt b with
    | some a => s.setReg a 0#32
    | none => s

/-- A write of BLK_CTRL. -/
def State.ctrlWrite (s : State) (b off : Nat) (v : Word) : State :=
  if b = 5 then
    let s := s.setReg off (v &&& 2#32)
    if v.getLsbD 0 then s.wipeWrite else s
  else if b = 0x0A then s.hostCtrl v
  else if 0x10 ≤ b ∧ b < 0x18 then
    let mask : Word := if s.debugPerm 1 then 0xE#32 else 0xA#32
    let s := s.setReg off ((s.reg off &&& ~~~mask) ||| (v &&& mask))
    if v.getLsbD 0 then s.coreReset (b - 0x10) else s
  else if 0x20 ≤ b ∧ b < 0x32 then
    let s := if v.getLsbD 0 then s.retrain (b - 0x20) else s
    if v.getLsbD 1 then s.resumePort (b - 0x20) else s
  else s

/-- A write of BLK_PERF_SEL: a change of EVENT clears the count (R490). -/
def State.perfWrite (s : State) (b off : Nat) (v : Word) : State :=
  let s := if s.reg off = v then s else s.setCount (0x600 + 8 * b) 0
  s.setReg off v

/-- A write of a core's rw registers above the header. -/
def State.coreWrite (s : State) (n o off : Nat) (v : Word) : State :=
  let u := (s.core n).sfu
  let ident (g : SfuBank → SfuBank) : State := s.onCore n fun c => { c with sfu := c.sfu.setShadow (g c.sfu.shadow) }
  let put (g : SfuBank → SfuBank) : State := if u.swapPending then s.sfuLive n else ident g
  if o = 0x50 then (if s.run (0x10 + n) then s.errBit (pageCore n) 0 else s.setReg off v)
  else if o = 0x2020 then ident fun b => { b with id := (b.id >>> 32).truncate 32 ++ v }
  else if o = 0x2024 then ident fun b => { b with id := v ++ b.id.truncate 32 }
  else if inArr o 0x4000 4 4096 then put fun b => { b with prog := store noWord b.prog ((o - 0x4000) / 4) v }
  else if inArr o 0x10000 4 16384 then put fun b => { b with tab := store noWord b.tab ((o - 0x10000) / 4) v }
  else s.setReg off v

/-- A write of an rw register, its reserved bits already zero. -/
def State.rwWrite (s : State) (b o off : Nat) (v : Word) : State :=
  if o = 0x08 then s.ctrlWrite b off v
  else if o = 0x1C then s.perfWrite b off v
  else if o < 0x40 then s.setReg off v
  else if b = 0 ∧ (o = 0x58 ∨ o = 0x5C) then (if s.commit.busy then s.errBit pageGlobal 0 else s.setReg off v)
  else if b = 0 ∧ o = 0x74 then
    (if s.commit.busy then s.errBit pageGlobal 0 else if v = 0#32 then s else s.setReg off v)
  else if b = 4 ∧ o = 0x68 then s.ctlFence v
  else if 0x10 ≤ b ∧ b < 0x18 then s.coreWrite (b - 0x10) o off v
  else s.setReg off v

/-- A write of a wo register: its action. -/
def State.action (s : State) (b o : Nat) (v : Word) : State :=
  if b = 0 then (if o = 0x60 then s.commitWrite v else if o = 0x814 then s.softResetWrite v else s.mboxWrite v)
  else if b = 1 then (if v.getLsbD 0 then s.calOp else s)
  else if b = 4 then
    (if o = 0x64 then s.handSet v
     else if s.handSetEn then s.setReg (pageSync + 0x60) v else s.errBit pageSync 1)
  else if b = 5 then s.ptOpWrite v
  else if b = 0x0A then
    (if o = 0x60 then s.qpOp v
     else if v &&& 3#32 = 0#32 then s else s.queueCtrl ((o - 0x1000) / 0x40) (v.getLsbD 1))
  else if v.getLsbD 0 then s.coreResume (b - 0x10)
  else s

/-- Registers that a chip elsewhere may not write (R462, R497). -/
def secureReg (off : Nat) : Bool :=
  off == 0x58 || off == 0x5C || off == 0x60 || off == 0x814 || off == 0x820 || off == 0x824 || off == 0x828 || inArr off 0x840 4 8

/-- One 32-bit write of the window by a requester class; a remote write that R462 or R497 refuses does not come here. What those rules
keep from the security core or the chip's own cores is discarded. -/
def State.regWrite (s : State) (cls off : Nat) (v : Word) : State :=
  match offsetBlock off with
  | none => s
  | some b =>
    let o := inBlock b off
    if secureReg off ∧ (cls = classCores ∨ (cls = classSecurity ∧ 0x814 ≤ off)) then s
    else match regKind off with
    | .none => s
    | .ro => s
    | .wo => s.action b o v
    | .stg _ => s.stageWrite b off v
    | .rw m => s.rwWrite b o off (v &&& m)
    | .w1c m => s.clearWrite b o off (v &&& m)

/-- REGISTER_WRITE (R487): a write by any requester. One from another chip comes over a link, so none comes to a chip without a plan (R16),
and a soft reset refuses it (R461); to a register that R462 or R497 guards it is refused: it changes nothing but the record of ADDR_SECURE. -/
def execRegisterWrite (who : Requester) (off : Word) (v : Word) (s : State) : Out :=
  let o := off.toNat
  let guarded := secureReg o || decide (0x0200000 ≤ o ∧ o < 0x0300000)
  let done := Host.Outcome.next (s.regWrite (requesterClass who) o v)
  if who = .remote then
    s.fromPeer (if guarded then .next ((s.recordCode eAddrSecure 0).logError eAddrSecure 0 false 0#32) else done)
  else done

/-- A run of words of the window, ascending (R486). -/
def State.regReads (s : State) (cls : Nat) : Nat → Nat → List Byte × State
  | _, 0 => ([], s)
  | off, n + 1 =>
    let (w, s) := s.regRead cls off
    let (bs, s) := s.regReads cls (off + 4) n
    (bytesOf 4 w.toNat ++ bs, s)

def State.regWrites (s : State) (cls : Nat) : Nat → List Word → State
  | _, [] => s
  | off, v :: vs =>
    (s.regWrite cls off v).regWrites cls (off + 4) vs

end Sys2Proof.Machine
end

