-- ==== Sys2Proof/Machine/Blocks.lean ====
section
/-! DEFINITION. The fetch and put engines: FETCH, PUT, the issue of blocks, and AWL_PUT (R84, R85, R188, R204 to R210, R213, R214, R486). -/

namespace Sys2Proof.Machine

/-! ### Blocks (R204, R206) -/

structure Block where
  kind : Nat
  far  : List Byte
  near : Nat
  len  : Nat
  c1   : Nat
  c2   : Nat
  c3   : Nat
  flags : Nat
  f1   : Int
  f2   : Int
  f3   : Int
  rsvd : Nat
  n1   : Nat
  n2   : Nat
  n3   : Nat

def Block.ofBytes (kind : Nat) (b : List Byte) : Block :=
  let f := field b
  let s (o : Nat) : Int := decodeInt 48 (f o 6)
  { kind := kind, far := slice b 0 16, near := f 16 4, len := f 20 4, c1 := f 24 2, c2 := f 26 2, c3 := f 28 2, flags := f 30 2,
    f1 := s 32, f2 := s 38, f3 := s 44, rsvd := f 50 2, n1 := f 52 4, n2 := f 56 4, n3 := f 60 4 }

/-- ZERO (R204). -/
def Block.zero (b : Block) : Bool := b.flags % 2 = 1

def Block.runs (b : Block) : Nat := b.c1 * b.c2 * b.c3
def Block.bytes (b : Block) : Nat := b.runs * b.len

/-- The far side of kinds 0 and 1 (R205). -/
def Block.dev (b : Block) : Dev := if b.kind = 0 then ⟨0xFFFFF, 1, field b.far 0 8⟩ else Dev.of (field b.far 0 8)

def Block.handle (b : Block) : Nat := field b.far 0 4

/-- Byte offset at which the far side starts: in its tier, or in its object. -/
def Block.farOff (b : Block) : Nat := if b.kind = 2 then field b.far 8 8 else b.dev.off

/-- Start of run j on the far and the near side (R206). -/
def Block.farAt (b : Block) (j : Nat) : Int :=
  b.farOff + (j % b.c1 : Nat) * b.f1 + (j / b.c1 % b.c2 : Nat) * b.f2 + (j / (b.c1 * b.c2) : Nat) * b.f3

def Block.nearAt (b : Block) (j : Nat) : Nat := b.near + j % b.c1 * b.n1 + j / b.c1 % b.c2 * b.n2 + j / (b.c1 * b.c2) * b.n3

/-- The far extent that the counts and strides give: its first byte and the byte after its last. -/
def Block.farLo (b : Block) : Int :=
  b.farOff + min 0 (((b.c1 : Int) - 1) * b.f1) + min 0 (((b.c2 : Int) - 1) * b.f2) + min 0 (((b.c3 : Int) - 1) * b.f3)

def Block.farHi (b : Block) : Int :=
  b.farOff + max 0 (((b.c1 : Int) - 1) * b.f1) + max 0 (((b.c2 : Int) - 1) * b.f2) + max 0 (((b.c3 : Int) - 1) * b.f3) + b.len

def Block.nearHi (b : Block) : Nat := b.near + (b.c1 - 1) * b.n1 + (b.c2 - 1) * b.n2 + (b.c3 - 1) * b.n3 + b.len

/-! ### The checks of R207 -/

/-- Stage 1: the shape. -/
def Block.shapeOk (b : Block) : Bool :=
  decide (b.flags < 2 ∧ b.rsvd = 0 ∧ 1 ≤ b.c1 ∧ 1 ≤ b.c2 ∧ 1 ≤ b.c3 ∧ 1 ≤ b.len ∧ b.len ≤ 2 ^ 26) &&
  (if b.kind = 2 then decide (field b.far 4 4 = 0) else decide (field b.far 8 8 = 0))

/-- A step d1 of dimension 1, not 0 unless `zero`, brings two runs at distance v closer than their length. -/
def meets (len c1 : Nat) (s1 v : Int) (zero : Bool) : Bool :=
  let m : Int := (c1 : Int) - 1
  if s1 = 0 then decide (v.natAbs < len) && (zero || decide (1 < c1))
  else
    let a : Int := s1.natAbs
    let lo := max ((-(len : Int) - v) / a + 1) (-m)
    let hi := min (((len : Int) - v - 1) / a) m
    decide (lo ≤ hi) && (zero || !(lo == 0 && hi == 0))

/-- Do two bytes of one side coincide? -/
def coincide (len c1 c2 c3 : Nat) (s1 s2 s3 : Int) : Bool :=
  (List.range c3).any fun d3 => (List.range (2 * c2 - 1)).any fun k =>
    let d2 : Int := (k : Int) - ((c2 : Int) - 1)
    meets len c1 s1 (d2 * s2 + d3 * s3) (d2 != 0 || d3 != 0)

/-- Is some 32-bit access of a tier-2 block unaligned (R486)? -/
def Block.oddWords (b : Block) : Bool :=
  b.kind = 1 && b.dev.tier == 2 &&
  (b.farOff % 4 != 0 || b.len % 4 != 0 || (b.c1 != 1 && b.f1 % 4 != 0) || (b.c2 != 1 && b.f2 % 4 != 0) || (b.c3 != 1 && b.f3 % 4 != 0))

/-- Stage 2 for a device address: R20, R21, then R194. -/
def State.devCheck (s : State) (b : Block) : Option Nat :=
  let d := b.dev
  match s.checkDev true d b.farLo b.farHi with
  | some code => some (if code = eAddrSecure ∧ b.oddWords = true then eAddrRange else code)
  | none =>
    if b.oddWords then some eAddrRange
    else if s.isSelf d.chip && d.tier == 1 && s.protected b.farLo.toNat (b.farHi - b.farLo).toNat then some eObjProtected
    else none

/-- Stage 3: the near side, and the written side. -/
def Block.restOk (b : Block) (put : Bool) : Bool :=
  decide (b.near % 64 = 0 ∧ b.n1 % 64 = 0 ∧ b.n2 % 64 = 0 ∧ b.n3 % 64 = 0 ∧ b.nearHi ≤ wsBytes) &&
  !(if put then coincide b.len b.c1 b.c2 b.c3 b.f1 b.f2 b.f3 else coincide b.len b.c1 b.c2 b.c3 b.n1 b.n2 b.n3)

/-- The first check that fails, with the upper bits of its ERR_INFO. A class 2 code has been taken by the returned state. -/
def State.blockCheck (s : State) (b : Block) (put : Bool) (own : Option Nat) : Option (Nat × Nat) × State :=
  if !b.shapeOk then (some (eBlockBad, 0), s)
  else if b.kind = 2 then
    match s.checkHandle b.handle b.farLo b.farHi put own with
    | (.error code, s) => (some (code, b.handle % 2 ^ 16 * 2 ^ 16), s)
    | (.ok _, s) => (if b.restOk put then none else some (eBlockBad, 0), s)
  else match s.devCheck b with
    | some code => (some (code, 0), s)
    | none => (if b.restOk put then none else some (eBlockBad, 0), s)

/-! ### Destination ranges (R85) -/

/-- Where a T1 byte, another chip's byte or an object's byte lies in the one space in which destinations are compared. -/
def devKey (chip tier off : Nat) : Nat := chip * 2 ^ 44 + tier * 2 ^ 42 + off

def objKey (index off : Nat) : Nat := 2 ^ 80 + index * 2 ^ 64 + off

/-- The destination range of every run: the near side of a FETCH, the far side of a PUT. A resident object's bytes are bytes of T1. -/
def State.blockDst (s : State) (b : Block) (put : Bool) : List (Nat × Nat) :=
  (List.range b.runs).map fun j =>
    if !put then (b.nearAt j, b.len)
    else
      let o := (b.farAt j).toNat
      if b.kind = 2 then
        let e := s.entry (b.handle % 2 ^ 16)
        (if e.policy = 1 then devKey s.chipId 1 (e.t1Base + o) else objKey e.index o, b.len)
      else (devKey (s.chipOf b.dev.chip) b.dev.tier o, b.len)

/-- Do two ranges share a 64-byte granule? -/
def granulesMeet (x y : Nat × Nat) : Bool :=
  decide (x.1 / 64 ≤ (y.1 + y.2 - 1) / 64 ∧ y.1 / 64 ≤ (x.1 + x.2 - 1) / 64)

/-- The transfers that an engine has in flight. -/
def State.transfers (s : State) (n e : Nat) : List Transfer := (((s.core n).eng.flyOf e).map InFlight.open_).flatten

def State.dstBusy (s : State) (n e : Nat) (dst : List (Nat × Nat)) : Bool :=
  (s.transfers n e).any fun t => t.dst.any fun x => dst.any (granulesMeet x)

/-! ### Moving (R206, R209) -/

/-- Change one instruction in flight. -/
def State.onInstr (s : State) (n e iid : Nat) (f : InFlight → InFlight) : State :=
  s.onEng n fun g => g.onFly e fun l => l.map fun i => if i.iid = iid then f i else i

/-- The block that an instruction was at has been issued whole. -/
def State.nextBlock (s : State) (n e iid : Nat) : State :=
  s.onInstr n e iid fun i => { i with block := i.block + 1, pos := 0, open_ := i.open_.filter fun t => t.tags != [] }

/-- Cut `len` bytes from far offset `off` into pieces of one 4 KiB unit: offset within the run, and bytes. -/
def piecesOf : Nat → Nat → Nat → Nat → List (Nat × Nat)
  | 0, _, _, _ => []
  | fuel + 1, off, at_, len =>
    if len = 0 then []
    else
      let k := min len (4096 - off % 4096)
      (at_, k) :: piecesOf fuel (off + k) (at_ + k) (len - k)

/-- The pieces of a run: far offset, working-store offset, bytes. -/
def Block.pieces (b : Block) (j : Nat) : List (Nat × Nat × Nat) :=
  let o := (b.farAt j).toNat
  (piecesOf (b.len / 4096 + 2) o 0 b.len).map fun p => (o + p.1, b.nearAt j + p.1, p.2)

/-- Words of a byte string. -/
def wordList (bs : List Byte) : List Word := (chunksOf (bs.length / 4) 4 bs).map (BitVec.ofNat 32)

/-- Read a range of a tier of this chip; none where a word of T1 is poisoned. -/
def State.tierRead (s : State) (tier off n cls : Nat) (own : Option Nat) : Option (List Byte) × State :=
  if tier = 0 then (some (s.t0 off n), s)
  else if tier = 1 then s.readT1 off n own
  else
    let (bs, s) := s.regReads cls off (n / 4)
    (some bs, s)

/-- Write a range of a tier of this chip. -/
def State.tierWrite (s : State) (tier off cls : Nat) (bs : List Byte) : State :=
  if tier = 0 then s.setT0 off bs else if tier = 1 then s.setT1 off bs else s.regWrites cls off (wordList bs)

/-- Bytes of the near side that a piece writes outward: zeros under ZERO. -/
def State.nearBytes (s : State) (n : Nat) (b : Block) (near k : Nat) : List Byte :=
  if b.zero then List.replicate k 0#8 else s.ws n near k

/-- Move pieces between the working store and a tier of this chip. -/
def State.moveLocal (s : State) (n : Nat) (b : Block) (put : Bool) (own : Option Nat) : List (Nat × Nat × Nat) → State
  | [] => s
  | (far, near, k) :: rest =>
    if put then (s.tierWrite b.dev.tier far classCores (s.nearBytes n b near k)).moveLocal n b put own rest
    else match s.tierRead b.dev.tier far k classCores own with
      | (none, s) => s
      | (some bs, s) => (s.setWs n near bs).moveLocal n b put own rest

/-- Write zeros to the near side of a FETCH with ZERO. -/
def State.zeroNear (s : State) (n : Nat) (b : Block) : State :=
  (List.range b.runs).foldl (fun s j => s.setWs n (b.nearAt j) (List.replicate b.len 0#8)) s

/-- Send the pieces of a block for another chip: the state, the tags, and whether a way was there for all of them. -/
def State.sendPieces (s : State) (n e iid : Nat) (b : Block) (put : Bool) : List (Nat × Nat × Nat) → List Nat → State × List Nat × Bool
  | [], tags => (s, tags, true)
  | (far, near, k) :: rest, tags =>
    let chip := b.dev.chip
    let a := devKey chip b.dev.tier far
    let r := if put then s.request (.piece n e iid) 0x01 chip a k 0 (s.nearBytes n b near k) none
      else s.request (.piece n e iid) 0x02 chip a k 0 [] (some (n * wsBytes + near))
    match r with
    | (s, some tag) => s.sendPieces n e iid b put rest (tags ++ [tag])
    | (s, none) => (s, tags, false)

/-- Halt an instruction at an absent item (R209): its position is saved, and the item is asked for. `last` waits in the transfer, so that no
granule is torn (R112): the end of what a FETCH has read, while the granule it lies in is not whole; what a PUT goes on with of the near granule
that it has begun to read. -/
def State.haltInstr (s : State) (n e : Nat) (i : InFlight) (b : Block) (put : Bool) (ent : Entry) (pos item : Nat)
    (last : List (Nat × List Byte)) : State :=
  let dst := s.blockDst b put
  let s := s.onInstr n e i.iid fun i => { i with
    pos := pos
    halted := some (ent.index, item)
    open_ := (i.open_.filter fun t => t.tags != []) ++ [⟨[], dst, last⟩] }
  s.wantPage ent.index item false

/-- Is this position the first touch of its item by the stream (R200)? -/
def Block.firstTouch (b : Block) (ent : Entry) (pos : Nat) : Bool :=
  let item (p : Nat) : Nat := ((b.farAt (p / b.len)).toNat + p % b.len) / ent.unit
  pos == 0 || item pos != item (pos - 1)

/-- Read data of a run that end within a granule: all but the bytes of that granule, and those bytes, with their T0 offsets. -/
def splitGranule (at_ : Nat) (bs : List Byte) : (Nat × List Byte) × (Nat × List Byte) :=
  let k := bs.length - min bs.length ((at_ + bs.length) % 64)
  ((at_, bs.take k), (at_ + k, bs.drop k))

/-- The rest of the near granule that a PUT is at, within its run, where it has begun to read the granule. -/
def State.granuleRest (s : State) (n : Nat) (b : Block) (pos near : Nat) : List (Nat × List Byte) :=
  let k := min (64 - near % 64) (b.len - pos % b.len)
  if near % 64 = 0 ∨ pos % b.len = 0 then [] else [(near, s.nearBytes n b near k)]

/-- The near bytes that a PUT moves: first what it has read already. -/
def State.putBytes (s : State) (n : Nat) (b : Block) (near k : Nat) (last : List (Nat × List Byte)) : List Byte :=
  let had := ((last.map Prod.snd).flatten).take k
  had ++ s.nearBytes n b (near + had.length) (k - had.length)

/-- Move the pieces of a block whose far side is an object, from a position on. `last` is what has been read of a granule that the run goes on
in. -/
def State.moveObject :
    Nat → State → Nat → Nat → InFlight → Block → Bool → Entry → Option Nat → Nat → List (Nat × List Byte) → State
  | 0, s, n, e, i, _, put, _, _, _, last => (if put then s else s.landAll last).nextBlock n e i.iid
  | fuel + 1, s, n, e, i, b, put, ent, own, pos, last =>
    let landed (s : State) : State := if put then s else s.landAll last
    if b.bytes ≤ pos then (landed s).nextBlock n e i.iid
    else
      let off := (b.farAt (pos / b.len)).toNat + pos % b.len
      let near := b.nearAt (pos / b.len) + pos % b.len
      let k := min (b.len - pos % b.len) (4096 - off % 4096)
      let s := if b.firstTouch ent pos && ent.policy == 2 then s.schedule ent (off / ent.unit) else s
      if s.lostIn ent off k then (landed s).failIssued n e eObjLost i.pc (ent.index * 2 ^ 16)
      else match s.objT1 ent off with
        | none => s.haltInstr n e i b put ent pos (off / ent.unit)
            (if put then (if last = [] then s.granuleRest n b pos near else last) else last)
        | some a =>
          if put then
            let bs := s.putBytes n b near k last
            let more := (last.map fun x => (x.1 + k, x.2.drop k)).filter fun x => x.2 != []
            State.moveObject fuel (s.setObj ent off bs) n e i b put ent own (pos + k) more
          else match s.readT1 a k own with
            | (none, s) => s.landAll last
            | (some bs, s) =>
              let (done, rest) := splitGranule (n * wsBytes + near) bs
              let whole := done.2 != [] || (pos + k) % b.len = 0
              let s := if whole then (s.landAll last).setT0 done.1 done.2 else s
              let held := if whole then [rest] else last ++ [rest]
              if (pos + k) % b.len = 0 then State.moveObject fuel (s.landAll held) n e i b put ent own (pos + k) []
              else State.moveObject fuel s n e i b put ent own (pos + k) held

/-- Pieces a block of an object may have. -/
def Block.fuel (b : Block) : Nat := b.runs * (b.len / 4096 + 2) + 1

/-- Issue a block that has passed its checks, from a position on. -/
def State.runBlock (s : State) (n e : Nat) (i : InFlight) (b : Block) (put : Bool) (own : Option Nat) : State :=
  if !put && b.zero then (s.zeroNear n b).nextBlock n e i.iid
  else if b.kind = 2 then
    State.moveObject b.fuel s n e i b put (s.entry (b.handle % 2 ^ 16)) own i.pos ((i.open_.filter fun t => t.tags == []).map Transfer.land).flatten
  else
    let ps := ((List.range b.runs).map b.pieces).flatten
    if s.isSelf b.dev.chip then (s.moveLocal n b put own ps).nextBlock n e i.iid
    else
      let dst := s.blockDst b put
      match s.sendPieces n e i.iid b put ps [] with
      | (s, tags, ok) =>
        let s := (s.nextBlock n e i.iid).onInstr n e i.iid fun i => { i with open_ := i.open_ ++ [⟨tags, dst, []⟩] }
        if ok then s else s.failIssued n e eAddrUnrouted i.pc

/-- The LIMIT of an engine. -/
def Engines.limit (g : Engines) (e : Nat) : Nat := if e = 0 then g.limitFetch else g.limitPut

/-- The engines of a core issue blocks: nothing has stopped the work that is issued. -/
def State.blocksLive (s : State) (n : Nat) : Bool :=
  let g := (s.core n).eng
  g.flight.isSome && !s.gated n && !g.resetting && g.failed.isNone && !s.fatal && !s.mem.wiping

/-- Block `i.block` of an instruction's list. -/
def State.blockOf (s : State) (n : Nat) (i : InFlight) : Block :=
  let w := i.word.toNat
  Block.ofBytes (bitsOf w 37 36) (s.ws n (64 * bitsOf w 19 0 + 64 * i.block) 64)

/-- Issue the next block of an instruction, or go on with the one that had halted (R208, R209). -/
def State.blockStep (s : State) (n e : Nat) (i : InFlight) : State :=
  let put := e == 3
  let b := s.blockOf n i
  let own := (s.core n).eng.flight
  if i.open_.any fun t => t.tags == [] then s.runBlock n e i b put own
  else if (s.core n).eng.limit e ≤ (s.transfers n e).length then s
  else match s.blockCheck b put own with
    | (some (code, more), s) => if errClass code = 2 then s else s.failIssued n e code i.pc more
    | (none, s) =>
      if s.dstBusy n e (s.blockDst b put) then s
      else (s.onEng n fun g => g.act [(4, b.bytes), (7, 1)]).runBlock n e i b put own

/-- BLOCK_ISSUE (R207 to R209): the oldest instruction of the engine that has not halted and has a block left. -/
def execBlockIssue (c : Fin 8) (e : Engine) (s : State) : Out :=
  if (e.idx ≠ 0 ∧ e.idx ≠ 3) ∨ s.blocksLive c = false then .next s
  else match ((s.core c).eng.flyOf e.idx).find? fun i => i.halted.isNone && decide (i.block < i.blocks) with
    | none => .next s
    | some i => .next (s.blockStep c e.idx i)

/-- The list of a FETCH or PUT lies in the working store (R95). -/
def listCheck (n w : Nat) : Option Nat := if wsFits (64 * bitsOf w 19 0) (64 * bitsOf w 35 20) then none else some (eCore n 6)

/-- FETCH (R204): its blocks issue by BLOCK_ISSUE. -/
def execFetch (c : Fin 8) (s : State) : Out := .next (s.issue c 0 0x10 (fun w _ => listCheck c w) noEffect)

/-- PUT (R204). -/
def execPut (c : Fin 8) (s : State) : Out := .next (s.issue c 3 0x30 (fun w _ => listCheck c w) noEffect)

/-! ### AWL_PUT (R213, R214) -/

/-- The code that an awl record earns; its DST is checked last. -/
def State.awlCode (s : State) (r : List Byte) : Option Nat :=
  let a := field r 0 8
  let len := field r 8 2
  let d := Dev.of a
  if len < 4 ∨ 256 < len ∨ len % 4 ≠ 0 ∨ a % 4 ≠ 0 ∨ 256 < a % 256 + len ∨ (slice r 10 54).any (· != 0#8) then some eAwlBad
  else if d.tier = 2 ∧ s.isSelf d.chip = false ∧ d.chip < 0xFFFC0 ∧ d.chip / 64 ≠ s.chipId / 64 then some eAwlBad
  else match s.checkDev false d d.off (d.off + len) with
    | some code => some code
    | none => if s.isSelf d.chip && d.tier == 1 && s.protected d.off len then some eObjProtected else none

def State.awlCheck (s : State) (n w : Nat) : Option Nat :=
  let o := 64 * bitsOf w 19 0
  if !wsFits o 320 then some (eCore n 6) else s.awlCode (s.ws n o 320)

/-- Hand a record to the awl path: here it lands at once. -/
def State.awlSend (s : State) (n pc : Nat) (r : List Byte) : State :=
  let a := field r 0 8
  let data := slice r 64 (field r 8 2)
  let d := Dev.of a
  if s.isSelf d.chip then s.tierWrite d.tier d.off classCores data
  else match s.request (.awl n ((s.core n).eng.flight.getD 0) pc) 0x04 d.chip a data.length 0 data none with
    | (s, some tag) => s.onEng n fun g => { g with awls := g.awls ++ [tag] }
    | (s, none) => s.failIssued n 3 eAddrUnrouted pc

/-- AWL_PUT: it waits while 16 are not acknowledged, and during a wipe of T1. -/
def execAwlPut (c : Fin 8) (s : State) : Out :=
  .next (s.issue c 3 0x32 (fun w s => s.awlCheck c w)
    fun w pc _ s => s.awlSend c pc (s.ws c (64 * bitsOf w 19 0) 320))

end Sys2Proof.Machine
end

