-- ==== Sys2Proof/Machine/Msgs.lean ====
section
/-! DEFINITION. Messages at their destination: the requests of VC 0, and the responses that end this chip's own requests
(R11, R16, R21, R30, R31, R117, R131, R191, R194, R214, R357, R404, R461, R522). -/

namespace Sys2Proof.Machine

/-- Keep an access until the wipe in progress has ended (R191). -/
def State.holdAccess (s : State) (i : Instr) : State := { s with mem := { s.mem with held := s.mem.held ++ [i] } }

/-! ### Requests -/

/-- Answer a request on VC 1; a response that has no way is lost (R522). -/
def State.answer (s : State) (m : Msg) (type len : Nat) (data : List Byte) : State :=
  (s.sendMsg type s.chipId m.src.toNat 0 m.tag.toNat 0 len 0 [] data).1

/-- Refuse a request with a code that this chip records. -/
def State.refuseMsg (s : State) (m : Msg) (code : Nat) : State :=
  ((s.recordCode code 0).logError code 0 false 0#32).refuseTo m.src.toNat m.tag code

/-- Does a range of words reach a register that another chip may not write? -/
def guardedWords (off n : Nat) : Bool := (List.range (n / 4)).any fun i => secureReg (off + 4 * i)

/-- The checks of a remote access at its destination (R18, R21, R194, R462, R486, R497). -/
def State.remoteCode (s : State) (d : Dev) (n : Nat) (write : Bool) : Option Nat :=
  if d.tier = 3 then some eAddrTier
  else if tierBytes d.tier < d.off + n then some eAddrRange
  else if d.tier = 2 ∧ (d.off % 4 ≠ 0 ∨ n % 4 ≠ 0) then some eAddrRange
  else if d.tier = 2 ∧ ((d.off < 0x0300000 ∧ 0x0200000 < d.off + n) ∨ (write = true ∧ guardedWords d.off n = true)) then some eAddrSecure
  else if d.tier = 1 ∧ s.protected d.off n = true then some eObjProtected
  else none

/-- A write of another chip lands and is acknowledged, or is refused; `again` waits for the end of a wipe. -/
def State.takeWrite (s : State) (m : Msg) (data : List Byte) (again : Instr) : State :=
  let d := Dev.of m.addr.toNat
  if s.sec.softReset then s.refuseMsg m eSecResetting
  else if d.tier = 1 ∧ s.mem.wiping = true then s.holdAccess again
  else match s.remoteCode d data.length true with
    | some code => s.refuseMsg m code
    | none => (s.tierWrite d.tier d.off classRemote data).answer m 0x81 0 []

/-- A read of another chip is answered, or refused. -/
def State.takeRead (s : State) (m : Msg) (again : Instr) : State :=
  let d := Dev.of m.addr.toNat
  if s.sec.softReset then s.refuseMsg m eSecResetting
  else if d.tier = 1 ∧ s.mem.wiping = true then s.holdAccess again
  else match s.remoteCode d m.len false with
    | some code => s.refuseMsg m code
    | none =>
      match s.tierRead d.tier d.off m.len classRemote none with
      | (none, s) => s.refuseTo m.src.toNat m.tag eT1Ue
      | (some bs, s) => s.answer m 0x82 m.len bs

/-- May a message of this length stand in this chip's input? -/
def State.forMe (s : State) (m : Msg) : Bool := s.heard m.port && decide (m.dst.toNat = s.chipId)

/-- MSG_WRITE (R11, R357). -/
def execMsgWrite (m : Msg) (data : List Byte) (s : State) : Out :=
  if data.length ≠ m.len ∨ 4096 < m.len then .fault .illFormed
  else if s.forMe m then .next (s.takeWrite m data (.msgWrite m data)) else .next s

/-- MSG_READ (R357). -/
def execMsgRead (m : Msg) (s : State) : Out :=
  if 4096 < m.len then .fault .illFormed
  else if s.forMe m then .next (s.takeRead m (.msgRead m)) else .next s

/-- MSG_AWL (R214). -/
def execMsgAwl (m : Msg) (data : List Byte) (s : State) : Out :=
  if data.length ≠ m.len ∨ 256 < m.len then .fault .illFormed
  else if s.forMe m then .next (s.takeWrite m data (.msgAwl m data)) else .next s

/-- An increment from another chip. The message does not say which source within the chip it comes from, so that part of
DBG_LAST_SRC is a free value. -/
def State.takeSignal (s : State) (m : Msg) : State :=
  let a := m.addr.toNat
  let onCore := a / 2 ^ 20 % 2 == 1
  let index := a / 2 ^ 21 % 2 ^ 12
  let amount := signalAmount a m.aux.toNat
  let (v, s) := s.draw
  let src := m.src.toNat + v.toNat % 2 ^ 9 * 2 ^ 20
  let r := if onCore then (if amount < 0 then (s, some eCcDecEvent) else s.landSignal true index amount.toNat src)
    else s.addChipSigned index amount src
  match r with
  | (s, none) => s.answer m 0x81 0 []
  | (s, some code) => (s.ctrErr code (if onCore then sigCounter index else index)).refuseTo m.src.toNat m.tag code

/-- MSG_SIGNAL (R117, R131). -/
def execMsgSignal (m : Msg) (s : State) : Out :=
  if !s.forMe m then .next s
  else if s.sec.softReset then .next (s.refuseMsg m eSecResetting)
  else .next (s.takeSignal m)

/-- Commands held in a queue's fan-out buffer (R404). -/
def State.fanHeld (s : State) (q : Nat) : Nat :=
  ((s.queue q).arrivals.filter fun a => match a with
    | .fan _ _ _ _ => true
    | .host _ => false).length

/-- The code that a fanned-out command earns on arrival (R26, R31, R404). -/
def State.fanCode (s : State) (f : FanHdr) (q : Nat) : Option Nat :=
  match s.group? f.group.toNat with
  | none => some eGroupEpoch
  | some g =>
    if g.epoch ≠ f.epoch then some eGroupEpoch
    else if 16 < f.level then some eGroupDepth
    else if s.cqEn q = false ∨ 64 ≤ s.fanHeld q then some eGroupQueue
    else if (s.chain g).any s.listBad then some eGroupList
    else none

/-- The MATCH of this chip, begun by the fan-out message of a TAG, that waits for the length its sender decides (R263). -/
def State.matchWaits (s : State) (m : Msg) (tag : Nat) : Option Flight :=
  s.cmd.flights.find? fun f => f.origin == .fan m.src.toNat tag (match f.origin with
    | .fan _ _ l => l
    | .ring _ _ => 0) && f.opcode == 0x14 && f.round == 2 && f.stage == .running

/-- The command of the group that a notice of a class 1 end names, by its queue and its TAG: in flight here, or held in the queue's buffer. -/
def Flight.named (f : Flight) (q tag : Nat) : Bool := f.scope && f.queue == q && f.tagWord.toNat == tag && !f.cut

/-- A command of a group has ended with class 1 on another member (R31, R441, R442): its part here ends, one that is still held completes
without starting, the queue of the same number stops, and the notice goes on to the members that this chip stands for. On the entry member
the queue stops when the command completes. -/
def State.takeEnd (s : State) (m : Msg) (f : FanHdr) (tag code : Nat) : State :=
  let q := m.aux.toNat % 64
  let s := s.tellEnd f.group.toNat f.level tag q code
  match s.cmd.flights.find? fun x => x.named q tag with
  | some x =>
    let s := s.endPart x.id code
    match x.origin with
    | .ring _ _ => s
    | .fan _ _ _ => s.onQueue q fun k => k.stop []
  | none =>
    let held (a : Arrival) : Bool := match a with
      | .fan _ _ _ body => decide (field body 4 4 = tag)
      | .host _ => false
    let s := match (s.queue q).arrivals.find? held with
      | some (.fan chip t _ _) => s.sendFan chip 2 t q [] (List.replicate 20 0#8)
      | _ => s
    s.onQueue q fun k => { k.stop [] with arrivals := k.arrivals.eraseP held }

/-- A fanned-out command joins its queue, or is refused. Ten bytes of data are the notice of a class 1 end: its kind, the TAG of the command
and the code; twelve are the length that a MATCH waits for: its kind, the TAG of the fan-out message and the length. -/
def State.takeFan (s : State) (m : Msg) (f : FanHdr) (data : List Byte) : State :=
  let q := m.aux.toNat % 64
  if data.length = 12 then match s.matchWaits m (field data 4 4) with
    | some g => s.matchAttach g.id (field data 8 4)
    | none => s
  else if data.length = 10 then s.withGroup f.group.toNat fun s => s.takeEnd m f (field data 4 4) (field data 8 2)
  else match (s.group? f.group.toNat).bind s.listsUe, s.fanCode f q with
    | some w, _ => (s.reportUe w none).refuseTo m.src.toNat m.tag eT1Ue
    | none, some code => s.refuseMsg m code
    | none, none => s.onQueue q fun k => { k with arrivals := k.arrivals ++ [.fan m.src.toNat m.tag.toNat f.level data] }

/-- MSG_FANOUT (R30, R31, R403, R404). -/
def execMsgFanout (m : Msg) (f : FanHdr) (data : List Byte) (s : State) : Out :=
  if data.length ≠ m.len ∨ 256 < m.len then .fault .illFormed
  else if !s.forMe m then .next s
  else if s.sec.softReset then .next (s.refuseMsg m eSecResetting)
  else .next (s.takeFan m f data)

/-! ### Responses -/

/-- The request that a response answers: its TAG, and the chip it went to. -/
def State.answered (s : State) (m : Msg) : Option Request :=
  match s.request? m.tag.toNat with
  | some r => if r.chip = m.src.toNat then some r else none
  | none => none

/-- MSG_ACK (R11): it answers a request that brings no data. -/
def execMsgAck (m : Msg) (s : State) : Out :=
  if !s.forMe m then .next s
  else match s.answered m with
    | none => .next s
    | some r => if r.land.isNone then .next (s.acked r) else .next s

/-- Read data arrive: they land, and the request is over. -/
def State.takeData (s : State) (m : Msg) (data : List Byte) (again : Instr) : State :=
  match s.answered m with
  | none => s
  | some r =>
    match r.land with
    | none => s
    | some pos =>
      if data.length ≠ r.len then s
      else match r.owner with
        | .command id =>
          if s.mem.wiping then s.holdAccess again else ((s.landData r pos data).released r).commandAnswered id r.tag
        | _ => (s.landData r pos data).released r

/-- MSG_READ_DATA (R357). -/
def execMsgReadData (m : Msg) (data : List Byte) (s : State) : Out :=
  if data.length ≠ m.len ∨ 4096 < m.len then .fault .illFormed
  else if s.forMe m then .next (s.takeData m data (.msgReadData m data)) else .next s

/-- MSG_REFUSE (R522): the code in AUX ends the request. It may come from a chip on the way. -/
def execMsgRefuse (m : Msg) (s : State) : Out :=
  if !s.forMe m then .next s
  else match s.request? m.tag.toNat with
    | none => .next s
    | some r => .next (s.refused r (m.aux.toNat % 2 ^ 16) (BitVec.ofNat 32 m.src.toNat))

end Sys2Proof.Machine
end

