-- ==== Sys2Proof/Machine/Host.lean ====
section
/-! DEFINITION. The host port's protocols: RDMA, doorbells, the answers to record writes, and the Register Window Protocol (R380, R382 to
R386, R390, R403, R408). -/

namespace Sys2Proof.Machine

/-! ### What the port takes (R379) -/

/-- The chip's own IPv4 address, as an IPv6 address of the form ::ffff:a.b.c.d. -/
def State.ipv4 (s : State) : Nat := 0xFFFF * 2 ^ 32 + natOf (bytesOf 4 (s.stg (pageHost + 0x10C)).toNat).reverse

/-- An IPv6 address in four registers: its sixteen bytes in network order. -/
def State.addressAt (s : State) (o : Nat) : Nat :=
  natOf ((List.range 4).map fun w => bytesOf 4 (s.stg (o + 4 * w)).toNat).flatten.reverse

/-- Does the port take an IP packet: a frame of up to 9,216 bytes with at most one 802.1Q tag, to one of the chip's own addresses? An
address of all zero is none. -/
def State.takes (s : State) (p : Packet) : Bool :=
  decide (p.size ≤ 9216 ∧ p.tags ≤ 1) &&
    ((s.stg (pageHost + 0x10C) != 0#32 && p.dst.toNat == s.ipv4) ||
      (s.addressAt (pageHost + 0x110) != 0 && p.dst.toNat == s.addressAt (pageHost + 0x110)))

/-- Does a QP take this packet: one to the chip, on a QP in RTS (R380, R381)? -/
def State.qpTakes (s : State) (qp : Nat) (p : Packet) : Bool := s.takes p && (s.qp qp).state == 1

/-! ### RoCEv2 (R380, R382) -/

/-- A region that maps the rkey over a range with one of these rights: 1 read, 2 write, 4 doorbell. -/
def State.regionGrants (s : State) (rkey addr n right : Nat) : Bool :=
  (List.range 64).any fun m =>
    let (base, len, rights) := regionOf s.stg m
    decide ((s.stg (0x0A00400 + 32 * m)).toNat = rkey ∧ base ≤ addr ∧ addr + n ≤ base + len ∧ addr + n ≤ t1Bytes) &&
      Nat.land rights right != 0

/-- A packet that leaves on a QP. Kinds: 0 ACK, 1 NAK for a sequence error, 2 NAK for an invalid request, 3 NAK for a remote access,
4 NAK for a remote operational error, 5 READ response, 6 CNP. -/
def State.roce (s : State) (qp psn kind : Nat) (data : List Byte) : State := s.send (.roce s.hop qp psn kind data)

/-- Send a NAK and count it. -/
def State.nak (s : State) (qp psn kind : Nat) : State := (s.bump (pageHost + 0x50)).roce qp psn kind []

/-- A CNP answers a packet that is marked (R380). -/
def State.congested (s : State) (qp : Nat) (ecn : Bool) : State := if ecn then s.roce qp 0 6 [] else s

/-- Packets of a message at the QP's MTU. -/
def Qp.packets (p : Qp) (n : Nat) : Nat := max 1 (ceilDiv n (128 * 2 ^ p.mtu))

/-- Where a PSN stands: the one expected, one already seen, or one ahead. -/
inductive PsnIs where
  | expected | seen | ahead
  deriving DecidableEq

def Qp.place (p : Qp) (psn : Nat) : PsnIs :=
  let d := (psn + 2 ^ 24 - p.rqPsn) % 2 ^ 24
  if d = 0 then .expected else if 2 ^ 23 ≤ d then .seen else .ahead

def State.advancePsn (s : State) (qp n : Nat) : State :=
  s.onQp qp fun p => { p with rqPsn := (p.rqPsn + p.packets n) % 2 ^ 24 }

/-- An RDMA WRITE on a QP in RTS (R382). -/
def State.takeRdmaWrite (s : State) (qp psn rkey addr : Nat) (data : List Byte) : State :=
  match (s.qp qp).place psn with
  | .ahead => s.nak qp (s.qp qp).rqPsn 1
  | .seen => s.roce qp psn 0 []
  | .expected =>
    if s.regionGrants rkey addr data.length 2 then ((s.setT1 addr data).advancePsn qp data.length).roce qp psn 0 []
    else s.nak qp psn 3

/-- RDMA_WRITE (R382, R383); one that arrives in a wipe waits for its end. -/
def execRdmaWrite (qp : Fin 256) (psn : BitVec 24) (rkey : Word) (addr : Dword) (data : List Byte) (p : Packet) (s : State) : Out :=
  if !s.qpTakes qp p then .next s
  else if s.mem.wiping then .next (s.holdAccess (.rdmaWrite qp psn rkey addr data p))
  else .next ((s.takeRdmaWrite qp psn.toNat rkey.toNat addr.toNat data).congested qp p.ecn)

/-- An RDMA READ on a QP in RTS; one seen before is answered again. -/
def State.takeRdmaRead (s : State) (qp psn rkey addr len : Nat) : State :=
  let place := (s.qp qp).place psn
  if place = .ahead then s.nak qp (s.qp qp).rqPsn 1
  else if !s.regionGrants rkey addr len 1 then s.nak qp psn 3
  else match s.readT1 addr len none with
    | (none, s) => s.nak qp psn 4
    | (some bs, s) => (if place = .expected then s.advancePsn qp len else s).roce qp psn 5 bs

/-- READs of a QP that wait for their answer. -/
def State.openReads (s : State) (qp : Nat) : Nat :=
  s.mem.held.countP fun i => match i with
    | .rdmaRead q .. => q.val == qp
    | _ => false

/-- RDMA_READ (R380, R382): a seventeenth outstanding READ of a QP is a feature that the chip has not, so it gets the NAK of R380. -/
def execRdmaRead (qp : Fin 256) (psn : BitVec 24) (rkey : Word) (addr : Dword) (len : Nat) (p : Packet) (s : State) : Out :=
  if !s.qpTakes qp p then .next s
  else if 16 ≤ s.openReads qp then .next ((s.nak qp psn.toNat 2).congested qp p.ecn)
  else if s.mem.wiping then .next (s.holdAccess (.rdmaRead qp psn rkey addr len p))
  else .next ((s.takeRdmaRead qp psn.toNat rkey.toNat addr.toNat len).congested qp p.ecn)

/-- UNSUPPORTED_ROCE_PACKET (R380). -/
def execUnsupportedRocePacket (qp : Fin 256) (psn : BitVec 24) (p : Packet) (s : State) : Out :=
  if !s.qpTakes qp p then .next s else .next ((s.nak qp psn.toNat 2).congested qp p.ecn)

/-! ### Doorbells (R390, R403) -/

/-- Does R390 ignore this immediate? -/
def State.doorbellBad (s : State) (qp imm : Nat) : Bool :=
  let q := imm % 64
  let fresh := (imm / 2 ^ 8 + 2 ^ 24 - s.cqHead q) % 2 ^ 24
  let prev := (s.cqTail q + 2 ^ 24 - s.cqHead q) % 2 ^ 24
  decide (imm / 2 ^ 6 % 4 ≠ 0 ∨ s.cqQp q ≠ qp ∨ s.cqSlots q < fresh ∨ fresh < prev) || !s.cqEn q

/-- The immediate of a doorbell: slots are posted, or it is ignored. -/
def State.ring (s : State) (qp imm : Nat) : State :=
  let q := imm % 64
  if s.doorbellBad qp imm then (s.bump (pageHost + 0x58)).advisory eHpDoorbellBad (q * 2 ^ 16 + qp * 2 ^ 22) none
  else (s.setTail q (imm / 2 ^ 8)).onQueue q fun k => { k with arrivals := k.arrivals ++ [.host (imm / 2 ^ 8 % 2 ^ 24)] }

/-- An RDMA WRITE with immediate: its data land where the region grants writing, and its immediate rings where it grants doorbells. One
that is ahead of a write that was lost is asked for again, so it rings after that write; one already seen does not ring twice. -/
def State.takeDoorbell (s : State) (qp psn rkey addr : Nat) (data : List Byte) (imm : Nat) : State :=
  match (s.qp qp).place psn with
  | .ahead => s.nak qp (s.qp qp).rqPsn 1
  | .seen => s.roce qp psn 0 []
  | .expected =>
    let bell := s.regionGrants rkey addr data.length 4
    let write := s.regionGrants rkey addr data.length 2
    if !(bell || write) then s.nak qp psn 3
    else
      let s := if write then s.setT1 addr data else s
      let s := (s.advancePsn qp data.length).roce qp psn 0 []
      if bell then s.ring qp imm else s

/-- DOORBELL (R390): after every earlier write of its QP (R383), so it too waits for the end of a wipe. -/
def execDoorbell (qp : Fin 256) (psn : BitVec 24) (rkey : Word) (addr : Dword) (data : List Byte) (imm : Word) (p : Packet) (s : State) :
    Out :=
  if !s.qpTakes qp p then .next s
  else if s.mem.wiping then .next (s.holdAccess (.doorbell qp psn rkey addr data imm p))
  else .next ((s.takeDoorbell qp psn.toNat rkey.toNat addr.toNat data imm.toNat).congested qp p.ecn)

/-! ### Record writes (R380, R381, R408) -/

/-- Send the writes of a QP that are not acknowledged once more, and count them. -/
def State.resend (s : State) (qp : Nat) : State :=
  let l := (s.qp qp).unacked
  let s := l.foldl (fun s r =>
    s.send (.record s.hop qp r.1 r.2.2.1 (s.stg (cqPage r.2.1 + 0x18)) r.2.2.2.1 r.2.2.2.2)) s
  s.bump (pageHost + 0x54) l.length

/-- Go back and send again, or enter ERROR once the retries are used up. -/
def State.retry (s : State) (qp : Nat) : State :=
  if (s.qp qp).retry ≤ (s.qp qp).tries then s.qpError qp
  else (s.onQp qp fun p => { p with tries := p.tries + 1 }).resend qp

/-- Forget the writes that a PSN acknowledges; with `own` also its own. -/
def State.ackRecords (s : State) (qp psn : Nat) (own : Bool) : State :=
  let keep (r : Nat × Nat × Nat × List Byte × Option Nat) : Bool :=
    let d := (psn + 2 ^ 24 - r.1) % 2 ^ 24
    decide (2 ^ 23 ≤ d) || (d == 0 && !own)
  s.onQp qp fun p =>
    let l := p.unacked.filter keep
    { p with unacked := l, tries := if l.length < p.unacked.length then 0 else p.tries }

/-- ROCE_ACK (R380, R381). -/
def execRoceAck (qp : Fin 256) (psn : BitVec 24) (r : RoceReply) (p : Packet) (s : State) : Out :=
  if !s.qpTakes qp p then .next s
  else
    let s := s.congested qp p.ecn
    match r with
    | .ack => .next (s.ackRecords qp psn.toNat true)
    | .nakSequence => .next (((s.bump (pageHost + 0x50)).ackRecords qp psn.toNat false).retry qp)
    | .nakError => .next (((s.bump (pageHost + 0x50)).ackRecords qp psn.toNat false).qpError qp)

/-- QP_TIMEOUT (R380): a QP with a write not acknowledged. -/
def execQpTimeout (qp : Fin 256) (s : State) : Out :=
  if (s.qp qp).state ≠ 1 ∨ (s.qp qp).unacked = [] then .next s else .next (s.retry qp)

/-- CNP (R380): the send rate is halved whatever the QP's state. -/
def execCnp (qp : Fin 256) (p : Packet) (s : State) : Out :=
  if !s.takes p then .next s else .next ((s.onQp qp fun p => { p with halvings := p.halvings + 1 }).congested qp p.ecn)

/-! ### Register Window Protocol (R384 to R386) -/

/-- The address of an allowlist entry. -/
def State.rwpEntry (s : State) (i : Nat) : Nat := s.addressAt (pageHost + 0x200 + 16 * i)

/-- The allowlist entry of a source address. -/
def State.rwpAllowed (s : State) (src : BitVec 128) : Option Nat :=
  (List.range 16).find? fun i => (s.stg (pageHost + 0x130)).getLsbD i && s.rwpEntry i == src.toNat

/-- STATUS of a request: a malformed one first, since it names no range. -/
def rwpStatus (h : RwpHdr) (shapeOk : Bool) : Nat :=
  let a := h.addr.toNat
  if !shapeOk ∨ 2 ^ 26 ≤ a ∨ a % 4 ≠ 0 ∨ h.count = 0 ∨ 64 < h.count ∨ h.status ≠ 0#8 ∨ h.reserved ≠ 0#8 then 3
  else if a < 0x0300000 ∧ 0x0200000 < a + 4 * h.count then 1
  else if 0x4000000 < a + 4 * h.count then 2
  else 0

/-- A response (R384). -/
def rwpBytes (h : RwpHdr) (op status : Nat) (data : List Byte) : List Byte :=
  bytesOf 2 0x5257 ++ bytesOf 1 1 ++ bytesOf 1 op ++ bytesOf 4 h.seq.toNat ++ bytesOf 4 h.addr.toNat ++ bytesOf 2 h.count ++
  bytesOf 1 status ++ [0#8] ++ data

def State.rwpPort (s : State) : Nat := (s.stg (pageHost + 0x124)).toNat % 2 ^ 16

/-- Answer, and keep the answer for a repeated SEQ. -/
def State.rwpAnswer (s : State) (h : RwpHdr) (i : Nat) (bytes : List Byte) : State :=
  State.send { s with host := { s.host with rwpLast := store (fun _ => none) s.host.rwpLast i (some (h.seq.toNat, bytes)) } }
    (.rwp s.hop h.src s.rwpPort bytes)

/-- Execute a new request by `run`, whose data the response `op` carries, or refuse it. -/
def State.rwpFresh (s : State) (h : RwpHdr) (op : Nat) (shapeOk : Bool) (run : State → List Byte × State) (i : Nat) : State :=
  let status := rwpStatus h shapeOk
  if status ≠ 0 then s.rwpAnswer h i (rwpBytes h 0xFF status [])
  else
    let (data, s) := run s
    (s.bump (pageHost + 0x48)).rwpAnswer h i (rwpBytes h op 0 data)

/-- A datagram: none of this protocol's where it is to another address or UDP port (R379, R384); dropped, answered from the copy of its
SEQ, or executed (R385, R386). -/
def State.rwpServe (s : State) (h : RwpHdr) (op : Nat) (shapeOk : Bool) (run : State → List Byte × State) : State :=
  if !s.takes h.packet || h.udp.toNat != s.rwpPort then s
  else match s.rwpAllowed h.src with
  | none => s.bump (pageHost + 0x4C)
  | some i =>
    if h.magic ≠ 0x5257#16 ∨ h.ver ≠ 1#8 then s.bump (pageHost + 0x4C)
    else match look (fun _ => none) s.host.rwpLast i with
      | some (seq, bytes) => if seq = h.seq.toNat then s.send (.rwp s.hop h.src s.rwpPort bytes) else s.rwpFresh h op shapeOk run i
      | none => s.rwpFresh h op shapeOk run i

/-- Take a datagram as what its OP makes it (R384, R385): a WRITE carries COUNT words; a READ that carries DATA, and an OP that is
neither, are malformed. -/
def State.rwpTake (s : State) (h : RwpHdr) (data : List Word) : State :=
  if h.op = 2#8 then s.rwpServe h 0x82 (data.length == h.count) fun s => ([], s.regWrites classRwp h.addr.toNat data)
  else s.rwpServe h 0x81 (h.op == 1#8 && data.isEmpty) fun s => s.regReads classRwp h.addr.toNat h.count

/-- RWP_READ (R385). -/
def execRwpRead (h : RwpHdr) (data : List Word) (s : State) : Out := .next (s.rwpTake h data)

/-- RWP_WRITE (R385). -/
def execRwpWrite (h : RwpHdr) (data : List Word) (s : State) : Out := .next (s.rwpTake h data)

end Sys2Proof.Machine
end

