-- ==== Sys2Proof/Machine/Held.lean ====
section
/-! DEFINITION. The end of a T1 wipe: the placement table is free, and the accesses that waited are performed in the order in which they
came (R191, R459). -/

namespace Sys2Proof.Machine

/-- Perform an access that has waited. What is no access to T1 never waits. -/
def State.perform (s : State) (i : Instr) : State :=
  match i with
  | .msgWrite m d => s.takeWrite m d i
  | .msgRead m => s.takeRead m i
  | .msgAwl m d => s.takeWrite m d i
  | .msgReadData m d => s.takeData m d i
  | .rdmaWrite qp psn rkey addr d p =>
    if (s.qp qp).state ≠ 1 then s else (s.takeRdmaWrite qp psn.toNat rkey.toNat addr.toNat d).congested qp p.ecn
  | .rdmaRead qp psn rkey addr len p =>
    if (s.qp qp).state ≠ 1 then s else (s.takeRdmaRead qp psn.toNat rkey.toNat addr.toNat len).congested qp p.ecn
  | .doorbell qp psn rkey addr d imm p =>
    if (s.qp qp).state ≠ 1 then s else (s.takeDoorbell qp psn.toNat rkey.toNat addr.toNat d imm.toNat).congested qp p.ecn
  | .rdData r tag d => s.takeRdData r tag d i
  | .create x => s.ptRun 1 x.toNat
  | .free x => s.ptRun 2 x.toNat
  | .flush x => s.ptRun 3 x.toNat
  | .prefetch x => s.ptRun 4 x.toNat
  | .lcTransition _ => s.lcGo
  | _ => s

/-- T1_WIPE_END (R191). An access that starts a new wipe leaves the rest waiting for that one's end. -/
def execT1WipeEnd (s : State) : Out :=
  if !s.mem.wiping then .next s
  else s.live <|
    let l := s.mem.held
    let s := s.endWipe
    .next (l.foldl (fun s i => if s.mem.wiping then s.holdAccess i else s.perform i)
      { s with mem := { s.mem with held := [] } })

end Sys2Proof.Machine
end

