-- ==== Sys2Proof/Machine/Sideband.lean ====
section
/-! DEFINITION. The SMBus target and the TAP (R483, R511, R512). -/

namespace Sys2Proof.Machine

/-! ### SMBus (R511) -/

/-- What the target answers: nothing while PWRGD or RESET_N is low, that is until BOOT ends the reset (R506, R511). -/
def State.smbSend (s : State) (reply : Option (List Byte)) : State := s.send (.smbus (if s.sec.inReset then none else reply))

/-- Answer a read command: its data, and the packet error code over the whole transfer. -/
def State.smbReply (s : State) (code : Nat) (data : List Byte) : State :=
  let a := 2 * s.side.address
  let head := [BitVec.ofNat 8 a, BitVec.ofNat 8 code, BitVec.ofNat 8 (a + 1)]
  s.smbSend (some (data ++ [BitVec.ofNat 8 (pec (head ++ data))]))

def State.smbWord (s : State) (code v : Nat) : State := s.smbReply code (bytesOf 2 v)

/-- A block read: the byte count, then the bytes. -/
def State.smbBlock (s : State) (code : Nat) (data : List Byte) : State := s.smbReply code (bytesOf 1 data.length ++ data)

/-- The value of a register of a page. -/
def State.pageVal (s : State) (b o : Nat) : Nat := (s.regVal b o ((blockPage b).getD 0 + o)).toNat

/-- A word that the power controller supplies, once it runs (R470 step 4). -/
def State.powerWord (s : State) (o : Nat) : Nat := if s.power.lit then s.pageVal 1 o % 2 ^ 16 else 0x8000

/-- The status word: STAGE 4, the levels of FAULT_N and THERMTRIP_N, the thermal throttle, CAP_SAT. -/
def State.smbStatus (s : State) : Nat :=
  bit (s.sec.stage == 4) 0 + bit s.faultLow 1 + bit s.power.tripPin 2 + bit (decide (s.power.kTherm < 64)) 3 + bit s.power.capSat 4

def execSmbStatus (s : State) : Out := .next (s.smbWord 0x01 s.smbStatus)
def execSmbTempMax (s : State) : Out := .next (s.smbWord 0x02 (s.powerWord 0x4C))
def execSmbPwrEst (s : State) : Out := .next (s.smbWord 0x03 (s.powerWord 0x44))
def execSmbPwrAvg (s : State) : Out := .next (s.smbWord 0x04 (s.powerWord 0x48))
def execSmbFatalCode (s : State) : Out := .next (s.smbWord 0x05 (s.pageVal 0 0x210 % 2 ^ 16))
def execSmbLcState (s : State) : Out := .next (s.smbWord 0x06 (s.pageVal 0 0x804 % 2 ^ 16))
def execSmbChipId (s : State) : Out := .next (s.smbBlock 0x07 (bytesOf 4 (s.pageVal 0 0x40)))
def execSmbSerial (s : State) : Out := .next (s.smbBlock 0x08 (bytesOf 8 Config.serial.toNat))
def execSmbDevice (s : State) : Out := .next (s.smbBlock 0x09 (bytesOf 4 (s.pageVal 0 0x44)))
def execSmbEnergy (s : State) : Out := .next (s.smbBlock 0x0A (bytesOf 8 (s.wideVal 1 0x50 0x0100050)))

/-- SMB_UNLISTED_COMMAND: no acknowledgement. A read of a listed code is no such transaction. -/
def execSmbUnlistedCommand (code : Byte) (isWrite : Bool) (s : State) : Out :=
  if isWrite = false ∧ 1 ≤ code.toNat ∧ code.toNat ≤ 0x0A then .next s else .next (s.send (.smbus none))

/-- The unique device identifier, high byte first: the chip serial in its low 64 bits. -/
def udid : List Byte := (bytesOf 8 Config.serial.toNat ++ bytesOf 8 Config.udidHigh.toNat).reverse

/-- The answer to a Get UDID whose command byte is `code`: byte count, identifier, address, packet error code. -/
def State.sendUdid (s : State) (code : Nat) : State :=
  let data := bytesOf 1 17 ++ udid ++ bytesOf 1 (2 * s.side.address + 1)
  s.send (.smbus (some (data ++ [BitVec.ofNat 8 (pec ([0xC2#8, BitVec.ofNat 8 code, 0xC3#8] ++ data))])))

/-- The target's address is the default one again, and not resolved. -/
def State.arpReset (s : State) : State := State.send { s with side := { s.side with address := 0x5A, resolved := false } } (.smbus (some []))

/-- SMB_ARP: the Address Resolution Protocol of SMBus 3.2. A directed command names the target by its address, whether resolved or not; any
other address gets no acknowledgement. -/
def State.arp (s : State) (op : ArpOp) : State :=
  if s.sec.inReset then s.send (.smbus none) else
  match op with
  | .prepare => State.send { s with side := { s.side with resolved := false } } (.smbus (some []))
  | .resetDevice => s.arpReset
  | .getUdid => if s.side.resolved then s.send (.smbus none) else s.sendUdid 0x03
  | .resetDeviceAt a => if a.toNat = s.side.address then s.arpReset else s.send (.smbus none)
  | .getUdidAt a => if a.toNat = s.side.address then s.sendUdid (2 * a.toNat + 1) else s.send (.smbus none)
  | .assign hit address =>
    if hit then State.send { s with side := { s.side with address := address.toNat, resolved := true } } (.smbus (some []))
    else s.send (.smbus none)

def execSmbArp (op : ArpOp) (s : State) : Out := .next (s.arp op)

/-- SMB_TIMEOUT: the interface is reset. Between whole transfers it holds nothing but its address, which stays. -/
def execSmbTimeout (s : State) : Out := .next s

/-! ### JTAG (R483, R512) -/

def State.setTap (s : State) (r : Nat) : State := { s with side := { s.side with tap := r } }

/-- JTAG_TAP_RESET: BYPASS is selected. -/
def execJtagTapReset (s : State) : Out := .next (s.setTap 0)

/-- The TAP selects a register, which TDO shifts out; during a cold or a warm reset TDO is not driven (R506). -/
def State.tapSelect (s : State) (r : Nat) : State := if s.sec.inReset then s.setTap r else (s.setTap r).send (.tap r)

/-- TAP_INSTRUCTION: a private instruction acts as BYPASS without PERMS[2]; with it, the spec names no instruction and no effect. -/
def execTapInstruction (op : TapOp) (s : State) : Out :=
  match op with
  | .bypass => .next (s.tapSelect 0)
  | .extest => .next (s.tapSelect 1)
  | .samplePreload => .next (s.tapSelect 1)
  | .privateDebug _ => if s.debugPerm 2 then .refused .privateDebugInstruction else .next (s.tapSelect 0)

end Sys2Proof.Machine
end

