-- ==== Sys2Proof/Machine/VSearch.lean ====
section
/-! DEFINITION. Vector search: QUERY, PUBLISH and SWITCH of SCAN_TOPK (R329 to R348, R398). -/

namespace Sys2Proof.Machine

def eVs (c : Nat) : Nat := errCode (if c = 8 then 4 else 1) 0x0B c
def eVsShape : Nat := 0x12C1
def eVsIndexBad : Nat := 0x12C2
def eVsSnapshotOld : Nat := 0x12C3
def eVsSnapshotAhead : Nat := 0x12C4
def eVsLogOrder : Nat := 0x12C5
def eVsIdRange : Nat := 0x12C6
def eVsIdLive : Nat := 0x12C7
def eVsIdAbsent : Nat := 0x42C8
def eVsSideFull : Nat := 0x12C9
def eVsSwitchBad : Nat := 0x12CA

/-- The index that a command names, with its object, id table and side object. -/
structure IndexRef where
  obj   : Entry
  tab   : Entry
  side  : Entry
  index : Index
  deriving DecidableEq, Repr

/-- The index of a command, its record and its views checked. -/
def State.indexOf (s : State) (f : Flight) : Except Nat IndexRef × State :=
  match s.checkRange (f.get 48 4) 0 indexBytes false (some f.id) with
  | (.error code, s) => (.error code, s)
  | (.ok e, s) =>
    if e.policy ≠ 1 then (.error eVsIndexBad, s)
    else match s.readT1 e.t1Base indexBytes (some f.id) with
    | (none, s) => (.error eT1Ue, s)
    | (some b, s) =>
      let x := Index.of b
      match s.entriesUe x.handles with
      | some w => (.error eT1Ue, s.reportUe w (some f.id))
      | none =>
      match s.handle? x.idTab, s.handle? x.side with
      | some t, some d =>
        (if s.indexOk x && s.viewsOk x b && zeroAt b 11 1 && zeroAt b 14 2 && zeroAt b 48 16 && zeroAt b 192 64 then
          .ok ⟨e, t, d, x⟩ else .error eVsIndexBad, s)
      | _, _ => (.error eVsIndexBad, s)

/-! ### The id table (R330, R337) -/

structure IdRow where
  attr : Nat
  ins  : Nat
  del  : Nat
  deriving DecidableEq, Repr

def Index.owns (x : Index) (id : Nat) : Bool := decide (x.idBase ≤ id ∧ id < x.idBase + x.idCap)

def IndexRef.rowOff (r : IndexRef) (id : Nat) : Nat := 32 * (id - r.index.idBase)

def State.idRow (s : State) (r : IndexRef) (id : Nat) : IdRow :=
  let b := s.objBytes r.tab (r.rowOff id) 32
  ⟨field b 0 8, field b 8 8, field b 16 8⟩

/-- Visible at snapshot n (R337). -/
def IdRow.visible (x : IdRow) (n : Nat) : Bool := decide (x.ins ≠ 0 ∧ x.ins ≤ n ∧ (x.del = 0 ∨ n < x.del))

/-- SEQ of side item i. -/
def State.sideSeq (s : State) (r : IndexRef) (i : Nat) : Nat :=
  natOf (s.objBytes r.side (r.index.seqOff + 8 * (i % r.index.sideCap)) 8)

/-! ### QUERY (R335 to R338) -/

structure QueryArgs where
  nq   : Nat
  k    : Nat
  kk   : Nat
  req  : Nat
  exc  : Nat
  snap : Nat

def QueryArgs.of (f : Flight) : QueryArgs :=
  { nq := f.get 54 2, k := f.get 56 2, kk := min 4096 (f.get 56 2 * f.get 53 1), req := f.get 80 8, exc := f.get 88 8, snap := f.get 96 8 }

/-- R335. -/
def queryShapeOk (f : Flight) (x : Index) : Bool :=
  let a := QueryArgs.of f
  decide (f.get 52 1 = 0 ∧ 1 ≤ a.nq ∧ a.nq ≤ 4096 ∧ 1 ≤ a.k ∧ a.k ≤ 4096 ∧ 1 ≤ f.get 53 1 ∧ f.get 53 1 ≤ 64 ∧
    a.nq * a.kk ≤ 65536 ∧ f.get 64 8 + a.nq * x.pitch ≤ t1Bytes ∧ f.get 72 8 + 8 * a.nq ≤ t1Bytes)

/-- What a query captured. -/
def State.query? (s : State) (id : Nat) : Option Query := s.queries.find? fun q => q.flight = id

/-- Side items in reach of a query at snapshot n. -/
def State.sideCount (s : State) (r : IndexRef) (q : Query) (n : Nat) : Nat :=
  let head := q.sideHead
  ((List.range (q.sideTail - head)).filter fun i => decide (s.sideSeq r (head + i) ≤ n)).length

/-- The filter pass over one list: those kept, in rank order. -/
def State.filterList (s : State) (r : IndexRef) (a : QueryArgs) (n : Nat) (l : List Hit) : List Hit :=
  l.filter fun h =>
    let id := h.id.toNat
    r.index.owns id && (let x := s.idRow r id
      x.visible n && Nat.land x.attr a.req == a.req && Nat.land x.attr a.exc == 0)

/-- A poisoned word in the id table rows of a list. -/
def State.filterPoison (s : State) (r : IndexRef) (l : List Hit) : Option Nat :=
  l.findSome? fun h => if r.index.owns h.id.toNat then s.objPoison r.tab (r.rowOff h.id.toNat) 32 else none

/-! ### The scan of a query (R331 to R336)

The candidates are the best K' of the captured main rows and side items, whatever the split over the cores (R339). The model takes them from
the index itself, item after item, once the streams of the image, which do that work on the cores, have ended. -/

/-- Where a part of an item lies: an object, an offset and a length. -/
abbrev Place := Entry × Nat × Nat

/-- The parts of an item: its stored vector, its ISCALE and INORM, its id, which is `idAt` where no place holds it. -/
structure ScanItem where
  row  : Place
  aux  : Option Place
  ids  : Option Place
  idAt : Nat
  deriving DecidableEq, Repr

def ScanItem.places (x : ScanItem) : List Place := x.row :: (x.aux.toList ++ x.ids.toList)

/-- Item i of what a query captured: the main rows of its view, then the side items. -/
def State.queryItem (s : State) (r : IndexRef) (q : Query) (i : Nat) : ScanItem :=
  let x := r.index
  if i < q.count then
    let v := x.view q.view
    let part (h off n : Nat) : Option Place := if h = 0 then none else some (s.entry (h % 2 ^ 16), off, n)
    ⟨(s.entry (v.vec % 2 ^ 16), i * x.pitch, x.rowLen), part v.aux (8 * i) 8, part v.ids (4 * i) 4, x.idBase + i⟩
  else
    let k := (q.sideHead + (i - q.count)) % x.sideCap
    ⟨(r.side, k * x.pitch, x.rowLen), some (r.side, x.auxOff + 8 * k, 8), some (r.side, x.idsOff + 4 * k, 4), 0⟩

def State.place (s : State) (p : Place) : List Byte := s.objBytes p.1 p.2.1 p.2.2

/-- A query row with its QSCALE and QNORM. -/
abbrev QueryRow := List Val × VsAux

/-- The rows of QUERIES and QAUX, NQ of them. -/
def queryRows (x : Index) (nq : Nat) (rows aux : List Byte) : List QueryRow :=
  (List.range nq).map fun i =>
    (rowVals (fmtOf x.fmt) x.dim (slice rows (i * x.pitch) x.rowLen), VsAux.of (slice aux (8 * i) 8))

/-- Score an item for each query row, and keep the best of each list. -/
def State.enterItem (s : State) (r : IndexRef) (kk : Nat) (qs : List QueryRow) (it : ScanItem) (ls : List (List Hit)) : List (List Hit) :=
  let x := r.index
  let row := rowVals (fmtOf x.fmt) x.dim (s.place it.row)
  let aux := match it.aux with
    | some p => VsAux.of (s.place p)
    | none => VsAux.none
  let id := match it.ids with
    | some p => natOf (s.place p)
    | none => it.idAt
  (qs.zip ls).map fun (q, l) => keepBest kk l [⟨vsScore x.metric x.prenorm (dotOf x.fmt q.1 row).1 q.2 aux, BitVec.ofNat 64 id⟩]

/-- Scan `n` items from item i on: the lists, or none where the query halts at a slice that is not resident, with what it has so far, or
ends. -/
def State.scanFrom (s : State) (f : Flight) (r : IndexRef) (q : Query) (kk : Nat) (qs : List QueryRow) :
    Nat → Nat → List (List Hit) → Option (List (List Hit)) × State
  | 0, _, ls => (some ls, s)
  | n + 1, i, ls =>
    let it := s.queryItem r q i
    match it.places.findSome? fun p => (s.absent p.1 p.2.1 p.2.2).head?.map fun k => (p.1, k) with
    | some (e, k) => (none, (s.haltMove f.id e k).onFlight f.id fun f => { f with scratch := [f.scratch.headD 0, i], lists := ls })
    | none =>
      match it.places.find? fun p => s.lostIn p.1 p.2.1 p.2.2, it.places.findSome? fun p => s.objPoison p.1 p.2.1 p.2.2 with
      | some p, _ => (none, s.failHandle f.id p.1.index eObjLost)
      | none, some w => (none, s.reportUe w (some f.id))
      | none, none => s.scanFrom f r q kk qs n (i + 1) (s.enterItem r kk qs it ls)

/-- Go on with the scan of a query at snapshot `snap`. -/
def State.scanQuery (s : State) (f : Flight) (r : IndexRef) (q : Query) (a : QueryArgs) (snap : Nat) :
    Option (List (List Hit)) × State :=
  match s.readT1 (f.get 64 8) (a.nq * r.index.pitch) (some f.id) with
  | (none, s) => (none, s)
  | (some rows, s) =>
    match s.readT1 (f.get 72 8) (8 * a.nq) (some f.id) with
    | (none, s) => (none, s)
    | (some aux, s) =>
      let i := f.scratch.getD 1 0
      s.scanFrom f r q a.kk (queryRows r.index a.nq rows aux) (q.count + s.sideCount r q snap - i) i
        (if i = 0 then List.replicate a.nq [] else f.lists)

/-- The result lists as R338 lays them out. -/
def resultLists (a : QueryArgs) (snap complete : Nat) (b : List Byte) : List Byte :=
  ((List.range a.nq).map fun i =>
    let l := slice b (listStride a.k * i) (listStride a.k)
    let n := field l 0 4
    bytesOf 4 n ++ bytesOf 4 ((if n < a.k then 1 else 0) + 2 * complete) ++ bytesOf 8 snap ++ List.replicate 48 0#8 ++ l.drop 64).flatten

def shortLists (a : QueryArgs) (b : List Byte) : Nat :=
  ((List.range a.nq).filter fun i => decide (field b (listStride a.k * i) 4 < a.k)).length

/-- The lists that a QUERY's merge has left in its flight, as bytes. -/
def flightLists (a : QueryArgs) (f : Flight) : List Byte := (f.lists.map (listBytes a.k)).flatten

/-- Write the results, or halt at a frame of OUT that is not resident. -/
def State.writeResults (s : State) (f : Flight) (a : QueryArgs) (snap complete : Nat) : State :=
  let off := f.get 112 8
  let b := flightLists a f
  match s.checkRange (f.get 104 4) off (off + listStride a.k * a.nq) true (some f.id) with
  | (.error code, s) => s.failHandle f.id (f.get 104 4) code
  | (.ok e, s) =>
    match s.absent e off (listStride a.k * a.nq) with
    | item :: _ => s.haltMove f.id e item
    | [] =>
      let s := s.setObj e off (resultLists a snap complete b)
      let s := (s.bump (pageScan + 0x48)).bump (pageScan + 0x4C) (shortLists a b)
      s.onFlight f.id fun f => { f.finish with result := snap }

/-- Go on once the snapshot is known: its checks against what the query captured. -/
def State.takeSnapshot (s : State) (f : Flight) (q : Query) (n : Nat) : State :=
  if n < q.foldSeq then s.failCommand f.id eVsSnapshotOld 0#32
  else if q.published < n then s.failCommand f.id eVsSnapshotAhead 0#32
  else s.advance f.id 2 [n]

/-- One step of R336. Steps: 0 the snapshot is agreed, 1 its group minimum is awaited, 2 the cores' candidates are, 3 the merged lists
are, 4 the agreement on COMPLETE begins, 5 it is awaited, 6 the results are written. -/
def State.queryStep (s : State) (f : Flight) (r : IndexRef) (q : Query) : State :=
  let a := QueryArgs.of f
  let snap := f.scratch.headD 0
  match f.round with
  | 0 =>
    if a.snap ≠ 2 ^ 64 - 1 then s.takeSnapshot f q a.snap
    else if s.innerFree f then (s.setRound f.id 1).inner f 0x20 2 2 1 0 (bytesOf 8 q.published) else s
  | 1 => match s.innerTake f.id with
    | none => s
    | some (b, s) => s.takeSnapshot f q (natOf (b.take 8))
  | 2 =>
    if !(s.coresOf f.id).isEmpty || !s.innerFree f then s
    else match s.scanQuery f r q a snap with
    | (none, s) => s
    | (some cand, s) =>
      match cand.findSome? (s.filterPoison r) with
      | some w => s.reportUe w (some f.id)
      | none =>
        let kept := cand.map (s.filterList r a snap)
        let s := s.bump64 (pageScan + 0x50) ((cand.map List.length).sum - (kept.map List.length).sum)
        let done := decide (q.count + s.sideCount r q snap ≤ a.kk)
        let s := s.advance f.id 3 [snap, if done then 1 else 0]
        s.inner f 0x23 4 4 a.nq a.k (kept.map fun l => listBytes a.k (l.take a.k)).flatten
  | 3 => match s.innerTake f.id with
    | none => s
    | some (b, s) =>
      let lists := (List.range a.nq).map fun i => let l := slice b (listStride a.k * i) (listStride a.k); hitsOf l (field l 0 4)
      s.onFlight f.id fun f => { f with round := 4, lists := lists }
  | 4 => if s.innerFree f then (s.setRound f.id 5).inner f 0x20 2 2 1 0 (bytesOf 8 (f.scratch.getD 1 0)) else s
  | 5 => match s.innerTake f.id with
    | none => s
    | some (b, s) => s.advance f.id 6 [snap, natOf (b.take 8)]
  | _ => s.writeResults f a snap (f.scratch.getD 1 0)

/-- Go on while a step changes the command. -/
def State.queryGo : Nat → State → Nat → IndexRef → State
  | 0, s, _, _ => s
  | n + 1, s, id, r =>
    match s.flight? id, s.query? id with
    | some f, some q =>
      if f.stage ≠ .running ∨ f.halted.isSome then s
      else
        let t := s.queryStep f r q
        if (t.flight? id).map Flight.round = some f.round then t else State.queryGo n t id r
    | _, _ => s

/-- The start of a query: its index and its shape are checked, and its view is captured. -/
def State.startQuery (s : State) (f : Flight) : State :=
  match s.indexOf f with
  | (.error code, s) => s.failHandle f.id (f.get 48 4) code
  | (.ok r, s) =>
    if !queryShapeOk f r.index then s.failCommand f.id eVsShape 0#32
    else
      let x := r.index
      let v := x.view x.active
      let c : Query := ⟨f.id, r.obj.index, x.active, v.count, v.foldSeq, v.sideHead, x.published, x.sideTail, false⟩
      State.queryGo 10 { s with queries := s.queries ++ [c] } f.id r

/-- The index of a query in flight: it was checked at the start, and is not checked again (R329). -/
def State.indexAgain (s : State) (q : Query) : IndexRef :=
  let e := s.entry q.index
  let x := Index.of (s.objBytes e 0 indexBytes)
  ⟨e, s.entry (x.idTab % 2 ^ 16), s.entry (x.side % 2 ^ 16), x⟩

/-- A query in flight goes on. -/
def State.resumeQuery (s : State) (f : Flight) : State :=
  match s.query? f.id with
  | none => s
  | some q =>
    let r := s.indexAgain q
    match s.entriesUe (q.index :: r.index.handles), s.objPoison r.obj 0 indexBytes with
    | some w, _ => s.reportUe w (some f.id)
    | none, some w => s.reportUe w (some f.id)
    | none, none => State.queryGo 10 s f.id r

/-- QUERY (R336): the capture is one step; it goes on as its cores and its inner collectives end. An OP above 2 is no query either: it is out
of the range of R335. -/
def execQuery (q : Fin 64) (s : State) : Out :=
  if s.mem.wiping then .next s else
  match s.cmd.flights.find? fun f => f.queue = q.val && f.opcode = 0x30 && f.get 52 1 ≠ 1 && f.get 52 1 ≠ 2 && f.stage != .ended with
  | none => .next s
  | some f => if f.stage = .started then .next ((s.runCores f).startQuery f) else .next (s.resumeQuery f)

/-! ### PUBLISH (R340 to R343) -/

/-- Does SEQ rise strictly, above `last` and up to `p`? -/
def seqRises : Nat → Nat → List LogEntry → Bool
  | _, _, [] => true
  | last, p, e :: r => decide (last < e.seq ∧ e.seq ≤ p) && seqRises e.seq p r

/-- The checks of R341, in the order of its table. -/
def State.publishCode (s : State) (r : IndexRef) (l : List LogEntry) (p : Nat) : Option Nat :=
  let x := r.index
  if p < x.published ∨ !seqRises x.published p l then some eVsLogOrder
  else if !(l.all fun e => x.owns e.id) then some eVsIdRange
  else if l.any fun e => e.kind = 0 && (let i := (s.idRow r e.id).ins; !(i == 0 || (i == e.seq && decide (x.published < i)))) then
    some eVsIdLive
  else if x.sideCap + (x.view x.active).sideHead < x.sideTail + insertsIn l then some eVsSideFull
  else none

/-- Apply an entry; `slot` is the side item an insert takes. -/
def State.applyEntry (s : State) (id : Nat) (r : IndexRef) (slot : Nat) (e : LogEntry) : State :=
  let x := r.index
  let k := slot % x.sideCap
  if e.kind = 0 then
    let s := s.setObj r.tab (r.rowOff e.id) (bytesOf 8 e.attr)
    let s := s.setObj r.side (k * x.pitch) e.row
    let s := s.setObj r.side (x.auxOff + 8 * k) (bytesOf 4 e.iscale ++ bytesOf 4 e.inorm)
    let s := s.setObj r.side (x.idsOff + 4 * k) (bytesOf 4 e.id)
    let s := s.setObj r.side (x.seqOff + 8 * k) (bytesOf 8 e.seq)
    (s.setObj r.tab (r.rowOff e.id + 8) (bytesOf 8 e.seq)).bump (pageScan + 0x58)
  else
    let w := s.idRow r e.id
    if w.ins ≠ 0 ∧ (w.del = 0 ∨ w.del = e.seq) then
      (s.setObj r.tab (r.rowOff e.id + 16) (bytesOf 8 e.seq)).bump (pageScan + 0x58)
    else s.advisory eVsIdAbsent 0 (some id)

/-- Apply the entries in order: the state, and the next side item. -/
def State.applyLog (s : State) (id : Nat) (r : IndexRef) (l : List LogEntry) : State × Nat :=
  l.foldl (fun ((s, n) : State × Nat) e => (s.applyEntry id r n e, if e.kind = 0 then n + 1 else n)) (s, r.index.sideTail)

/-- The SCAN_TOPK of an OP that a queue has started. -/
def State.scanFlight (s : State) (q op : Nat) : Option Flight :=
  s.cmd.flights.find? fun f => f.queue = q && f.opcode = 0x30 && f.get 52 1 = op && f.stage == .started

/-- PUBLISH (R341). -/
def execPublish (q : Fin 64) (s : State) : Out :=
  if s.mem.wiping then .next s else
  match s.scanFlight q 1 with
  | none => .next s
  | some f =>
    if s.publishHeld (f.get 48 4) (f.get 64 4) then .next s else
    let s := s.onFlight f.id fun f => { f with stage := .running }
    match s.indexOf f with
    | (.error code, s) => .next (s.failHandle f.id (f.get 48 4) code)
    | (.ok r, s) =>
      let n := f.get 64 4
      let p := f.get 72 8
      let x := r.index
      if n = 0 ∨ x.logCap < n then .next (s.failCommand f.id eVsShape 0#32)
      else match s.objPoison r.side x.logOff (n * x.logPitch) with
      | some w => .next (s.reportUe w (some f.id))
      | none =>
        let l := s.logEntries x r.side n
        if l.any fun e => decide (1 < e.kind) then .next (s.failCommand f.id eVsShape 0#32)
        else match s.publishCode r l p with
        | some code => .next (s.failCommand f.id code 0#32)
        | none =>
          let (s, tail) := s.applyLog f.id r l
          let s := (s.setObj r.obj 40 (bytesOf 8 tail)).setObj r.obj 24 (bytesOf 8 p)
          .next (s.onFlight f.id fun f => { f.finish with result := p })

/-! ### SWITCH (R344, R345) -/

/-- The first side item above F. -/
def State.foldHead (s : State) (r : IndexRef) (n : Nat) : Nat :=
  let head := (r.index.view r.index.active).sideHead
  head + (((List.range (r.index.sideTail - head)).takeWhile fun i => decide (s.sideSeq r (head + i) ≤ n)).length)

def execSwitchView (q : Fin 64) (s : State) : Out :=
  if s.mem.wiping then .next s else
  match s.scanFlight q 2 with
  | none => .next s
  | some f =>
    let s := s.onFlight f.id fun f => { f with stage := .running }
    match s.indexOf f with
    | (.error code, s) => .next (s.failHandle f.id (f.get 48 4) code)
    | (.ok r, s) =>
      let x := r.index
      let v := f.get 64 1
      let n := f.get 72 8
      if v ≠ 1 - x.active ∨ n < (x.view x.active).foldSeq ∨ x.published < n then .next (s.failCommand f.id eVsSwitchBad 0#32)
      else if !s.viewOk x { x.view v with sideHead := 0 } then .next (s.failCommand f.id eVsIndexBad 0#32)
      else
        let s := s.setObj r.obj (64 + 64 * v + 16) (bytesOf 8 n ++ bytesOf 8 (s.foldHead r n))
        let s := s.setObj r.obj 10 (bytesOf 1 (x.flags % 2 + 2 * v))
        let s := { s with queries := s.queries.map (retire r.obj.index) }
        .next (s.onFlight f.id fun f => { f.finish with result := n })
where
  /-- A query on the index has captured a view before this switch. -/
  retire (i : Nat) (q : Query) : Query := if q.index = i then { q with old := true } else q

end Sys2Proof.Machine
end

