-- ==== Sys2Proof/Machine/Dispatch.lean ====
section
/-! DEFINITION. One arm per command of the table (spec/opcode_table.json). -/

namespace Sys2Proof.Machine

/-- The effect of a command on everything but the queue. -/
def exec (i : Instr) (s : State) : Host.Outcome State Fault Refusal :=
  match i with
  | .dispatch c => Sys2Proof.Machine.execDispatch c s
  | .phaseEnter c => Sys2Proof.Machine.execPhaseEnter c s
  | .nop c e => Sys2Proof.Machine.execNop c e s
  | .ctrAdd c e => Sys2Proof.Machine.execCtrAdd c e s
  | .halt c e => Sys2Proof.Machine.execHalt c e s
  | .setOutstanding c e => Sys2Proof.Machine.execSetOutstanding c e s
  | .fetch c => Sys2Proof.Machine.execFetch c s
  | .put c => Sys2Proof.Machine.execPut c s
  | .blockIssue c e => Sys2Proof.Machine.execBlockIssue c e s
  | .loadW c => Sys2Proof.Machine.execLoadW c s
  | .matmul c => Sys2Proof.Machine.execMatmul c s
  | .attnCfg c => Sys2Proof.Machine.execAttnCfg c s
  | .attnKv c => Sys2Proof.Machine.execAttnKv c s
  | .attnEnd c => Sys2Proof.Machine.execAttnEnd c s
  | .scan c => Sys2Proof.Machine.execScan c s
  | .ringSend c => Sys2Proof.Machine.execRingSend c s
  | .awlPut c => Sys2Proof.Machine.execAwlPut c s
  | .fence c => Sys2Proof.Machine.execFence c s
  | .sigRemote c => Sys2Proof.Machine.execSigRemote c s
  | .circDone c => Sys2Proof.Machine.execCircDone c s
  | .vcfg c => Sys2Proof.Machine.execVcfg c s
  | .vop c => Sys2Proof.Machine.execVop c s
  | .rstat c => Sys2Proof.Machine.execRstat c s
  | .sfu c => Sys2Proof.Machine.execSfu c s
  | .uprog c => Sys2Proof.Machine.execUprog c s
  | .tallyClr c => Sys2Proof.Machine.execTallyClr c s
  | .instructionComplete c e => Sys2Proof.Machine.execInstructionComplete c e s
  | .coreHang c => Sys2Proof.Machine.execCoreHang c s
  | .corePowerGate c => Sys2Proof.Machine.execCorePowerGate c s
  | .coreWake c => Sys2Proof.Machine.execCoreWake c s
  | .coreReset c => Sys2Proof.Machine.execCoreReset c s
  | .coreResetEnd c => Sys2Proof.Machine.execCoreResetEnd c s
  | .coreResume c => Sys2Proof.Machine.execCoreResume c s
  | .sfuSwap c => Sys2Proof.Machine.execSfuSwap c s
  | .cmdMatmul q => Sys2Proof.Machine.execCmdMatmul q s
  | .norm q => Sys2Proof.Machine.execNorm q s
  | .sfuApply q => Sys2Proof.Machine.execSfuApply q s
  | .coreProgram q => Sys2Proof.Machine.execCoreProgram q s
  | .attnPrefill q => Sys2Proof.Machine.execAttnPrefill q s
  | .attnDecode q => Sys2Proof.Machine.execAttnDecode q s
  | .circulate q => Sys2Proof.Machine.execCirculate q s
  | .kvAppend q => Sys2Proof.Machine.execKvAppend q s
  | .trim q => Sys2Proof.Machine.execTrim q s
  | .prefixMatch q => Sys2Proof.Machine.execPrefixMatch q s
  | .prefixInsert q => Sys2Proof.Machine.execPrefixInsert q s
  | .prefixFork q => Sys2Proof.Machine.execPrefixFork q s
  | .prefixRelease q => Sys2Proof.Machine.execPrefixRelease q s
  | .prefixEvict q => Sys2Proof.Machine.execPrefixEvict q s
  | .almanacSelect q => Sys2Proof.Machine.execAlmanacSelect q s
  | .walkRun q => Sys2Proof.Machine.execWalkRun q s
  | .allreduce q => Sys2Proof.Machine.execAllreduce q s
  | .reduceScatter q => Sys2Proof.Machine.execReduceScatter q s
  | .allgather q => Sys2Proof.Machine.execAllgather q s
  | .topkMerge q => Sys2Proof.Machine.execTopkMerge q s
  | .query q => Sys2Proof.Machine.execQuery q s
  | .publish q => Sys2Proof.Machine.execPublish q s
  | .switchView q => Sys2Proof.Machine.execSwitchView q s
  | .move q => Sys2Proof.Machine.execMove q s
  | .barrier q => Sys2Proof.Machine.execBarrier q s
  | .signal q => Sys2Proof.Machine.execSignal q s
  | .wait q => Sys2Proof.Machine.execWait q s
  | .hint q => Sys2Proof.Machine.execHint q s
  | .cmdBadOpcode q => Sys2Proof.Machine.execCmdBadOpcode q s
  | .commandStart q => Sys2Proof.Machine.execCommandStart q s
  | .commandComplete q => Sys2Proof.Machine.execCommandComplete q s
  | .cmdWaitTimeout q => Sys2Proof.Machine.execCmdWaitTimeout q s
  | .doorbell qp psn rkey addr data imm p => Sys2Proof.Machine.execDoorbell qp psn rkey addr data imm p s
  | .restart q => Sys2Proof.Machine.execRestart q s
  | .drop q => Sys2Proof.Machine.execDrop q s
  | .queueControlNotice q isDrop group level => Sys2Proof.Machine.execQueueControlNotice q isDrop group level s
  | .barrierArrival group sub round epoch pos => Sys2Proof.Machine.execBarrierArrival group sub round epoch pos s
  | .barrierRelease group round error => Sys2Proof.Machine.execBarrierRelease group round error s
  | .barrierTimeout q => Sys2Proof.Machine.execBarrierTimeout q s
  | .fanoutCompletion tag r => Sys2Proof.Machine.execFanoutCompletion tag r s
  | .deviceDiscard ev => Sys2Proof.Machine.execDeviceDiscard ev s
  | .discardComplete => Sys2Proof.Machine.execDiscardComplete s
  | .discardNotice group level code => Sys2Proof.Machine.execDiscardNotice group level code s
  | .fatalError ev => Sys2Proof.Machine.execFatalError ev s
  | .fatalNotice chip => Sys2Proof.Machine.execFatalNotice chip s
  | .handSet hi => Sys2Proof.Machine.execHandSet hi s
  | .ctlFence bits => Sys2Proof.Machine.execCtlFence bits s
  | .msgWrite m data => Sys2Proof.Machine.execMsgWrite m data s
  | .msgRead m => Sys2Proof.Machine.execMsgRead m s
  | .msgSignal m => Sys2Proof.Machine.execMsgSignal m s
  | .msgAwl m data => Sys2Proof.Machine.execMsgAwl m data s
  | .msgFanout m f data => Sys2Proof.Machine.execMsgFanout m f data s
  | .msgAck m => Sys2Proof.Machine.execMsgAck m s
  | .msgReadData m data => Sys2Proof.Machine.execMsgReadData m data s
  | .msgRefuse m => Sys2Proof.Machine.execMsgRefuse m s
  | .messageForward t m flits => Sys2Proof.Machine.execMessageForward t m flits s
  | .frameReceive p f fec => Sys2Proof.Machine.execFrameReceive p f fec s
  | .frameAck p seq => Sys2Proof.Machine.execFrameAck p seq s
  | .nak p seq => Sys2Proof.Machine.execNak p seq s
  | .linkCredit p vc total => Sys2Proof.Machine.execLinkCredit p vc total s
  | .controlFrameSend p => Sys2Proof.Machine.execControlFrameSend p s
  | .identityWord p r => Sys2Proof.Machine.execIdentityWord p r s
  | .linkLoss p => Sys2Proof.Machine.execLinkLoss p s
  | .linkTrained p w peer => Sys2Proof.Machine.execLinkTrained p w peer s
  | .linkTrainFail p => Sys2Proof.Machine.execLinkTrainFail p s
  | .linkTrainRestart p => Sys2Proof.Machine.execLinkTrainRestart p s
  | .retrain p => Sys2Proof.Machine.execRetrain p s
  | .resume p => Sys2Proof.Machine.execResume p s
  | .circBlock l d h payload crc => Sys2Proof.Machine.execCircBlock l d h payload crc s
  | .blockLanded l d => Sys2Proof.Machine.execBlockLanded l d s
  | .blockSend l d => Sys2Proof.Machine.execBlockSend l d s
  | .circAck l d seqno => Sys2Proof.Machine.execCircAck l d seqno s
  | .circCredit l d tag => Sys2Proof.Machine.execCircCredit l d tag s
  | .circAbort l code pos => Sys2Proof.Machine.execCircAbort l code pos s
  | .circTimeout l d => Sys2Proof.Machine.execCircTimeout l d s
  | .mergeStart => Sys2Proof.Machine.execMergeStart s
  | .mergeExchange tag k sender rowLo data => Sys2Proof.Machine.execMergeExchange tag k sender rowLo data s
  | .mergeEndMarker tag sender => Sys2Proof.Machine.execMergeEndMarker tag sender s
  | .mergeComplete => Sys2Proof.Machine.execMergeComplete s
  | .collChunk l h payload crc => Sys2Proof.Machine.execCollChunk l h payload crc s
  | .chunkSend l => Sys2Proof.Machine.execChunkSend l s
  | .collCredit l => Sys2Proof.Machine.execCollCredit l s
  | .collAbort l a => Sys2Proof.Machine.execCollAbort l a s
  | .census l f => Sys2Proof.Machine.execCensus l f s
  | .collTimeout l => Sys2Proof.Machine.execCollTimeout l s
  | .create index => Sys2Proof.Machine.execCreate index s
  | .free index => Sys2Proof.Machine.execFree index s
  | .flush index => Sys2Proof.Machine.execFlush index s
  | .prefetch index => Sys2Proof.Machine.execPrefetch index s
  | .ptOpBad v => Sys2Proof.Machine.execPtOpBad v s
  | .pageIn index item => Sys2Proof.Machine.execPageIn index item s
  | .rdData r tag data => Sys2Proof.Machine.execRdData r tag data s
  | .wrAck r tag => Sys2Proof.Machine.execWrAck r tag s
  | .resErr r tag status => Sys2Proof.Machine.execResErr r tag status s
  | .helloAck r capacity maxTags => Sys2Proof.Machine.execHelloAck r capacity maxTags s
  | .t2Timeout r tag => Sys2Proof.Machine.execT2Timeout r tag s
  | .t1Wipe => Sys2Proof.Machine.execT1Wipe s
  | .t1WipeEnd => Sys2Proof.Machine.execT1WipeEnd s
  | .patrolScrub word r => Sys2Proof.Machine.execPatrolScrub word r s
  | .powerTick => Sys2Proof.Machine.execPowerTick s
  | .pointDecision => Sys2Proof.Machine.execPointDecision s
  | .frequencySwitch => Sys2Proof.Machine.execFrequencySwitch s
  | .pwrFreqAbandon => Sys2Proof.Machine.execPwrFreqAbandon s
  | .droopDetect d => Sys2Proof.Machine.execDroopDetect d s
  | .clampRelease => Sys2Proof.Machine.execClampRelease s
  | .holdoffEnd => Sys2Proof.Machine.execHoldoffEnd s
  | .calStart => Sys2Proof.Machine.execCalStart s
  | .calComplete means => Sys2Proof.Machine.execCalComplete means s
  | .hintPhaseStart => Sys2Proof.Machine.execHintPhaseStart s
  | .hintPhaseEnd => Sys2Proof.Machine.execHintPhaseEnd s
  | .pmbAlert => Sys2Proof.Machine.execPmbAlert s
  | .alertRelease => Sys2Proof.Machine.execAlertRelease s
  | .sensorRead readings => Sys2Proof.Machine.execSensorRead readings s
  | .thermtrip sensor => Sys2Proof.Machine.execThermtrip sensor s
  | .pmbusTimeout => Sys2Proof.Machine.execPmbusTimeout s
  | .coldReset => Sys2Proof.Machine.execColdReset s
  | .warmReset => Sys2Proof.Machine.execWarmReset s
  | .softReset v => Sys2Proof.Machine.execSoftReset v s
  | .softResetEnd => Sys2Proof.Machine.execSoftResetEnd s
  | .boot bootSel programmed => Sys2Proof.Machine.execBoot bootSel programmed s
  | .nbAnnounce => Sys2Proof.Machine.execNbAnnounce s
  | .nbOffer h length mac => Sys2Proof.Machine.execNbOffer h length mac s
  | .nbData h index length crc payload => Sys2Proof.Machine.execNbData h index length crc payload s
  | .nbReadRetry image index => Sys2Proof.Machine.execNbReadRetry image index s
  | .nbTimeout image => Sys2Proof.Machine.execNbTimeout image s
  | .nbAbort h => Sys2Proof.Machine.execNbAbort h s
  | .attest => Sys2Proof.Machine.execAttest s
  | .debugToken => Sys2Proof.Machine.execDebugToken s
  | .lcTransition target => Sys2Proof.Machine.execLcTransition target s
  | .provisionId => Sys2Proof.Machine.execProvisionId s
  | .getPubkey => Sys2Proof.Machine.execGetPubkey s
  | .mailboxComplete => Sys2Proof.Machine.execMailboxComplete s
  | .rwpRead h data => Sys2Proof.Machine.execRwpRead h data s
  | .rwpWrite h data => Sys2Proof.Machine.execRwpWrite h data s
  | .rdmaWrite qp psn rkey addr data p => Sys2Proof.Machine.execRdmaWrite qp psn rkey addr data p s
  | .rdmaRead qp psn rkey addr len p => Sys2Proof.Machine.execRdmaRead qp psn rkey addr len p s
  | .roceAck qp psn r p => Sys2Proof.Machine.execRoceAck qp psn r p s
  | .qpTimeout qp => Sys2Proof.Machine.execQpTimeout qp s
  | .cnp qp p => Sys2Proof.Machine.execCnp qp p s
  | .modify qp => Sys2Proof.Machine.execModify qp s
  | .qpQuery qp => Sys2Proof.Machine.execQpQuery qp s
  | .hpLinkDown => Sys2Proof.Machine.execHpLinkDown s
  | .hostRetrain => Sys2Proof.Machine.execHostRetrain s
  | .commit => Sys2Proof.Machine.execCommit s
  | .commitApply => Sys2Proof.Machine.execCommitApply s
  | .discard => Sys2Proof.Machine.execDiscard s
  | .quietTimeout => Sys2Proof.Machine.execQuietTimeout s
  | .registerWrite who off v => Sys2Proof.Machine.execRegisterWrite who off v s
  | .smbStatus => Sys2Proof.Machine.execSmbStatus s
  | .smbTempMax => Sys2Proof.Machine.execSmbTempMax s
  | .smbPwrEst => Sys2Proof.Machine.execSmbPwrEst s
  | .smbPwrAvg => Sys2Proof.Machine.execSmbPwrAvg s
  | .smbFatalCode => Sys2Proof.Machine.execSmbFatalCode s
  | .smbLcState => Sys2Proof.Machine.execSmbLcState s
  | .smbChipId => Sys2Proof.Machine.execSmbChipId s
  | .smbSerial => Sys2Proof.Machine.execSmbSerial s
  | .smbDevice => Sys2Proof.Machine.execSmbDevice s
  | .smbEnergy => Sys2Proof.Machine.execSmbEnergy s
  | .smbArp op => Sys2Proof.Machine.execSmbArp op s
  | .smbTimeout => Sys2Proof.Machine.execSmbTimeout s
  | .jtagTapReset => Sys2Proof.Machine.execJtagTapReset s
  | .hostPortTrained partnerMax => Sys2Proof.Machine.execHostPortTrained partnerMax s
  | .pfcPause prio on => Sys2Proof.Machine.execPfcPause prio on s
  | .unsupportedRocePacket qp psn p => Sys2Proof.Machine.execUnsupportedRocePacket qp psn p s
  | .censusWaitTimeout l => Sys2Proof.Machine.execCensusWaitTimeout l s
  | .smbUnlistedCommand code isWrite => Sys2Proof.Machine.execSmbUnlistedCommand code isWrite s
  | .tapInstruction op => Sys2Proof.Machine.execTapInstruction op s

end Sys2Proof.Machine
end

