-- ==== Sys2Proof/Machine/Tick.lean ====
section
/-! DEFINITION. One tick of the clock, which the block takes when no command waits: the time counter, and what is counted by
cycles of that clock or of the arithmetic clock (R35, R100, R304, R380, R490). -/

namespace Sys2Proof.Machine

/-- Does a pending commit hold back the head of a queue on a block's account (R496)? -/
def State.heldBy (s : State) (b : Nat) (h : Head) : Bool :=
  s.commit.busy && s.commit.quiet && s.commit.pending.contains b &&
  (if b = 0 then h.scope && match s.group? h.group with
      | some g => s.writtenIn (0x2000 + 32 * g.entry) 32
      | none => false
   else if b = 6 then (s.needsLaces h).any fun l => s.writtenIn (pageCirc + 0x100 + 32 * l) 32
   else (s.needsCores h).any fun n => b == 0x10 + n)

def State.holdsWork (s : State) (b : Nat) : Bool :=
  (List.range 64).any fun q => match s.queueHead q with
    | some h => s.heldBy b h
    | none => false

/-- The block indices of R492. -/
def blockIndices : List Nat := (List.range 64).filter fun b => (blockPage b).isSome

/-- PERF_CNT counts a cycle (R490). -/
def State.perfTick (s : State) (b : Nat) : State :=
  let ev := s.perfSel b
  if (ev = 1 ∧ s.run b = true) ∨ (ev = 4 ∧ s.holdsWork b = true) then s.bump64 (0x600 + 8 * b) else s

/-- CIRC_NOCREDIT_CYC counts a cycle (R304). -/
def State.creditTick (s : State) (i : Nat) : State :=
  match s.circRun? (i / 2) with
  | none => s
  | some r =>
    if (look (fun _ => CircLane.reset) r.lanes i).credits = 0 ∧ (r.nextSend (i / 2) (i % 2)).isSome = true then
      s.bump (pageCirc + 0x80C + 16 * i)
    else s

/-! ### Stalled heads (R100) -/

/-- The cause of a wait on event counter i: whom the core's oldest transfer that signals it waits for. -/
def State.waitCause (s : State) (n i : Nat) : Nat :=
  match ([0, 3].flatMap fun e => (s.core n).eng.flyOf e).find? fun f => sigEn f.word.toNat && sigCtr f.word.toNat == i && !f.cut with
  | none => 6
  | some f =>
    let op := opOf f.word.toNat
    if f.halted.isSome then 2
    else if op = 0x31 then 5
    else if op = 0x10 ∨ op = 0x30 then
      if f.open_.any fun t => t.tags.any fun g => (s.cmd.requests.any fun r => r.tag == g) then 4 else 3
    else if op = 0x34 ∨ op = 0x33 then 4
    else 6

/-- The lowest-numbered cause for which the head of a queue is held. Ports that are busy (causes 5 and 9) and the 4 cycles of entering a phase
are no state of this model (log 78). -/
def State.stallCause (s : State) (n e : Nat) : Option Nat :=
  let g := (s.core n).eng
  if !s.coreLive n || g.halted.testBit e then none
  else match s.head n e with
    | none =>
      let w := natOf (s.t1Seen (g.base + 16 * g.next) 16)
      if decide (g.next < g.count) && !g.dispStop && (s.mem.wiping || (wordOk w && decide (64 ≤ (g.queueOf (engOf w)).length))) then some 11
      else none
    | some (w, _) =>
      let x := w.toNat
      let op := opOf x
      let sfu := op == 0x43 || op == 0x44
      if s.throttles n e then some 0
      else if !s.waitOk n x then (if 96 ≤ waitCtr x then some 7 else some (s.waitCause n (waitCtr x)))
      else if !s.phaseOk n op then some 1
      else if s.ownFree n x then none
      else if sfu && ((s.core n).sfu.pending || s.inFlight n 2 [0x43, 0x44]) then some 10
      else some 8

/-- The stall counters of a core count the cycles of its clock within a tick: each cause that is assigned to an engine CORE_STALL_MASK selects. -/
def State.stallTick (s : State) (n : Nat) (cycles : Nat) : State :=
  let mask := (s.reg (pageCore n + 0x54)).toNat
  let causes := ([0, 1, 2, 3].filter mask.testBit).filterMap (s.stallCause n)
  ((List.range 12).filter causes.contains).foldl (fun s i => s.bump64 (pageCore n + 0x60 + 8 * i) cycles) s

/-- Cycles of a core's arithmetic clock within a stretch of time. -/
def State.cyclesIn (s : State) (n ns : Nat) : Nat := Config.arithCycle (s.time + ns) n - Config.arithCycle s.time n

/-- A QP has recovered its send rate (R380). -/
def Qp.recover (p : Qp) : Qp := { p with halvings := 0 }

/-- Nanoseconds of one tick: a fabric cycle, or an edge of the 25 MHz clock while a reset keeps the fabric PLL stopped (R455, R456). -/
def State.tickNs (s : State) : Nat := if s.sec.inReset then 40 else 1

/-- One tick. Send rates recover at each millisecond of the time counter. -/
def State.tick (s : State) : State :=
  let s := blockIndices.foldl State.perfTick s
  let s := (List.range 12).foldl State.creditTick s
  let s : State := allCores.foldl (fun (s : State) n => s.stallTick n (s.cyclesIn n s.tickNs)) s
  let t := (s.time + s.tickNs) % 2 ^ 64
  let s := { s with time := t }
  if t % 1000000 = 0 then
    { s with host := { s.host with qps := s.host.qps.foldl (fun q e => store noQp q e.1 e.2.recover) [] } }
  else s

end Sys2Proof.Machine
end

