-- ==== Sys2Proof/Safety.lean ====
section
/-! DEFINITION. The words in which the statements are said: the block goes on, a queue head issues, a message is heard, and a change
that is confined to some fields. -/

namespace Sys2Proof.Machine

/-- The block goes on: neither a fault nor a refusal. -/
def Goes (o : Out) : Prop := ∃ t, o = .next t

/-- The head of queue e of core n is an instruction of opcode `op`, it may issue, and it does not break (R81, R87, R93, R105). -/
abbrev State.ready (s : State) (n e op : Nat) (w : BitVec 128) (pc : Nat) : Prop :=
  s.head n e = some (w, pc) ∧ s.mayIssue n e op = true ∧
  (breakFlag w.toNat && s.coreCtrl n 2 && !(s.core n).eng.pastBreak.testBit e) = false

/-- Every core but n is as it was. -/
abbrev State.onlyCore (s t : State) (n : Nat) : Prop := ∀ m, m ≠ n → t.core m = s.core m

/-- Instruction i of engine e of core n, and no other, has gone on to its next block; of the core nothing else differs but its activity counts, and
no other core differs (R208). -/
abbrev State.blockPassed (s t : State) (n e : Nat) (i : InFlight) : Prop :=
  s.onlyCore t n ∧
  t.core n = { s.core n with eng := { (s.core n).eng with fly := (t.core n).eng.fly, acts := (t.core n).eng.acts } } ∧
  ∀ k, (t.core n).eng.flyOf k = if k = e then ((s.core n).eng.flyOf e).map fun j =>
      if j.iid = i.iid then { j with block := j.block + 1, pos := 0, open_ := j.open_.filter fun x => x.tags != [] } else j
    else (s.core n).eng.flyOf k

/-- Every plain register but those listed reads as before. -/
abbrev State.onlyRegs (s t : State) (os : List Nat) : Prop := ∀ o, o ∉ os → t.reg o = s.reg o

/-- Every counting register but those listed reads as before. -/
abbrev State.onlyCounts (s t : State) (os : List Nat) : Prop := ∀ o, o ∉ os → t.count o = s.count o

/-- Every core of a command has its dispatcher at the start of its stream (R80, R396). -/
abbrev State.streamsLoaded (s t : State) (f : Flight) : Prop :=
  ∀ n m c k o l, n ∈ f.cores → n < 8 → s.imageOf f.body = some m →
    s.imageSection m 2 n = some (c, k) → s.imageSection m 3 n = some (o, l) →
    (t.core n).eng.base = m.entry.t1Base + o ∧ (t.core n).eng.count = field (s.objBytes m.entry c 64) 0 4 ∧ (t.core n).eng.next = 0

/-- A range of an object is in T1, whole and not lost. -/
abbrev State.inT1 (s : State) (e : Entry) (x : Nat × Nat) : Prop := s.absent e x.1 x.2 = [] ∧ s.lostIn e x.1 x.2 = false

/-- KV_APPEND stores these rows one after another, and nothing stops it: what each needs of STORE is there (R209, R253). -/
def State.storesRows (p : Pool) (f : Flight) : State → List AppendRow → State → Prop
  | s, [], t => t = s
  | s, r :: rs, t => ∃ need u, s.appendNeeds p (f.get 52 2) r = .ok need ∧ (∀ x ∈ need.reads ++ need.writes, s.inT1 p.store x) ∧
      (∀ x ∈ need.reads, s.objPoison p.store x.1 x.2 = none) ∧ s.appendRow p f r = (u, none) ∧
      State.storesRows p f (u.onFlight f.id fun g => { g with round := g.round + 1 }) rs t

end Sys2Proof.Machine
end

