-- ==== Sys2Proof/Certificates/Slice0/Obligations.lean ====
section
/-! DEFINITION. The statements of this row, family by family. -/

open Sys2Proof Sys2Proof.Machine

/-! ### The machine -/

/-- A step takes the command at the front of the queue and gives it the effect of `exec` on the state whose queue is the rest. On an
empty queue it is one tick of the clock, 40 ns while a reset keeps the fabric PLL stopped and 1 ns else (the model's choice: log entry 1): the
time goes on, counters of the window may rise and send rates of QPs recover, and nothing else changes. -/
def Obligations.StepRunsFrontCommand : Prop :=
  (∀ (c : Instr) (s : State), step { s with pending := c :: s.pending } = exec c s) ∧
  (∀ s : State, s.pending = [] → ∃ t, step s = .next t ∧ t.time = (s.time + (if s.sec.inReset then 40 else 1)) % 2 ^ 64 ∧
    t = { s with time := t.time, host := { s.host with qps := t.host.qps }, win := { s.win with counts := t.win.counts } })

/-! ### Core programs: dispatch, phases and the common instructions -/

/-- Issue (R81): NOP issues from the head of its queue and does nothing else. The queue loses its head, the instruction joins those in
flight, and a credit wait takes EXPECT from its counter. Nothing of another queue, another core or any memory changes.
CTR_ADD (R95, R115, R116): an amount at or above zero adds to an event or credit counter that stays below its bound; a negative
one takes from a credit counter that holds as much; a negative one at an event counter is the core's error 4 and changes no counter.
HALT (R93) marks the end of its queue's part of the program, and SET_OUTSTANDING (R208) sets the LIMIT of the fetch or the put
queue. Each changes nothing else beside its issue. -/
def Obligations.CommonInstructions : Prop :=
  (∀ (c : Fin 8) (e : Engine) (s : State) (w : BitVec 128) (pc : Nat), s.ready c e.idx 0x00 w pc →
       ∃ t, exec (.nop c e) s = .next t ∧
         (t.core c).eng.queueOf e.idx = ((s.core c).eng.queueOf e.idx).tail ∧
         (t.core c).eng.flyOf e.idx = (s.core c).eng.flyOf e.idx ++ [InFlight.new (s.core c).eng.nextIid w pc] ∧
         (∀ k, k ≠ e.idx → (t.core c).eng.queueOf k = (s.core c).eng.queueOf k ∧ (t.core c).eng.flyOf k = (s.core c).eng.flyOf k) ∧
         (∀ i, t.coreCtr c i = if waitEn w.toNat = true ∧ 96 ≤ waitCtr w.toNat ∧ i = waitCtr w.toNat
           then s.coreCtr c i - expectOf w.toNat else s.coreCtr c i) ∧
         (t.core c).plane = (s.core c).plane ∧ (t.core c).sfu = (s.core c).sfu ∧ (t.core c).rows = (s.core c).rows ∧
         s.onlyCore t c ∧ t = { s with cores := t.cores, out := t.out }) ∧
  (∀ (c : Fin 8) (e : Engine) (s : State) (w : BitVec 128) (pc : Nat), s.ready c e.idx 0x01 w pc →
       let u := s.take c e.idx w pc
       let i := bitsOf w.toNat 6 0
       let a := decodeInt 24 (bitsOf w.toNat 31 8)
       (0 ≤ a → u.coreCtr c i + a.toNat < (if 96 ≤ i then 2 ^ 32 else 2 ^ 48) →
         ∃ t, exec (.ctrAdd c e) s = .next t ∧ t.coreCtr c i = u.coreCtr c i + a.toNat ∧
           (∀ j, j ≠ i → t.coreCtr c j = u.coreCtr c j) ∧ s.onlyCore t c ∧
           t = { u with cores := t.cores, sync := t.sync } ∧ t.sync.ctr = s.sync.ctr) ∧
       (a < 0 → 96 ≤ i → a.natAbs ≤ u.coreCtr c i →
         ∃ t, exec (.ctrAdd c e) s = .next t ∧ t.coreCtr c i = u.coreCtr c i - a.natAbs ∧
           (∀ j, j ≠ i → t.coreCtr c j = u.coreCtr c j) ∧ s.onlyCore t c ∧ t = { u with cores := t.cores }) ∧
       (a < 0 → i < 96 → exec (.ctrAdd c e) s = .next (u.failIssued c e.idx (eCore c 4) pc))) ∧
  (∀ (c : Fin 8) (e : Engine) (s : State) (w : BitVec 128) (pc : Nat),
       let u := s.take c e.idx w pc
       (s.ready c e.idx 0x02 w pc → ∃ t, exec (.halt c e) s = .next t ∧
         (∀ k, (t.core c).eng.halted.testBit k = ((s.core c).eng.halted.testBit k || decide (k = e.idx))) ∧
         t = u.onEng c fun g => { g with halted := (t.core c).eng.halted }) ∧
       (s.ready c e.idx 0x03 w pc → ∃ t, exec (.setOutstanding c e) s = .next t ∧
         (t.core c).eng.limitFetch = (if e = .fetch then bitsOf w.toNat 8 0 else (s.core c).eng.limitFetch) ∧
         (t.core c).eng.limitPut = (if e = .fetch then (s.core c).eng.limitPut else bitsOf w.toNat 8 0) ∧
         t = u.onEng c fun g => { g with limitFetch := (t.core c).eng.limitFetch, limitPut := (t.core c).eng.limitPut }))

/-- DISPATCH (R80, R92): the next word of the stream, as T1 reads, when it decodes and its queue has room, joins the queue that it names; a word
that does not decode stops the core with its error 1. PHASE_ENTER (R88): when the phase has ended, the next class with a ready head. -/
def Obligations.DispatchAndPhase : Prop :=
  ∀ (c : Fin 8) (s : State),
    let g := (s.core c).eng
    let pc := g.base + 16 * g.next
    let w := natOf (s.t1Seen pc 16)
    (s.dispatchReady c = true → s.poisonIn pc 16 = none → wordOk w = true → (g.queueOf (engOf w)).length < 64 →
      ∃ t, exec (.dispatch c) s = .next t ∧ (t.core c).eng.next = g.next + 1 ∧
        (t.core c).eng.queueOf (engOf w) = g.queueOf (engOf w) ++ [(BitVec.ofNat 128 w, pc)] ∧
        (∀ k, k ≠ engOf w → (t.core c).eng.queueOf k = g.queueOf k) ∧
        s.onlyCore t c ∧ t = { s with cores := t.cores, win := t.win } ∧ t.win.regs = s.win.regs) ∧
    (s.dispatchReady c = true → s.poisonIn pc 16 = none → wordOk w = false →
      exec (.dispatch c) s = .next ((s.bump64 (pageMem + 0xD0) 16).coreFail c (engOf w) (eCore c 1) pc)) ∧
    (∀ k, s.coreLive c = true → s.phaseEnded c = true →
      s.nextPhase c (if g.phase = 0 then g.lastPhase else g.phase) = some k →
      ∃ t, exec (.phaseEnter c) s = .next t ∧ (t.core c).eng.phase = k ∧ s.readyHead c k = true ∧
        (t.core c).eng.lastPhase = (if g.phase = 0 then g.lastPhase else g.phase) ∧
        t = s.onEng c fun g => { g with phase := (t.core c).eng.phase, lastPhase := (t.core c).eng.lastPhase })

/-- INSTRUCTION_COMPLETE (R83): when the oldest instruction of an engine has reached its completion point it leaves, and the counter
that it signals gains one; with no instruction complete nothing changes. ATTN_KV also clears both weight banks (R224). -/
def Obligations.CompletionSignals : Prop :=
  ∀ (c : Fin 8) (e : Engine) (s : State) (i : InFlight) (rest : List InFlight),
    let g := (s.core c).eng
    let x := i.word.toNat
    g.flyOf e.idx = i :: rest →
    (g.complete i = false → exec (.instructionComplete c e) s = .next s) ∧
    (∀ id, s.fatal = false → g.complete i = true → g.flight = some id → g.failed = none → traceFlag x = false → sigEn x = true → i.cut = false →
      s.coreCtr c (sigCtr x) + 1 < (if 96 ≤ sigCtr x then 2 ^ 32 else 2 ^ 48) →
      ∃ u, exec (.instructionComplete c e) s = .next (u.settle id) ∧
        (u.core c).eng.flyOf e.idx = rest ∧ u.coreCtr c (sigCtr x) = s.coreCtr c (sigCtr x) + 1 ∧
        (∀ j, j ≠ sigCtr x → u.coreCtr c j = s.coreCtr c j) ∧
        (u.core c).plane = (if opOf x = 0x23 then (s.core c).plane.clearBanks else (s.core c).plane) ∧
        s.onlyCore u c ∧ u = { s with cores := u.cores, sync := u.sync } ∧ u.sync.ctr = s.sync.ctr)

/-! ### Core power, reset and resume -/

/-- CORE_POWER_GATE and CORE_WAKE (R75, R76): an idle core whose GATE_DIS is clear gates, and a gated core that has work or whose
GATE_DIS is set wakes. Both leave every tile and bank without a valid bit; the working store keeps its contents.
CORE_RESET of a core that runs nothing, CORE_RESET_END and CORE_RESUME (R104, R105, R106): the reset clears the queues, the
counters and the plane, and CORE_RESET reads 1; its end has wiped the core's working store, and no other, and CORE_RESET reads 0; a
broken core resumes.
CORE_HANG (R101, R102): the watchdog of a core that runs a command and has its timeout enabled reports the core's error 2, with an
engine and an offset that the spec does not give (log entry 15: free values). The core stops with it: while issued transfers have not finished
the error waits unreported, and the command goes on; once the core has drained, the command ends with the code. -/
def Obligations.CorePowerAndReset : Prop :=
  (∀ (c : Fin 8) (s : State),
       let g := (s.core c).eng
       (s.fatal = false → g.flight = none → g.gated = false → g.resetting = false → s.coreCtrl c 1 = false →
         ∃ t, exec (.corePowerGate c) s = .next t ∧ (t.core c).eng = { g with gated := true } ∧
           (t.core c).plane = (s.core c).plane.invalidate ∧ s.onlyCore t c ∧ t = { s with cores := t.cores }) ∧
       (s.fatal = false → g.gated = true → (g.flight.isSome || s.coreCtrl c 1) = true →
         ∃ t, exec (.coreWake c) s = .next t ∧ (t.core c).eng = { g with gated := false } ∧
           (t.core c).plane = (s.core c).plane.invalidate ∧ s.onlyCore t c ∧ t = { s with cores := t.cores })) ∧
  (∀ (c : Fin 8) (s : State),
       let o := pageCore c + 8
       (s.fatal = false → (s.core c).eng.resetting = false → (s.core c).eng.flight = none →
         ∃ t, exec (.coreReset c) s = .next t ∧ (t.core c).eng.resetting = true ∧ (t.core c).eng.queues = [] ∧ (t.core c).ctr = [] ∧
           (t.core c).plane.valid = 0#8 ∧ (t.core c).plane.bank0 = Bank.empty ∧ (t.core c).plane.bank1 = Bank.empty ∧
           t.reg o = s.reg o ||| 1#32 ∧ s.onlyRegs t [o] ∧ s.onlyCore t c ∧
           t = { s with cores := t.cores, win := { s.win with regs := t.win.regs } }) ∧
       (s.fatal = false → (s.core c).eng.resetting = true →
         ∃ t, exec (.coreResetEnd c) s = .next t ∧ (t.core c).eng = { (s.core c).eng with resetting := false } ∧
           (∀ k, k < wsBytes → t.ws c k 1 = [0#8]) ∧
           (∀ k, k < c * wsBytes ∨ (c + 1) * wsBytes ≤ k → t.t0 k 1 = s.t0 k 1) ∧
           t.reg o = s.reg o &&& ~~~1#32 ∧ s.onlyRegs t [o] ∧ s.onlyCore t c ∧
           t = { s with cores := t.cores, win := { s.win with regs := t.win.regs }, mem := { s.mem with t0 := t.mem.t0 } }) ∧
       (s.fatal = false → (s.core c).eng.broken = true →
         ∃ t, exec (.coreResume c) s = .next t ∧ (t.core c).eng = { (s.core c).eng with broken := false } ∧
           s.onlyCore t c ∧ t = { s with cores := t.cores })) ∧
  (∀ (c : Fin 8) (s : State) (id : Nat),
       let g := (s.core c).eng
       s.fatal = false → g.flight = some id → g.broken = false → g.failed = none → (s.reg (pageCore c + 0x50)).toNat % 2 ^ 24 ≠ 0 →
         ∃ (e pc : Nat) (v : State), e < 4 ∧ pc < 2 ^ 42 ∧ v = { s with free := s.free + 1 }.coreFail c e (eCore c 2) pc ∧
           exec (.coreHang c) s = .next (v.settle id) ∧
           (g.stop.drained = false → (v.core c).eng.failed = some ⟨eCore c 2, e, pc, 0, false⟩))

/-! ### The fetch and put engines -/

/-- FETCH and PUT (R95, R204) issue when their block list lies in the working store; else the core stops with its error 6.
A block that fails its checks stops the core with the code of the first check that fails, and moves nothing (R207). -/
def Obligations.FetchPutIssueAndCheck : Prop :=
  (∀ (c : Fin 8) (s : State) (w : BitVec 128) (pc : Nat),
       let fits := 64 * bitsOf w.toNat 19 0 + 64 * bitsOf w.toNat 35 20 ≤ 0x4000000
       (s.ready c 0 0x10 w pc →
         (fits → exec (.fetch c) s = .next (s.take c 0 w pc)) ∧
         (¬ fits → exec (.fetch c) s = .next (s.coreFail c 0 (eCore c 6) pc))) ∧
       (s.ready c 3 0x30 w pc →
         (fits → exec (.put c) s = .next (s.take c 3 w pc)) ∧
         (¬ fits → exec (.put c) s = .next (s.coreFail c 3 (eCore c 6) pc)))) ∧
  (∀ (c : Fin 8) (s u : State) (i : InFlight) (e : Engine) (code more : Nat), (e = .fetch ∨ e = .put) →
       s.blocksLive c = true →
       (((s.core c).eng.flyOf e.idx).find? fun i => i.halted.isNone && decide (i.block < i.blocks)) = some i →
       i.open_ = [] → (s.transfers c e.idx).length < (s.core c).eng.limit e.idx →
       s.blockCheck (s.blockOf c i) (e == .put) (s.core c).eng.flight = (some (code, more), u) → errClass code = 1 →
       exec (.blockIssue c e) s = .next (u.failIssued c e.idx code i.pc more) ∧
       ((s.blockOf c i).shapeOk = false → code = eBlockBad))

/-- BLOCK_ISSUE of a block that names a range of this chip's own T1 in one run within one 4 KiB unit (R204, R206): a FETCH brings the
bytes of T1, as T1 reads, to the near side, a FETCH with ZERO writes zeros there, a PUT writes the near side's bytes to T1, zeros with ZERO. No
other byte changes. The instruction, and no other, goes on to its next block; of the core nothing else changes but its activity counts, and
no other core changes. -/
def Obligations.BlockIssueMoves : Prop :=
  ∀ (c : Fin 8) (s : State) (i : InFlight) (e : Engine), (e = .fetch ∨ e = .put) →
    let b := s.blockOf c i
    let o := b.farOff
    let near := c * wsBytes + b.near
    s.blocksLive c = true →
    (((s.core c).eng.flyOf e.idx).find? fun i => i.halted.isNone && decide (i.block < i.blocks)) = some i →
    i.open_ = [] → (s.transfers c e.idx).length < (s.core c).eng.limit e.idx →
    b.kind = 0 → b.c1 = 1 → b.c2 = 1 → b.c3 = 1 → 1 ≤ b.len → o % 4096 + b.len ≤ 4096 →
    s.blockCheck b (e == .put) (s.core c).eng.flight = (none, s) → s.dstBusy c e.idx (s.blockDst b (e == .put)) = false →
    (e = .fetch → b.zero = false → s.poisonIn o b.len = none →
      ∃ t, exec (.blockIssue c e) s = .next t ∧ s.blockPassed t c e.idx i ∧ t.t0 near b.len = s.t1Seen o b.len ∧
        (∀ k, k < near ∨ near + b.len ≤ k → t.t0 k 1 = s.t0 k 1) ∧ t.mem = { s.mem with t0 := t.mem.t0 } ∧
        t = { s with cores := t.cores, mem := t.mem, win := { s.win with counts := t.win.counts } }) ∧
    (e = .fetch → b.zero = true →
      ∃ t, exec (.blockIssue c e) s = .next t ∧ s.blockPassed t c e.idx i ∧ t.t0 near b.len = List.replicate b.len 0#8 ∧
        (∀ k, k < near ∨ near + b.len ≤ k → t.t0 k 1 = s.t0 k 1) ∧ t.mem = { s.mem with t0 := t.mem.t0 } ∧
        t = { s with cores := t.cores, mem := t.mem }) ∧
    (e = .put →
      ∃ t, exec (.blockIssue c e) s = .next t ∧ s.blockPassed t c e.idx i ∧
            t.t1 o b.len = (if b.zero then List.replicate b.len 0#8 else s.t0 near b.len) ∧
        (∀ k, k < o ∨ o + b.len ≤ k → t.t1 k 1 = s.t1 k 1) ∧ t.mem.t0 = s.mem.t0 ∧
        t = { s with cores := t.cores, mem := { s.mem with t1 := t.mem.t1, poison := t.mem.poison },
                     win := { s.win with counts := t.win.counts } })

/-- RING_SEND (R95, R524) copies the bytes to the receiving core's working store and, with DSIG, adds one to the counter there; FENCE
(R84) owes every AWL_PUT of its queue not yet acknowledged.
SIG_REMOTE to a chip counter of its own chip adds AMOUNT there at once, and ends the barriers that wait for it (R96, R113, R124); to
another chip that a route leads to it leaves as a SIGNAL message and the instruction waits for its answer (R84, R357). AWL_PUT to its own
chip's T1 writes there; to another chip it leaves as an awl message, which counts among the sixteen not acknowledged (R214). -/
def Obligations.PutQueueSends : Prop :=
  (∀ (c : Fin 8) (s : State) (w : BitVec 128) (pc : Nat),
       let u := s.take c 3 w pc
       let r := RingSend.of w.toNat
       (s.ready c 3 0x31 w pc → r.src + r.len ≤ 0x4000000 → r.dst + r.len ≤ 0x4000000 →
         (r.dsig = false →
           ∃ t, exec (.ringSend c) s = .next t ∧ t.ws r.dcore r.dst r.len = s.ws c r.src r.len ∧
             (∀ k, k < r.dcore * wsBytes + r.dst ∨ r.dcore * wsBytes + r.dst + r.len ≤ k → t.t0 k 1 = s.t0 k 1) ∧
             t = { u with mem := { s.mem with t0 := t.mem.t0 } }) ∧
         (r.dsig = true → (u.core r.dcore).eng.flight ≠ none →
           u.coreCtr r.dcore r.dctr + 1 < (if 96 ≤ r.dctr then 2 ^ 32 else 2 ^ 48) →
           ∃ t, exec (.ringSend c) s = .next t ∧ t.ws r.dcore r.dst r.len = s.ws c r.src r.len ∧
             t.coreCtr r.dcore r.dctr = u.coreCtr r.dcore r.dctr + 1 ∧
             (∀ m j, ¬ (m = r.dcore ∧ j = r.dctr) → t.coreCtr m j = u.coreCtr m j) ∧
             t = { u with mem := { s.mem with t0 := t.mem.t0 }, cores := t.cores, sync := t.sync } ∧ t.sync.ctr = s.sync.ctr)) ∧
       (s.ready c 3 0x33 w pc → exec (.fence c) s = .next (u.owe c 3 (s.core c).eng.nextIid (u.core c).eng.awls))) ∧
  (∀ (c : Fin 8) (s : State) (w : BitVec 128) (pc tag : Nat) (v : State),
       let u := s.take c 3 w pc
       let x := SigTarget.of w.toNat
       (s.ready c 3 0x34 w pc → sigRemoteCheck w.toNat s = none → x.onCore = false →
         u.isSelf x.chip = true → u.chipCtr x.index + x.amount < (if u.isCredit x.index then 2 ^ 32 else 2 ^ 48) →
         ∃ t, exec (.sigRemote c) s = .next t ∧ t.chipCtr x.index = u.chipCtr x.index + x.amount ∧
           (∀ j, j ≠ x.index → t.chipCtr j = u.chipCtr j) ∧ t.sync.bars = s.sync.bars ∧
           t = { u with sync := t.sync, cmd := (State.wakeBarriers { u with sync := t.sync } x.index).cmd }) ∧
       (s.ready c 3 0x34 w pc → sigRemoteCheck w.toNat s = none → u.isSelf x.chip = false →
         u.request (.signal c (s.core c).eng.nextIid) 0x03 x.chip (bitsOf w.toNat 32 20 * 2 ^ 20) 0 x.amount [] none = (v, some tag) →
         exec (.sigRemote c) s = .next (v.owe c 3 (s.core c).eng.nextIid [tag])) ∧
       (let rec_ := s.ws c (64 * bitsOf w.toNat 19 0) 320
        let a := field rec_ 0 8
        s.ready c 3 0x32 w pc → s.awlCheck c w.toNat = none →
         (u.isSelf (Dev.of a).chip = true → (Dev.of a).tier = 1 →
           exec (.awlPut c) s = .next (u.setT1 (Dev.of a).off (slice rec_ 64 (field rec_ 8 2)))) ∧
         (u.isSelf (Dev.of a).chip = false →
         u.request (.awl c ((u.core c).eng.flight.getD 0) pc) 0x04 (Dev.of a).chip a (slice rec_ 64 (field rec_ 8 2)).length 0
           (slice rec_ 64 (field rec_ 8 2)) none = (v, some tag) →
         exec (.awlPut c) s = .next (v.onEng c fun g => { g with awls := g.awls ++ [tag] }))))

/-! ### The plane -/

/-- LOAD_W (R79, R97, R224): the tile goes into the inactive bank, which is then valid; the active bank and everything else stay.
TALLY_CLR (R95): each tile of the mask reads +0 in every element and is valid; the others stay. -/
def Obligations.BanksAndTallies : Prop :=
  (∀ (c : Fin 8) (s : State) (w : BitVec 128) (pc : Nat), s.ready c 1 0x20 w pc →
       loadWCheck w.toNat c s = none →
       let u := s.take c 1 w pc
       let p := (s.core c).plane
       ∃ t, exec (.loadW c) s = .next t ∧
         (t.core c).plane.bank (!p.active) = (p.bank (!p.active)).load (LoadW.of w.toNat) (s.weightCols c (LoadW.of w.toNat)) ∧
         ((t.core c).plane.bank (!p.active)).valid = true ∧ (t.core c).plane.bank p.active = p.bank p.active ∧
         t = u.onPlane c (fun q => { q with bank0 := (t.core c).plane.bank0, bank1 := (t.core c).plane.bank1 })) ∧
  (∀ (c : Fin 8) (s : State) (w : BitVec 128) (pc : Nat), s.ready c 2 0x45 w pc →
       ∃ t, exec (.tallyClr c) s = .next t ∧
         (∀ tile row, tile < 8 → row < 512 → (t.core c).plane.row tile row 512 =
           if w.toNat.testBit tile then List.replicate 512 0#32 else (s.core c).plane.row tile row 512) ∧
         (∀ tile, tile < 8 → (t.core c).plane.valid.getLsbD tile = (w.toNat.testBit tile || (s.core c).plane.valid.getLsbD tile)) ∧
         t.mem = s.mem ∧ s.onlyCore t c ∧ t = { s with cores := t.cores, out := t.out })

/-- MATMUL (R47, R48, R77, R79, R232): after the swap that it asks for, each of its rows is streamed through the active bank, and the 512
elements of the row's tile gain, or with ACC clear become, the sums of the row. The tiles written are valid, and the attention states of their
rows are reset. The rows of its last tile beyond ROWS, the other tiles, the banks and, the issue apart, every other state stay. -/
def Obligations.MatmulFillsTally : Prop :=
  ∀ (c : Fin 8) (s : State) (w : BitVec 128) (pc : Nat), s.ready c 1 0x21 w pc → matmulCheck w.toNat c s = none →
    let m := Matmul.of w.toNat
    let p := (s.core c).plane
    let b := m.bank p
    let n := ceilDiv m.rows 512
    let q := (List.range n).foldl (fun q i => q.resetStates (m.tile + i)) p
    ∃ t, exec (.matmul c) s = .next t ∧ (t.core c).plane.active = (p.active != m.swap) ∧
      (∀ r, r < m.rows → (t.core c).plane.row (m.tile + r / 512) (r % 512) 512 = b.outRow m (s.streamRow c m r b.depth)
        (if m.acc then p.row (m.tile + r / 512) (r % 512) 512 else List.replicate 512 0#32)) ∧
      (∀ tile r, r < 512 → (tile < m.tile ∨ m.rows ≤ 512 * (tile - m.tile) + r) →
        (t.core c).plane.row tile r 512 = p.row tile r 512) ∧
      (∀ tile, tile < 8 → (t.core c).plane.valid.getLsbD tile =
        (decide (m.tile ≤ tile ∧ tile < m.tile + n) || p.valid.getLsbD tile)) ∧
      (t.core c).plane.att = q.att ∧ (t.core c).plane.sets = q.sets ∧
      t = (s.take c 1 w pc).onPlane c fun q => { q with
        tally := (t.core c).plane.tally, valid := (t.core c).plane.valid, active := (t.core c).plane.active,
        att := (t.core c).plane.att, sets := (t.core c).plane.sets }

/-! ### Attention and the scan unit -/

/-- ATTN_CFG (R225, R226) makes a well-formed record the current one; a record that breaks R225 is the core's error 1. ATTN_KV (R233)
streams its visible key blocks: with none visible it changes nothing but its issue; in invariant mode a block that breaks R239 stops
the core after those before it. ATTN_END (R236, R237) writes each row below Q_VALID at its place, a quotient or a partial, and no other byte; it
leaves every tile of its set +0 and valid, and memory beyond the working store as it was. -/
def Obligations.AttentionSequence : Prop :=
  ∀ (c : Fin 8) (s : State) (w : BitVec 128) (pc : Nat),
    (let o := 64 * bitsOf w.toNat 19 0
     s.ready c 1 0x22 w pc → o + 128 ≤ 0x4000000 →
      (attRecOk (s.ws c o 128) = true →
        ∃ t, exec (.attnCfg c) s = .next t ∧ (t.core c).plane = { (s.core c).plane with record := some (s.ws c o 128) } ∧
          t = (s.take c 1 w pc).onPlane c fun p => { p with record := some (s.ws c o 128) }) ∧
      (attRecOk (s.ws c o 128) = false → exec (.attnCfg c) s = .next (s.coreFail c 1 (eCore c 1) pc))) ∧
    (∀ r bytes, s.ready c 1 0x23 w pc → attnKvCheck w.toNat c s = none →
      (s.core c).plane.record = some bytes → r = AttRec.of bytes →
      let k := AttKv.of w.toNat
      let u := s.take c 1 w pc
      let old := (u.attSet c k.tile).lastPos
      let done (bs : List KeyBlock) (last : Option Nat) : State :=
        let v := bs.foldl (fun s b => s.streamBlock c r k b) u
        let set := AttSet.mk bytes ((List.range r.tiles).map (k.tile + ·)) last
        if bs.isEmpty then u else v.onPlane c fun p => { p with sets := store (fun _ => AttSet.none_) p.sets k.tile set }
      (r.invariant = false → exec (.attnKv c) s = .next (done (u.keyBlocks c r k) old)) ∧
      (∀ bs last, r.invariant = true → takeBlocks r.unit old (u.keyBlocks c r k) [] = (bs, last, false) →
        exec (.attnKv c) s = .next (done bs last)) ∧
      (∀ bs last, r.invariant = true → takeBlocks r.unit old (u.keyBlocks c r k) [] = (bs, last, true) →
        exec (.attnKv c) s = .next ((done bs last).failIssued c 1 (eCore c 1) pc))) ∧
    (∀ b, s.ready c 1 0x24 w pc →
      attnEndCheck w.toNat c s = none → s.endRec c (AttEnd.of w.toNat).tile = some b →
      let a := AttEnd.of w.toNat
      let r := AttRec.of b
      let p := (s.core c).plane
      let bytes (row : Nat) : List Byte := if a.part then partialRow (p.rowStates r a.tile row) (p.outVec r a.tile row)
        else (normalRow (fmtOf a.fmt) (p.rowStates r a.tile row) (p.outVec r a.tile row)).1
      ∃ t, exec (.attnEnd c) s = .next t ∧
        (∀ k row, k < r.tiles → row < 512 → (t.core c).plane.row (a.tile + k) row 512 = List.replicate 512 0#32) ∧
        (∀ k, k < r.tiles → (t.core c).plane.valid.getLsbD (a.tile + k) = true) ∧
        (∀ row, row < r.qValid → a.rowLen r ≤ a.stride r →
          t.ws c (a.dst + row * a.stride r) (bytes row).length = bytes row) ∧
        (∀ k, (∀ row, row < r.qValid → let o := c * wsBytes + a.dst + row * a.stride r; k < o ∨ o + a.rowLen r ≤ k) → t.t0 k 1 = s.t0 k 1) ∧
        (t.core c).plane.record = p.record ∧ t.mem = { s.mem with t0 := t.mem.t0 } ∧ s.onlyCore t c ∧
        s.onlyRegs t [pageCore c + 0x58])

/-- SCAN (R44, R265, R268): mode 4 writes the summary of its 256 items at OUT, counts the means that saturate, and does nothing else; the
other modes score the items into the lists, from empty lists unless CONT, count them, and leave memory alone unless FINAL, which writes each
list's count and hits. -/
def Obligations.ScanScoresItems : Prop :=
  ∀ (c : Fin 8) (s : State) (w : BitVec 128) (pc : Nat), s.ready c 1 0x25 w pc →
    scanCheck w.toNat c s = none →
    let u := s.take c 1 w pc
    let r := ScanRec.of (s.ws c (64 * bitsOf w.toNat 19 0) 128)
    (r.mode = 4 → ∃ t, exec (.scan c) s = .next t ∧
      (let rows := (List.range 256).map (r.itemRow s c)
       let out := summaryOf rows r.ropeOff r.ropeDims
       t.ws c r.out out.length = out ∧ t = (u.setWs c r.out out).addSat c (summarySats rows r.ropeOff r.ropeDims))) ∧
    (r.mode ≠ 4 → r.final = false → r.depth ≤ 512 → ∃ t, exec (.scan c) s = .next t ∧
      (t.core c).scan.lists = (List.range r.nItems).foldl
        (fun l i => r.enter u c i (r.dots ((List.range r.nq).map (r.queryRow u c)) (r.itemRow u c i)) l)
        (if r.cont then (s.core c).scan.lists else []) ∧
      t.count (pageScan + 0x60 + 8 * c) = min (s.count (pageScan + 0x60 + 8 * c) + r.nItems) (2 ^ 64 - 1) ∧
      s.onlyCounts t [pageScan + 0x60 + 8 * c] ∧ t.mem = s.mem ∧ s.onlyCore t c) ∧
    (r.mode ≠ 4 → r.final = true → ∃ t, exec (.scan c) s = .next t ∧ t.mem.t1 = s.mem.t1 ∧ s.onlyCore t c ∧
      ∀ q l, q < r.lists → l = look (fun _ => []) (t.core c).scan.lists q → l.length ≤ r.k →
        t.ws c (r.out + q * listStride r.k) 4 = bytesOf 4 l.length ∧
        t.ws c (r.out + q * listStride r.k + 64) (8 * r.k) = hitBytes r.k l)

/-! ### The vector unit and the special function unit -/

/-- VCFG (R98) sets the shape in force. VOP (R138, R139) writes, row by row, what it has computed from the state before.
RSTAT with KEEP (R140) feeds each row's elements, in order, to its row state, from the empty state unless CONT, and writes nothing
to memory. Without KEEP it leaves no row state (R141), and FINISH leaves them as they are. -/
def Obligations.VectorUnit : Prop :=
  (∀ (c : Fin 8) (s : State) (w : BitVec 128) (pc : Nat),
       let u := s.take c 2 w pc
       (s.ready c 2 0x40 w pc → ∃ t, exec (.vcfg c) s = .next t ∧ (t.core c).vcfg = some (BitVec.ofNat 72 w.toNat) ∧
         t = u.onCore c fun k => { k with vcfg := (t.core c).vcfg }) ∧
       (∀ h, s.ready c 2 0x41 w pc → vopCheck w.toNat c s = none → s.shape c = some h →
         let v := Vop.of w.toNat
         exec (.vop c) s = .next (u.writeRows c v.dst ((List.range h.rows).map (s.vopRow c v h))) ∧
         (h.rows = 1 → v.op = 0x10 → h.fmtD = .fp32 →
           ∀ t, exec (.vop c) s = .next t → t.ws c v.dst 4 = bytesOf 4 (convert .fp32 (rowSum
             (if v.tally then h.tallyRow s c v.tile 0 else h.srcRow s c h.fmtA v.a 0))).bits)) ∧
       (s.ready c 2 0x41 w pc → s.shape c = none →
         exec (.vop c) s = .next (s.coreFail c 2 (eCore c 1) pc))) ∧
  (∀ (c : Fin 8) (s : State) (w : BitVec 128) (pc : Nat) (h : Shape), s.ready c 2 0x42 w pc →
       rstatCheck w.toNat c s = none → s.shape c = some h →
       let i := Rstat.of w.toNat
       (i.mode ≠ 3 → i.keep = true →
         ∃ t, exec (.rstat c) s = .next t ∧
           (∀ r, r < h.rows → look noRow (t.core c).rows r =
             (if i.tally then h.tallyRow s c i.tile r else h.srcRow s c h.fmtA i.src r).foldl RowState.feed
               (if i.cont then look noRow (s.core c).rows r else RowState.empty)) ∧
           t.mem = s.mem ∧ s.onlyCore t c ∧ t = { s with cores := t.cores, out := t.out }) ∧
       (i.mode ≠ 3 → i.keep = false → ∃ t, exec (.rstat c) s = .next t ∧ (t.core c).rows = [] ∧
         t.mem = { s.mem with t0 := t.mem.t0 } ∧ s.onlyCore t c ∧ t = { s with cores := t.cores, mem := t.mem, out := t.out }) ∧
       (i.mode = 3 → ∃ t, exec (.rstat c) s = .next t ∧ (t.core c).rows = (s.core c).rows ∧ t.mem = { s.mem with t0 := t.mem.t0 } ∧
         s.onlyCore t c ∧ s.onlyRegs t [0x0700054]))

/-- SFU (R147, R148, R158) writes each row's results. A result in BF16, FP16 or FP8 has one value: what an enclosure of the exact one rounds to
wherever both its ends round alike. In FP32 it is one of two neighbouring codes, and which is a free value of the function, the format and the
input (log entry 22). UPROG (R149, R161) runs its program on every element and writes the rows, and the first element whose program fails stops
the core with that SFU code. -/
def Obligations.SpecialFunctions : Prop :=
  ∀ (c : Fin 8) (s : State) (w : BitVec 128) (pc : Nat) (h : Shape), s.shape c = some h →
    let u := s.take c 2 w pc
    (s.ready c 2 0x43 w pc → sfuCheck w.toNat c s = none →
      let i := SfuInstr.of w.toNat
      exec (.sfu c) s = .next (u.writeRows c i.dst ((List.range h.rows).map (u.sfuRow c i h)))) ∧
    (∀ x i, (s.core c).sfu.compat = false → h.fmtD ≠ .fp32 → s.sfuElem c i h x = native i.fn h.fmtD false x) ∧
    (∀ fn f x i r, f ≠ .fp32 → x.isFinite = true → x.isZero = false → nativeFinite fn x = .within i → roundItv f i = some r →
      native fn f false x = r) ∧
    (∀ x i, (s.core c).sfu.compat = false → ∃ k, k ≤ 1 ∧ s.sfuElem c i { h with fmtD := .fp32 } x = native i.fn .fp32 (k == 1) x ∧
      (native i.fn .fp32 true x).bits ≤ (native i.fn .fp32 false x).bits + 1 ∧
      (native i.fn .fp32 false x).bits ≤ (native i.fn .fp32 true x).bits) ∧
    (s.ready c 2 0x44 w pc → uprogCheck w.toNat c s = none →
      (∀ rows, u.uprogRows c (Uprog.of w.toNat) h h.rows 0 = .ok rows →
        exec (.uprog c) s = .next (u.writeRows c (Uprog.of w.toNat).dst rows)) ∧
      (∀ code word, u.uprogRows c (Uprog.of w.toNat) h h.rows 0 = .error (code, word) →
        exec (.uprog c) s = .next (u.failIssued c 2 (eSfu c code) pc (word * 2 ^ 16))))

/-! ### Commands: start, operators, completion -/

/-- COMMAND_START (R401): the head of a queue that may start and is served takes the queue's next number in flight, its slots leave the
ring, and it is counted. A head without image or scope, whose form and fields are right, stands started with no error; a head whose form
earns a code ends with that code, and a barrier of each member whose list R523 forbids ends on the whole group. -/
def Obligations.CommandStartTakesHead : Prop :=
  ∀ (q : Fin 64) (s : State) (h : Head), s.startable q = some h → s.served q h = true → s.slotPoison q h = none →
    let u := s.takeHead q h
    (u.startCode h = none → u.listPoison h = none → h.scope = false → hasImage h.body = false →
      ∃ t f, exec (.commandStart q) s = .next t ∧ t.cmd.flights = s.cmd.flights ++ [f] ∧ f.id = s.cmd.nextId ∧ f.queue = q.val ∧
        f.body = h.body ∧ f.stage = .started ∧ f.error = 0 ∧ f.cores = [] ∧ f.started = s.time ∧
        t.cmd.nextId = s.cmd.nextId + 1 ∧ t.cmd.last = q.val ∧ (t.queue q).arrivals = h.rest ∧
        (∀ slot n, h.origin = .ring slot n → t.cqHead q = (slot + n) % 2 ^ 24) ∧
        (∀ k, k ≠ q.val → t.queue k = s.queue k) ∧ t.mem = s.mem ∧ t.cores = s.cores ∧ t.win.regs = s.win.regs) ∧
    (∀ code, u.startCode h = some code → exec (.commandStart q) s = .next ((u.tellList h code).failCommand s.cmd.nextId code 0#32)) ∧
    (∀ code v, u.tellList h code = v → (h.op ≠ 0x41 ∨ h.scope = true ∨ code ≠ eGroupList → v = u) ∧
      (∀ g, h.op = 0x41 → h.scope = false → code = eGroupList → u.group? h.group = some g → v = u.tellBarrier g 0 code g.position))

/-- The image operators MATMUL, NORM, SFU_APPLY and CORE_PROGRAM (R80, R396): a started command points the dispatcher of its core at the
instruction stream of its image and runs; one that has taken no core ends at once, without an error. -/
def Obligations.ImageOperatorsRun : Prop :=
  ∀ (q : Fin 64) (s : State) (f : Flight) (c : Instr) (op : Nat),
    (c, op) ∈ [(Instr.cmdMatmul q, 0x01), (Instr.norm q, 0x02), (Instr.sfuApply q, 0x03), (Instr.coreProgram q, 0x04)] →
    s.flightAt q op .started = some f →
    (∀ n m oc lc oi li, n < 8 → f.cores = [n] → s.imageOf f.body = some m → s.imageSection m 2 n = some (oc, lc) →
      s.imageSection m 3 n = some (oi, li) →
      ∃ t, exec c s = .next t ∧ (t.core n).eng = { (s.core n).eng with
          base := m.entry.t1Base + oi
          count := field (s.objBytes m.entry oc 64) 0 4
          next := 0 } ∧
        t.cmd = (s.onFlight f.id fun f => { f with stage := .running }).cmd ∧ s.onlyCore t n ∧
        t = { s with cores := t.cores, cmd := t.cmd }) ∧
    (f.cores = [] → exec c s = .next (s.onFlight f.id Flight.finish))

/-- MOVE (R399, R400) of a range of this chip's own T1 to another, within one 4 KiB unit on each side and without an error: the bytes
arrive, no other byte changes, and the command ends with its length as result. -/
def Obligations.MoveCopies : Prop :=
  ∀ (q : Fin 64) (s : State) (f : Flight) (src dst : Nat),
    let n := f.get 24 8
    s.mem.wiping = false → s.flightAt q 0x40 .started = some f → s.cmd.flights = [f] → s.cmd.requests = [] → f.halted = none →
    f.parts = [] → f.round = 0 → f.get 16 1 = 0 → f.get 17 1 = 0 → src = f.get 32 8 → dst = f.get 48 8 →
    1 ≤ n → src % 4096 + n ≤ 4096 → dst % 4096 + n ≤ 4096 → s.poisonIn src n = none →
    s.moveCheck f 16 32 false = (none, s) → s.moveCheck f 17 48 true = (none, s) →
    ∃ t, exec (.move q) s = .next t ∧ t.t1 dst n = s.t1Seen src n ∧ (∀ k, k < dst ∨ dst + n ≤ k → t.t1 k 1 = s.t1 k 1) ∧
      t.cmd.flights = [{ f.finish with round := n, result := n }] ∧ t.mem.t0 = s.mem.t0 ∧ t.win.regs = s.win.regs ∧
      t.cores = s.cores

/-- SIGNAL (R118) to a chip counter of its own chip adds its amount there and ends the barriers that wait for it, or, after the waits that
the counter satisfies (R115), takes it from a credit counter that then holds as much; the command ends. SIGNAL to another chip that a route
leads to sends a SIGNAL message.
WAIT (R115, R118), after the waits that go before it, on a counter that has reached its value ends with the counter as result; a credit
counter gives the value up. One that waits changes only its stage. CMD_WAIT_TIMEOUT (R400) ends a wait whose TIMEOUT is not 0 with its code.
HINT (R428) is accepted by the power controller and ends; while hints are disabled it ends with no other effect. An operator that the
table does not list ends with `CMD_BAD_OPCODE` (R395). -/
def Obligations.SignalsWaitsHints : Prop :=
  (∀ (q : Fin 64) (s : State) (f : Flight),
       let chip := f.get 16 4
       let i := f.get 20 2
       let a := signedOf 64 (f.get 24 8)
       let u := s.onFlight f.id fun f => { f with stage := .running }
       let w := u.takeWaits i 64
       s.flightAt q 0x42 .started = some f → ¬ (0xFFFC0 ≤ chip ∧ chip < 0xFFFFF) →
       (s.isSelf chip = true → 0 ≤ a → s.chipCtr i + a.toNat < (if s.isCredit i then 2 ^ 32 else 2 ^ 48) →
         ∃ t, exec (.signal q) s = .next t ∧ t.chipCtr i = s.chipCtr i + a.toNat ∧ (∀ j, j ≠ i → t.chipCtr j = s.chipCtr j) ∧
           t.cmd = ((State.wakeBarriers { u with sync := t.sync } i).onFlight f.id Flight.finish).cmd ∧
           t = { s with sync := t.sync, cmd := t.cmd }) ∧
       (s.isSelf chip = true → a < 0 → s.isCredit i = true → a.natAbs ≤ w.chipCtr i →
         ∃ t, exec (.signal q) s = .next t ∧ t.chipCtr i = w.chipCtr i - a.natAbs ∧ (∀ j, j ≠ i → t.chipCtr j = s.chipCtr j) ∧
           t.cmd = (w.onFlight f.id Flight.finish).cmd ∧ t = { s with sync := t.sync, cmd := t.cmd }) ∧
       (∀ v tag, s.isSelf chip = false →
         u.request (.command f.id) 0x03 chip (signalAddr false i a) 0 (signalAux a) [] none = (v, some tag) →
         exec (.signal q) s = .next v)) ∧
  (∀ (q : Fin 64) (s : State) (f : Flight),
       let i := f.get 20 2
       let w := s.takeWaits i (if f.stage = .started then 64 else q.val)
       let u := w.onFlight f.id fun f => { f with stage := .running }
       ((s.cmd.flights.find? fun f => f.queue = q.val && f.opcode = 0x43 && f.stage != .ended) = some f →
         (f.get 24 8 ≤ w.chipCtr i →
           ∃ t, exec (.wait q) s = .next t ∧ t.chipCtr i = (if s.isCredit i then w.chipCtr i - f.get 24 8 else w.chipCtr i) ∧
             (∀ j, j ≠ i → t.chipCtr j = s.chipCtr j) ∧
             t.cmd = (u.onFlight f.id fun f => { f.finish with result := w.chipCtr i }).cmd ∧
             t = { s with sync := t.sync, cmd := t.cmd }) ∧
         (w.chipCtr i < f.get 24 8 → exec (.wait q) s = .next u)) ∧
       (s.flightAt q 0x43 .running = some f → f.get 32 4 ≠ 0 →
         exec (.cmdWaitTimeout q) s = .next (s.failCommand f.id eCmdWaitTimeout 0#32)) ∧
       (s.flightAt q 0x43 .running = some f → f.get 32 4 = 0 → exec (.cmdWaitTimeout q) s = .next s)) ∧
  (∀ (q : Fin 64) (s : State) (f : Flight),
       (s.flightAt q 0x44 .started = some f →
         (s.hintEn = false → exec (.hint q) s = .next (s.onFlight f.id Flight.finish)) ∧
         (s.hintEn = true → f.get 16 1 ≠ 0 → ∃ t, exec (.hint q) s = .next t ∧
           t.power.hint = some ⟨f.get 16 1, f.get 17 1, f.get 20 4, f.get 24 4, false⟩ ∧
           t.cmd = (s.onFlight f.id Flight.finish).cmd ∧ t = { s with power := t.power, cmd := t.cmd })) ∧
       ((s.cmd.flights.find? fun f => f.queue = q.val && recsOf f.opcode = 0 && f.stage == .started) = some f →
         exec (.cmdBadOpcode q) s = .next (s.failCommand f.id eCmdBadOpcode 0#32)))

/-- BARRIER (R123, R124) on a group whose innermost subgroup this chip does not tally: the local round rises by one and the arrival goes
to the tallying chip, where a route leads there; a command that only enters ends with the round as result, and one that waits goes on until the
release counter has reached the round. -/
def Obligations.BarrierEnters : Prop :=
  ∀ (q : Fin 64) (s : State) (f : Flight) (g h : Group), s.flightAt q 0x41 .started = some f → s.group? f.group = some g →
    s.isCredit g.ctr = false → s.broken g.entry = false → h = (s.chain g).getLastD g → h.position ≠ 0 →
    s.cmd.flights = [f] → s.arrivalWay g = true →
    let round := (s.bar (barKey g g)).localRound + 1
    ∃ t, exec (.barrier q) s = .next t ∧ t.bar (barKey g g) = { s.bar (barKey g g) with localRound := round } ∧
      (∀ k, k ≠ barKey g g → t.bar k = s.bar k) ∧
      (∃ frames, t.out = s.out ++ .arrival (s.headChip h 0) g.id h.id round h.position g.epoch :: frames) ∧
      ((f.get 16 1).testBit 0 = true → t.cmd.flights = [{ f.finish with round := round, result := round }]) ∧
      ((f.get 16 1).testBit 0 = false → s.chipCtr g.ctr < round →
        t.cmd.flights = [{ f with stage := .running, round := round }]) ∧ t.mem = s.mem ∧ t.sync.ctr = s.sync.ctr

/-- COMMAND_COMPLETE (R406, R408, R442) of a host command that has ended: its record goes out over the queue's QP when that is ready, else
it is kept, HP_CPL_WRITE_FAIL is reported once and the queue is blocked; CPL_INDEX advances; the command leaves; a class 1 code stops the
queue.
A fanned-out command's completion (R32) ends its branch, and its code joins the command's record in position order; a class 1 code
also ends the command on the whole group (R31). Of a MATCH that still looks for its longest common length (R263) it brings a member's
length. A tag that no command waits for changes nothing. A soft reset refuses it (R461; the form is the model's: log entry 130). -/
def Obligations.CompletionRecords : Prop :=
  (∀ (q : Fin 64) (s : State) (f : Flight) (slot n : Nat), s.cmd.flights.find? (s.reportable q) = some f →
       f.origin = .ring slot n →
       let qp := s.cqQp q
       let i := s.cplIndex q
       let addr := s.stg2 (cqPage q + 0x10) + 32 * (i % s.cplEntries q)
       let imm := if s.cqImm q then some (q.val + i * 2 ^ 8) else none
       let bytes := s.recordBytes f i
       ((s.queue q).blocked = false → (s.qp qp).state = 1 →
         ∃ t, exec (.commandComplete q) s = .next t ∧
           t.out = s.out ++ [.record s.hop qp (s.qp qp).sqPsn addr (s.stg (cqPage q + 0x18)) bytes imm] ∧
           t.cmd.flights = s.cmd.flights.filter (fun g => g.id ≠ f.id) ∧ t.cplIndex q = (i + 1) % 2 ^ 24 ∧
           (t.qp qp).sqPsn = ((s.qp qp).sqPsn + 1) % 2 ^ 24 ∧ bytes.length = 32 ∧
           (t.queue q).stopped = ((s.queue q).stopped || decide (errClass f.error = 1)) ∧ t.mem = s.mem ∧ t.cores = s.cores) ∧
       ((s.queue q).blocked = true →
         ∃ t, exec (.commandComplete q) s = .next t ∧ t.out = s.out ∧ t.cplIndex q = (i + 1) % 2 ^ 24 ∧
           (t.queue q).kept = (s.queue q).kept ++ [(addr, bytes, imm)] ∧ (t.queue q).blocked = true ∧
           t.cmd.flights = s.cmd.flights.filter (fun g => g.id ≠ f.id)) ∧
       ((s.queue q).blocked = false → (s.qp qp).state ≠ 1 →
         let u := (s.setCount (cqPage q + 0x24) ((i + 1) % 2 ^ 24)).advisory eHpCplWriteFail (q * 2 ^ 16 + qp * 2 ^ 22) none
         ∃ t, exec (.commandComplete q) s = .next t ∧ t.cplIndex q = (i + 1) % 2 ^ 24 ∧
           (t.queue q).kept = (s.queue q).kept ++ [(addr, bytes, imm)] ∧ (t.queue q).blocked = true ∧
           t.cmd.flights = s.cmd.flights.filter (fun g => g.id ≠ f.id) ∧ t.win = u.win ∧ t.out = u.out)) ∧
  (∀ (tag : Word) (r : MemberReport) (s : State),
       let takesLength (f : Flight) : Bool :=
         f.opcode == 0x14 && f.get 20 1 == 0 && f.stage != .ended && decide (f.round ≤ 1) && r.error == 0#16
       (s.linked = false ∨ s.sec.softReset = false ∧ s.branchOf tag.toNat = none → exec (.fanoutCompletion tag r) s = .next s) ∧
       (s.linked = true → s.sec.softReset = true →
         exec (.fanoutCompletion tag r) s = .next ((s.recordCode eSecResetting 0).logError eSecResetting 0 false 0#32)) ∧
       (∀ f b, s.linked = true → s.sec.softReset = false → s.branchOf tag.toNat = some (f, b) → takesLength f = false → errClass r.error.toNat = 1 →
         f.cut = false →
         exec (.fanoutCompletion tag r) s = .next ((((s.dropRequest b.tag).onFlight f.id fun g =>
           g.gather b r.error.toNat r.advisory.toNat r.unit r.detail).tellEnd f.group 0 f.tagWord.toNat f.queue r.error.toNat).endPart f.id
             r.error.toNat)) ∧
       (∀ f b, s.linked = true → s.sec.softReset = false → s.branchOf tag.toNat = some (f,
             b) → takesLength f = false → (errClass r.error.toNat ≠ 1 ∨ f.cut = true) →
         ∃ t, exec (.fanoutCompletion tag r) s = .next t ∧
           t.cmd.flights = (s.onFlight f.id fun g => g.gather b r.error.toNat r.advisory.toNat r.unit r.detail).cmd.flights ∧
           t.cmd.requests = s.cmd.requests.filter (fun x => x.tag != b.tag) ∧ t = { s with cmd := t.cmd }) ∧
       (∀ f b, s.linked = true → s.sec.softReset = false → s.branchOf tag.toNat = some (f, b) → takesLength f = true →
         exec (.fanoutCompletion tag r) s = .next (s.matchReport f tag.toNat r.result.toNat)) ∧
       (∀ (f : Flight) (p n : Nat), errRank n ≤ errRank f.error → errClass f.error ≠ 4 → errClass n ≠ 4 → f.errPos ≤ p →
         (f.failAt p n 0#32 0#32).error = f.error))

/-- RESTART, DROP and their notice (R405, R407) on a stopped queue that has kept no record: it runs again, and DROP has emptied it. Each is
carried to the members of the groups whose commands stopped the queue, and a notice to those that this chip passes it to, before which it reads
its member lists. On a queue that is neither stopped nor blocked they change nothing. -/
def Obligations.RestartAndDrop : Prop :=
  ∀ (q : Fin 64) (s : State),
    let k := s.queue q
    let hears (g : BitVec 20) : Prop := s.linked = true ∧ s.sec.softReset = false ∧ (s.group? g.toNat).bind s.listsUe = none
    let told (c w : Instr) (b : Bool) (v : State) : Prop :=
      let tag := q.val + if b then 64 else 0
      (c = w ∧ v = k.stopGroups.foldl (fun s g => s.toMembers g 0 3 tag []) s) ∨
        (∃ g lv, hears g ∧ c = .queueControlNotice q b g lv ∧ v = s.toMembers g.toNat lv 3 tag [])
    ((k.stopped || k.blocked) = false →
      exec (.restart q) s = .next s ∧ exec (.drop q) s = .next s ∧
      ∀ b g lv, hears g → exec (.queueControlNotice q b g lv) s = .next (s.toMembers g.toNat lv 3 (q + if b then 64 else 0) [])) ∧
    (k.stopped = true → k.kept = [] → (s.qp (s.cqQp q)).state = 1 →
      (∀ c v, told c (.restart q) false v →
        ∃ t, exec c s = .next t ∧ t.queue q = { k with stopped := false, blocked := false, stopGroups := [] } ∧
          (∀ j, j ≠ q.val → t.queue j = s.queue j) ∧ t = { v with cmd := { v.cmd with queues := t.cmd.queues } }) ∧
      (∀ c v, told c (.drop q) true v →
        ∃ t, exec c s = .next t ∧
          t.queue q = { k with arrivals := [], stopped := false, blocked := false, stopGroups := [] } ∧
          t.cqHead q = s.cqTail q % 2 ^ 24 ∧ (∀ j, j ≠ q.val → t.queue j = s.queue j) ∧
          t = { v with cmd := { v.cmd with queues := t.cmd.queues }, win := { v.win with counts := t.win.counts } }))

/-! ### Control-core operators: attention, the KV pool, prefixes, the almanac and the walk -/

/-- ATTN_PREFILL, ATTN_DECODE and CIRCULATE (R279, R295, R298, R397): a started command whose pool, length table and fields pass their checks
begins: its cores stand at the start of their streams, its merge is at work where it merges, and its circulation on every lace of its
mask where it circulates; what it fills in lies in the working stores. -/
def Obligations.AttentionOperatorsRun : Prop :=
  ∀ (q : Fin 64) (s u : State) (f : Flight) (p : Pool) (tab : List LenEntry) (c : Instr) (op : Nat) (m : Option MergeRun) (v : State),
    (c, op) ∈ [(Instr.attnPrefill q, 0x10), (Instr.attnDecode q, 0x11), (Instr.circulate q, 0x12)] →
    s.mem.wiping = false → s.flightAt q op .started = some f → s.flight? f.id = some f → f.cores ≠ [] →
    (∀ l ∈ f.laces, look noDead s.circ.dead l = none) → s.pool (f.get 48 4) f.id = (.ok p, u) → u.lenTab f = .ok tab →
    u.attnCode f p tab = none →
    ((merges f = false ∧ m = none ∧ v = u) ∨ (merges f = true ∧ ∃ held, u.heldUnits p tab = .ok held ∧
      m = some (mergeOf f tab (u.mergePlace f) held) ∧ u.mergeCheck f (mergeOf f tab (u.mergePlace f) held) = (none, v) ∧
      ∀ x ∈ s.circ.early, x.tag ≠ f.get 4 4)) →
    (circulates f = false →
      ∃ t, exec c s = .next t ∧ t.flight? f.id = some { f with stage := .running } ∧ v.streamsLoaded t f ∧
        t.circ = { s.circ with merges := s.circ.merges ++ m.toList } ∧ t.win = v.win ∧ t.out = s.out ∧
        t.mem = { s.mem with t0 := t.mem.t0 }) ∧
    (∀ e, circulates f = true → tab.head? = some e → (∀ r ∈ s.circ.runs, r.flight ≠ f.id) →
      let ls := coresIn (f.get 64 1)
      let x := s.lace (s.primary (ls.headD 0))
      2 ≤ x.members →
      ∃ (t : State) (r : CircRun), exec c s = .next t ∧ t.flight? f.id = some { f with stage := .running } ∧ v.streamsLoaded t f ∧
        t.circ.runs = s.circ.runs ++ [r] ∧ t.circ.merges = s.circ.merges ++ m.toList ∧
        (r.flight, r.tag, r.laces, r.size, r.pos) = (f.id, f.get 4 4, ls, x.members, x.pos) ∧
        (r.seq, r.klen, r.layer, r.stripe, r.pages, r.passes) =
          (e.seq, e.kvLen, f.get 52 2, f.get 66 2, f.get 65 1, f.get 68 2) ∧
        t.out = s.out ∧ t.mem = { s.mem with t0 := t.mem.t0 })

/-- The records of a batch (R241): each takes whole positions of one entry, no more than it holds. It gets Q_VALID, QPOS_BASE and KEY_END
and no other byte changes; a record beyond the batch gets Q_VALID 0. Which record takes which positions is the model's reading (log entry
80). -/
def Obligations.BatchRecords : Prop :=
  (∀ (cap : Nat → Nat) (rs : List Nat) (ds : List Demand) (u : RecordUse), u ∈ assign cap rs ds 0 →
    u.record ∈ rs ∧ u.count ≤ cap u.record ∧ (∀ e, u.entry = some e → u.first + u.count ≤ e.qCount) ∧ (u.entry = none → u.count = 0)) ∧
  (∀ (s : State) (n m q : Nat) (u : RecordUse), s.recordRows n u.record = some (m, q) →
    (u.entry = none → (s.fillRecord n u).ws n (u.record + 10) 2 = [0#8, 0#8]) ∧
    (∀ e, u.entry = some e →
      (s.fillRecord n u).ws n (u.record + 10) 2 = bytesOf 2 (u.count * q) ∧
      (s.fillRecord n u).ws n (u.record + 36) 4 = bytesOf 4 (e.kvLen - e.qCount + u.first) ∧
      (s.fillRecord n u).ws n (u.record + 44) 4 = bytesOf 4 e.kvLen) ∧
    (∀ a, (∀ o, o ∈ [10, 11, 36, 37, 38, 39, 44, 45, 46, 47] → a ≠ n * wsBytes + u.record + o) →
      (s.fillRecord n u).t0 a 1 = s.t0 a 1) ∧
    ∃ b, s.fillRecord n u = { s with mem := { s.mem with t0 := b } })

/-- KV_APPEND (R253): a started command runs its cores and stores its rows one after another; then LEN of its sequences follows, and it reports
that of the first. A row stands in its page where R246 places it. TRIM (R255) trims its sequences, each as one step, and reports the length
of the first. -/
def Obligations.KvAppendAndTrim : Prop :=
  (∀ (q : Fin 64) (s u v w : State) (f : Flight) (p : Pool) (tab : List LenEntry), s.mem.wiping = false →
    let f' : Flight := { f with stage := .running }
    (s.cmd.flights.find? fun f => f.queue = q.val && f.opcode = 0x13 && !(f.get 55 1).testBit 0 && f.stage != .ended) = some f →
    f.stage = .started → f.round = 0 → s.flight? f.id = some f → (s.runCores f).pool (f.get 48 4) f.id = (.ok p, u) →
    u.lenTab f = .ok tab → u.appendCode f p tab = none → u.storesRows p f' (u.appendRows f tab) v → v.appendLens p tab = .ok w →
    ∃ (t : State) (g : Flight), exec (.kvAppend q) s = .next t ∧ t.flight? f.id = some g ∧ g.result = w.firstLen p tab ∧
      g.error = f.error ∧ g.round = (u.appendRows f tab).length ∧ (f.cores = [] → g.stage = .ended) ∧ t.mem = w.mem) ∧
  (∀ (s : State) (p : Pool) layer group page row (bytes : List Byte), p.store.policy = 1 → row ≠ 255 →
    let at_ := p.store.t1Base + p.rowAt layer group page row
    (s.storeRow p layer group page row [(0, bytes)]).t1 at_ bytes.length = bytes ∧
    ∀ a, a < at_ ∨ at_ + bytes.length ≤ a → (s.storeRow p layer group page row [(0, bytes)]).t1 a 1 = s.t1 a 1) ∧
  (∀ (q : Fin 64) (s u v : State) (f : Flight) (p : Pool) (tab : List LenEntry), s.mem.wiping = false →
    (s.cmd.flights.find? fun f => f.queue = q.val && f.opcode = 0x13 && (f.get 55 1).testBit 0 && f.stage == .started) = some f →
    s.flight? f.id = some f → (s.runCores f).pool (f.get 48 4) f.id = (.ok p, u) → u.lenTab f = .ok tab →
    (tab.foldlM (fun x e => x.trimSeq p e.seq e.kvLen) u : Kv State) = .ok v →
    ∃ (t : State) (g : Flight), exec (.trim q) s = .next t ∧ t.flight? f.id = some g ∧ g.result = v.firstLen p tab ∧
      g.error = f.error ∧ (f.cores = [] → g.stage = .ended) ∧ t.mem = v.mem)

/-- INSERT, FORK, RELEASE and EVICT of PREFIX_LOOKUP (R262) are one atomic step each: the operation runs on the pool whose OPSEQ it has
raised, and the command ends with the operation's count; when the operation fails, nothing of it but the OPSEQ has happened.
MATCH of PREFIX_LOOKUP without a fan-out (R262, R263): the blocks found are attached to the empty sequence, and the command ends with
their number. -/
def Obligations.PrefixLookup : Prop :=
  (∀ (q : Fin 64) (s u : State) (f : Flight) (p : Pool) (c : Instr) (mode : Nat) (op : State → Pool → Flight → Kv (Nat × State)),
       ((c = .prefixInsert q ∧ mode = 1 ∧ op = State.prefixInsert) ∨ (c = .prefixFork q ∧ mode = 2 ∧ op = State.prefixFork) ∨
         (c = .prefixRelease q ∧ mode = 3 ∧ op = State.prefixRelease) ∨
         (c = .prefixEvict q ∧ mode = 4 ∧ op = fun s p f => s.evictNodes p (min (f.get 32 4) p.nodes) 0)) →
       s.mem.wiping = false → s.prefixFlight q mode = some f →
       (s.onFlight f.id fun f => { f with stage := .running }).prefixPool f = (.ok p, u) →
       (∀ n v, op u p f = .ok (n, v) → exec c s = .next (v.onFlight f.id fun f => { f.finish with result := n })) ∧
       (∀ e, op u p f = .error e → exec c s = .next (u.kvFail f.id e))) ∧
  (∀ (q : Fin 64) (s u v w z : State) (f g : Flight) (p p' : Pool) (r : Seq) (chain : List Nat),
       s.mem.wiping = false → s.prefixFlight q 0 = some f →
       (s.onFlight f.id fun f => { f with stage := .running }).prefixPool f = (.ok p, u) →
       u.emptySeq p (f.get 24 4) = .ok r → u.matchChain p f = .ok chain →
       v = (u.onFlight f.id fun f => { f with round := 1, scratch := [chain.length] ++ f.scratch }) → v.flight? f.id = some g →
       g.stage = .running → g.round = 1 → g.branches = [] → g.scratch = [chain.length] →
       ((∃ slot n, g.origin = .ring slot n) ∨ g.scope = false) →
       exec (.prefixMatch q) s = .next (v.matchAttach f.id chain.length) ∧
       (v.pool (g.get 16 4) f.id = (.ok p', w) → w.attachBlocks p' g chain.length = .ok z →
         exec (.prefixMatch q) s = .next (z.onFlight f.id fun f => { f.finish with round := 3, result := chain.length })))

/-- ALMANAC_SELECT (R271) without scope: a started command whose pages are no more than P counts its forced pages and runs its cores; once
they are done it writes every entry that is no hole to OUT, and once the best are known the forced entries and those, each time in list
order, and ends with their number. WALK_RUN (R251, R252) writes the blocks and the header of the next run of a core whose buffer is free,
signals the FETCH that waits for them, and notes that it has; for ALMANAC_SELECT the blocks bring summaries, and the walk fills the record of
the SCAN that scores them (R271; which bytes it fills is the model's choice: log entry 101). -/
def Obligations.AlmanacAndWalk : Prop :=
  ∀ (q : Fin 64) (s u : State) (f : Flight) (p : Pool), s.mem.wiping = false → s.flight? f.id = some f → f.halted = none →
    ((s.cmd.flights.find? fun f => f.queue = q.val && f.opcode = 0x15 && f.stage != .ended) = some f → ∀ a : Almanac,
      (f.stage = .started → f.round = 0 → f.scope = false → (s.runCores f).pool (f.get 48 4) f.id = (.ok p, u) → u.almanac f p = .ok a →
        (∀ x ∈ a.needs, u.absent p.store x.1 x.2 = [] ∧ u.objPoison p.store x.1 x.2 = none) → a.npages ≤ a.p → u.coresOf f.id ≠ [] →
        (∀ x ∈ s.coll.results, x.1 ≠ f.id) →
        ∃ t, exec (.almanacSelect q) s = .next t ∧ s.streamsLoaded t f ∧ t.mem = s.mem ∧ t.coll = s.coll ∧
          t.flight? f.id = some { f with stage := .running, round := 4, scratch := [natOf (bytesOf 8 (a.list.filter (a.forced u)).length)] }) ∧
      (∀ e v, f.stage = .running → s.pool (f.get 48 4) f.id = (.ok p, u) → u.almanac f p = .ok a →
        (∀ x ∈ a.needs, u.absent p.store x.1 x.2 = [] ∧ u.objPoison p.store x.1 x.2 = none) →
        (f.round = 4 ∧ s.coresOf f.id = [] ∨ f.round = 5) →
        let l := if f.round = 4 then a.list else a.list.filter fun x => a.forced u x || (f.scratch.drop 1).contains (x.base / 256)
        l.length ≤ f.get 76 4 → u.checkRange (f.get 72 4) (f.get 80 8) (f.get 80 8 + 16 * l.length) true (some f.id) = (.ok e, v) →
        e.policy = 1 →
        let at_ := e.t1Base + f.get 80 8
        ∃ t, exec (.almanacSelect q) s = .next t ∧ t.flight? f.id = some { f.finish with result := l.length } ∧
          t.t1 at_ (16 * l.length) = (l.map PageEntry.bytes).flatten ∧
          (∀ k, k < at_ ∨ at_ + 16 * l.length ≤ k → t.t1 k 1 = s.t1 k 1) ∧ t.mem.t0 = s.mem.t0)) ∧
    (∀ tab h n rs run w, (s.cmd.flights.find? fun f => f.queue = q.val && walks f && f.stage == .running) = some f →
      s.pool (f.get 48 4) f.id = (.ok p, u) → u.walkTab f = .ok tab → u.metaNat p 0 4 = .ok h → f.cores = [n] →
      u.walkPlan p f tab n 0 1 = .ok rs → rs[walked f 0]? = some run → (u.walkSlots f n)[walked f 0]? = some w →
      (u.bufferFree n (u.walkSlots f n) (walked f 0) && wsFits w.keys 64 && wsFits w.list 1024) = true →
      let k := waitCtr w.fetch
      (waitEn w.fetch = true → (s.core n).eng.flight ≠ none ∧ s.coreCtr n k + 1 < if 96 ≤ k then creditLimit else eventLimit) →
      let scan := f.opcode = 0x15
      let bs := (List.range 16).map fun j => (if scan then p.sumBlock else p.block) h (walkLayer f) w.keys run j run.entries[j]?
      let head := (bs.map fun b => bytesOf 4 b.1).flatten
      let list := (bs.map Prod.snd).flatten
      let record (o : Nat) (b : List Byte) (t : State) : Prop := t.ws n (w.record + o) b.length = b
      ∃ t, exec (.walkRun q) s = .next t ∧ t.flight? f.id = some (stepWalk 0 f) ∧
        (scan ∧ w.list < w.record + 46 ∧ w.record < w.list + 1024 ∨ t.ws n w.list 1024 = list) ∧
        (scan ∧ w.keys < w.record + 46 ∧ w.record < w.keys + 64 ∨ w.list < w.keys + 64 ∧ w.keys < w.list + 1024 ∨ t.ws n w.keys 64 = head) ∧
        (scan → record 10 [0#8] t ∧ record 14 [1#8] t ∧ record 20 (bytesOf 4 p.sumBytes ++ bytesOf 4 (max 1 run.entries.length)) t ∧
          record 36 (bytesOf 4 w.keys) t ∧ record 44 (bytesOf 2 (f.get 60 2)) t) ∧
        (∀ a, (∀ x, x ∈ [(w.keys, 64), (w.list, 1024)] ++ (if scan then [(w.record, 46)] else []) →
            a < n * wsBytes + x.1 ∨ n * wsBytes + x.1 + x.2 ≤ a) → t.t0 a 1 = s.t0 a 1) ∧
        (waitEn w.fetch = true → t.coreCtr n k = s.coreCtr n k + 1) ∧ t.mem = { s.mem with t0 := t.mem.t0 })

/-! ### Collectives and vector search -/

/-- ALLREDUCE, REDUCE_SCATTER, ALLGATHER and TOPK_MERGE (R306, R307, R321) enter their collective with the parameters of their record. On
a group that this chip does not know the command ends with `GROUP_EPOCH`, and where a level has no lace of its size with `COLL_SHAPE`. On a
group of chips whose laces nothing waits on, the collective is at work on the chip under its signature, COLL_SEQ of each lace counts it, and
the command runs. -/
def Obligations.CollectivesEnter : Prop :=
  ∀ (q : Fin 64) (s : State) (f : Flight) (c : Instr) (op : Nat),
    (c, op) ∈ [(Instr.allreduce q, 0x20), (Instr.reduceScatter q, 0x21), (Instr.allgather q, 0x22), (Instr.topkMerge q, 0x23)] →
    s.mem.wiping = false → s.flightAt q op .started = some f →
    let u := s.onFlight f.id fun f => { f with stage := .running }
    let x := collSpec f
    exec c s = .next (u.collEnter f.id x (f.get 40 8) (f.get 48 8)) ∧
    (s.group? f.group = none → exec c s = .next (u.failCommand f.id eGroupEpoch 0#32)) ∧
    (∀ g, s.group? f.group = some g → s.collLevels g (x.flags.testBit 2) = none →
      exec c s = .next (u.collRefuse f.id eCollShape g none)) ∧
    x.op = op ∧ x.count = f.get 24 8 ∧ x.chunk = f.get 32 4 ∧
    (∀ g v, s.group? f.group = some g → s.collLevels g (x.flags.testBit 2) = some [v] → 2 ≤ v.size →
      let r := s.newColl f.id x g [v]
      s.collCode r (f.get 40 8) (f.get 48 8) = none → s.flight? f.id = some f → s.collFlight? f.id = none → s.mem.poison = [] →
      (∀ l ∈ r.laces, s.earlyOf l = [] ∧ look (fun _ => none) s.coll.dead l = none ∧ look (fun _ => none) s.coll.flit l = none) →
      (op = 0x22 → x.consumers = 0 ∧ x.doneCc = 0xFFFF) →
      ∃ (t : State) (y : CollRun), exec c s = .next t ∧ t.flight? f.id = some { f with stage := .running } ∧
        t.collFlight? f.id = some y ∧ (y.spec, y.levels, y.sig, y.state) = (x, [v], r.sig, 0) ∧
        (∀ l, look noCount t.coll.seq l = look noCount s.coll.seq l + if l ∈ r.laces then 1 else 0) ∧
        (∀ l ∈ r.laces, look noCount t.coll.sig l = r.sig) ∧ t.cores = s.cores ∧ t.out = s.out ∧ (op ≠ 0x22 → t.mem = s.mem))

/-- QUERY (R336, R339) captures the active view and runs its cores; a snapshot that it names stands at once; its scan scores the captured
items one after another, those of the view and then the side items, into its lists (taken from the index itself: log entry 102); with its
lists merged it writes them to OUT and ends with the snapshot. PUBLISH (R341) applies the log in order, then moves SIDE_TAIL and PUBLISHED,
and ends with the new PUBLISHED; SWITCH (R344, R345) makes the other view active, writes its FOLD_SEQ and SIDE_HEAD and no other byte, and
marks the queries that captured an earlier one. -/
def Obligations.VectorSearchOperators : Prop :=
  ∀ (q : Fin 64) (s u : State) (f : Flight) (r : IndexRef), s.mem.wiping = false →
    let x := r.index
    let a := QueryArgs.of f
    ((s.cmd.flights.find? fun f => f.queue = q.val && f.opcode = 0x30 && f.get 52 1 ≠ 1 && f.get 52 1 ≠ 2 && f.stage != .ended) = some f →
      s.flight? f.id = some f → f.halted = none →
      (f.stage = .started → f.round = 0 → (s.runCores f).indexOf f = (.ok r, u) → queryShapeOk f x = true → (∀ y ∈ s.queries, y.flight ≠ f.id) →
        u.coresOf f.id ≠ [] → (x.view x.active).foldSeq ≤ a.snap → a.snap ≤ x.published → a.snap ≠ 2 ^ 64 - 1 →
        ∃ t, exec (.query q) s = .next t ∧
          t.flight? f.id = some { f with stage := .running, round := 2, scratch := [a.snap] } ∧ s.streamsLoaded t f ∧ t.mem = s.mem ∧
          t.queries = s.queries ++ [⟨f.id, r.obj.index, x.active, (x.view x.active).count, (x.view x.active).foldSeq,
            (x.view x.active).sideHead, x.published, x.sideTail, false⟩]) ∧
      (∀ y kk qs n i ls, (∀ k < n, ∀ p ∈ (s.queryItem r y (i + k)).places,
          s.absent p.1 p.2.1 p.2.2 = [] ∧ s.lostIn p.1 p.2.1 p.2.2 = false ∧ s.objPoison p.1 p.2.1 p.2.2 = none) →
        s.scanFrom f r y kk qs n i ls = (some ((List.range n).foldl (fun ls k => s.enterItem r kk qs (s.queryItem r y (i + k)) ls) ls), s)) ∧
      (∀ e v y, f.stage = .running → f.round = 6 → s.query? f.id = some y →
        s.entriesUe (y.index :: (s.indexAgain y).index.handles) = none → s.objPoison (s.indexAgain y).obj 0 indexBytes = none →
        let snap := f.scratch.headD 0
        let b := resultLists a snap (f.scratch.getD 1 0) (flightLists a f)
        s.checkRange (f.get 104 4) (f.get 112 8) (f.get 112 8 + listStride a.k * a.nq) true (some f.id) = (.ok e, v) → e.policy = 1 →
        let at_ := e.t1Base + f.get 112 8
        ∃ t, exec (.query q) s = .next t ∧ t.flight? f.id = some { f.finish with result := snap } ∧ t.t1 at_ b.length = b ∧
          (∀ k, k < at_ ∨ at_ + b.length ≤ k → t.t1 k 1 = s.t1 k 1) ∧ t.mem.t0 = s.mem.t0 ∧
          t.count (pageScan + 0x48) = min (s.count (pageScan + 0x48) + 1) 0xFFFFFFFF)) ∧
    (∀ v tail, s.scanFlight q 1 = some f → s.publishHeld (f.get 48 4) (f.get 64 4) = false →
      (s.onFlight f.id fun f => { f with stage := .running }).indexOf f = (.ok r, u) →
      let n := f.get 64 4
      let l := u.logEntries x r.side n
      1 ≤ n → n ≤ x.logCap → u.objPoison r.side x.logOff (n * x.logPitch) = none → (l.all fun e => decide (e.kind ≤ 1)) = true →
      u.publishCode r l (f.get 72 8) = none → u.applyLog f.id r l = (v, tail) →
      exec (.publish q) s = .next (((v.setObj r.obj 40 (bytesOf 8 tail)).setObj r.obj 24 (bytesOf 8 (f.get 72 8))).onFlight f.id
        fun f' => { f'.finish with result := f.get 72 8 })) ∧
    (s.scanFlight q 1 = some f → s.publishHeld (f.get 48 4) (f.get 64 4) = true → exec (.publish q) s = .next s) ∧
    (s.scanFlight q 2 = some f → (s.onFlight f.id fun f => { f with stage := .running }).indexOf f = (.ok r, u) →
      let v := f.get 64 1
      let n := f.get 72 8
      v = 1 - x.active → (x.view x.active).foldSeq ≤ n → n ≤ x.published → u.viewOk x { x.view v with sideHead := 0 } = true →
      ∃ t, exec (.switchView q) s = .next t ∧
        t.t1 (r.obj.t1Base + 10) 1 = [BitVec.ofNat 8 (x.flags % 2 + 2 * v)] ∧
        t.t1 (r.obj.t1Base + 64 + 64 * v + 16) 16 = bytesOf 8 n ++ bytesOf 8 (u.foldHead r n) ∧
        (∀ k, k ≠ r.obj.t1Base + 10 → (k < r.obj.t1Base + 64 + 64 * v + 16 ∨ r.obj.t1Base + 64 + 64 * v + 32 ≤ k) → t.t1 k 1 = s.t1 k 1) ∧
        t.mem.t0 = s.mem.t0 ∧
        t.queries = u.queries.map (fun y => if y.index = r.obj.index then { y with old := true } else y) ∧
        t.cmd.flights = (u.onFlight f.id fun f' => { f'.finish with result := n }).cmd.flights ∧ t.cores = u.cores)

/-! ### Barriers between chips, hand-setting and fences -/

/-- BARRIER_ARRIVAL (R31, R123, R124, R127), where no word of the group's member lists is poisoned: an arrival for a group that this chip does
not know, or under another EPOCH, is `GROUP_EPOCH`,
one for a broken entry is `BARRIER_BROKEN`, one for a round that is done or too far ahead is stale or ahead, and each of them breaks the
entry; an arrival that does not fill its tally is only counted.
BARRIER_RELEASE (R123, R127) of a round, on a chip that passes it to no one, adds one to the group's release counter and ends the barrier
commands whose round has come; of an error, it goes on down the tree (log entry 94) and breaks the entry here, unless it is that of a bad
member list (R523), which ends the barriers alone. BARRIER_TIMEOUT (R126) ends a barrier that
still waits while the timeout is not 0.
HAND_SET (R132, R133) puts the value into the selected counter while the debug permission stands, counts itself, gives its advisory to every
command in flight, records it, and has the waits evaluated again: a WAIT that the value reaches ends, and takes from a credit counter. Without
the permission it changes no counter and sets the block's denied bit. An index of 128 or more of a core and a value of a credit counter wrap
(log entries 91 and 90). CTL_FENCE (R120) waits for the remote writes that its control cores have posted, of which the table has no row (log
entry 17). -/
def Obligations.GroupBarriers : Prop :=
  (∀ (group sub : BitVec 20) (round : Nat) (epoch : Word) (pos : Nat) (s : State), s.linked = true → s.sec.softReset = false →
       (s.group? group.toNat).bind s.listsUe = none →
       let c := Instr.barrierArrival group sub round epoch pos
       (s.group? group.toNat = none → exec c s = .next (s.recordBarrier eGroupEpoch pos none)) ∧
       (∀ g, s.group? group.toNat = some g → s.group? sub.toNat = none → exec c s = .next (s.barrierError g eGroupEpoch pos)) ∧
       (∀ (g : Group) code, (s.barrierError g code pos).broken g.entry = true) ∧
       ∀ g h, s.group? group.toNat = some g → s.group? sub.toNat = some h →
         let b := s.bar (barKey g h)
         (g.epoch ≠ epoch → exec c s = .next (s.barrierError g eGroupEpoch pos)) ∧
         (g.epoch = epoch → s.broken g.entry = true → exec c s = .next (s.barrierError g eBarrierBroken g.position)) ∧
         (g.epoch = epoch → s.broken g.entry = false →
           (round ≤ b.done → exec c s = .next (s.barrierError g eBarrierStale pos)) ∧
           (b.done + 3 ≤ round → exec c s = .next (s.barrierError g eBarrierAhead pos)) ∧
           (round = b.done + 1 → b.tally1 + 1 ≠ h.members →
             ∃ t, exec c s = .next t ∧ t.bar (barKey g h) = { b with tally1 := b.tally1 + 1 } ∧
               (∀ k, k ≠ barKey g h → t.bar k = s.bar k) ∧ t = { s with sync := { s.sync with bars := t.sync.bars } }) ∧
           (round = b.done + 2 → b.tally1 ≠ h.members →
             ∃ t, exec c s = .next t ∧ t.bar (barKey g h) = { b with tally2 := b.tally2 + 1 } ∧
               (∀ k, k ≠ barKey g h → t.bar k = s.bar k) ∧ t = { s with sync := { s.sync with bars := t.sync.bars } }))) ∧
  ((∀ (group : BitVec 20) (round : Nat) (s : State) (g : Group), s.linked = true → s.sec.softReset = false → s.group? group.toNat = some g →
       s.listsUe g = none →
       (tallied (s.chain g) = [] → s.chipCtr g.ctr + 1 < (if s.isCredit g.ctr then 2 ^ 32 else 2 ^ 48) →
         ∃ t, exec (.barrierRelease group round none) s = .next t ∧ t.chipCtr g.ctr = s.chipCtr g.ctr + 1 ∧
           (∀ j, j ≠ g.ctr → t.chipCtr j = s.chipCtr j) ∧ t.sync.bars = s.sync.bars ∧ t.mem = s.mem ∧ t.out = s.out ∧
           t.cmd.flights.length = s.cmd.flights.length ∧
           (∀ f ∈ t.cmd.flights, f.opcode = 0x41 → f.stage = .running → t.releaseCtr f = some g.ctr → t.chipCtr g.ctr < f.round)) ∧
       (∀ e, exec (.barrierRelease group round (some e)) s = .next (s.barrierTold g e) ∧
         (e.code.toNat ≠ eGroupList → (s.barrierTold g e).broken g.entry = true))) ∧
     (∀ (q : Fin 64) (s : State) (f : Flight) (g : Group),
       (s.cmd.flights.find? fun f => f.queue = q.val && f.opcode = 0x41 && f.stage == .running) = some f → s.group? f.group = some g →
       ((s.stg (pageSync + 0x100)).toNat % 2 ^ 16 ≠ 0 →
         exec (.barrierTimeout q) s = .next (s.barrierError g eBarrierTimeout g.position)) ∧
       ((s.stg (pageSync + 0x100)).toNat % 2 ^ 16 = 0 → exec (.barrierTimeout q) s = .next s))) ∧
  (∀ (s : State) (w : Word),
       let sel := (s.reg (pageSync + 0x48)).toNat
       let i := sel % 2 ^ 12
       let n := sel / 2 ^ 12 % 8
       let v := (s.reg (pageSync + 0x60)).toNat + w.toNat % 2 ^ 16 * 2 ^ 32
       let noted (j : Nat) (t : State) : Prop :=
         t.win = ((s.bump (pageSync + 0x44)).advisory eSyncHandSet (j * 2 ^ 16) none).win ∧
         t.count (pageSync + 0x44) = min (s.count (pageSync + 0x44) + 1) 0xFFFFFFFF ∧ t.mem = s.mem ∧
         t.cmd.flights.map (fun f => (f.error, f.advisory)) =
           s.cmd.flights.map fun f => ((f.fail eSyncHandSet s.unit 0#32).error, (f.fail eSyncHandSet s.unit 0#32).advisory)
       (s.handSetEn = false → exec (.handSet w) s = .next (s.errBit pageSync 1)) ∧
       (s.handSetEn = true → sel / 2 ^ 15 % 2 = 0 →
         let v := if s.isCredit i then v % 2 ^ 32 else v
         ∃ t, exec (.handSet w) s = .next t ∧ noted i t ∧ (∀ j, j ≠ i → t.chipCtr j = s.chipCtr j) ∧ t.cores = s.cores ∧
           (∀ f ∈ t.cmd.flights, f.opcode = 0x41 → f.stage = .running → t.releaseCtr f = some i → t.chipCtr i < f.round) ∧
           (s.isCredit i = false ∨ (∀ f ∈ s.cmd.flights, f.opcode = 0x43 → f.stage = .running → f.get 20 2 ≠ i) → t.chipCtr i = v) ∧
           (∀ f, s.cmd.flights = [f] → f.queue < 64 → f.opcode = 0x43 → f.stage = .running → f.get 20 2 = i → s.chipCtr i < f.get 24 8 →
             (v < f.get 24 8 → t.chipCtr i = v ∧ t.cmd.flights = [f.fail eSyncHandSet s.unit 0#32]) ∧
             (f.get 24 8 ≤ v → t.chipCtr i = (if s.isCredit i then v - f.get 24 8 else v) ∧
               t.cmd.flights = [{ (f.fail eSyncHandSet s.unit 0#32).finish with result := v }]))) ∧
       (s.handSetEn = true → sel / 2 ^ 15 % 2 = 1 →
         let j := i % 128
         ∃ t, exec (.handSet w) s = .next t ∧ noted j t ∧ t.coreCtr n j = (if 96 ≤ j then v % 2 ^ 32 else v) ∧
           (∀ m k, (m, k) ≠ (n, j) → t.coreCtr m k = s.coreCtr m k) ∧ t.sync.ctr = s.sync.ctr) ∧
       (∃ t, exec (.ctlFence w) s = .next t ∧
         (∀ c, c < 4 → look noTags t.sync.fences c = if w.getLsbD c then look noTags s.sync.posted c else look noTags s.sync.fences c) ∧
         t = { s with sync := { s.sync with fences := t.sync.fences } }))

/-! ### Containment -/

/-- DEVICE_DISCARD (R102, R441, R443): a class 2 event while no discard runs starts one: every command in flight ends with the discard's code
to come, dropped until the discard is over, every core stops dispatching, and DISCARD_STAT shows BUSY with the event's code. A core with
transfers of its own in flight stops, and reports its parity error once they have finished.
DISCARD_COMPLETE (R443, R450): once every transfer of the discarded commands has been answered, no core runs a command, the discard is
counted and over, and DISCARD_STAT keeps its code without BUSY. Before, and on a chip that a fatal error has stopped, nothing changes. The
discard of a soft reset (R458) goes on to its wipe, in which T0 is empty and T1 is wiped until T1_WIPE_END. -/
def Obligations.DeviceDiscard : Prop :=
  (∀ (ev : DiscardCause) (code : Nat) (s : State), s.fatal = false → s.disc.busy = false →
       (((ev = .syncParity ∧ code = eSyncParity) ∨ (∃ p : Fin 18, ev = .linkParity p ∧ code = eLink p 8) ∨
         (∃ c : Fin 8, (s.core c).eng.drained = true ∧ (ev = .coreParity c ∧ code = eCore c 7 ∨ ev = .sfuParity c ∧ code = eSfu c 5)) ∨
         (∃ w, ev = .t1Ue w ∧ code = eT1Ue ∧ s.mem.wiping = false)) →
       ∃ t, exec (.deviceDiscard ev) s = .next t ∧ t.disc.busy = true ∧ t.disc.code = code ∧
         (∀ f ∈ t.cmd.flights, f.stage = .ended) ∧ t.cmd.flights.length = s.cmd.flights.length ∧
         (∀ n, n < 8 → (t.core n).eng.dispStop = true ∧ (t.core n).eng.queues = []) ∧
         t.reg 0x208 = BitVec.ofNat 32 (1 + code * 2 ^ 16) ∧ t.fatal = false ∧ t.mem.t1 = s.mem.t1) ∧
       (∀ c : Fin 8, (s.core c).eng.drained = false → (ev = .coreParity c ∧ code = eCore c 7 ∨ ev = .sfuParity c ∧ code = eSfu c 5) →
         ∃ (t : State) (x : CoreFault), exec (.deviceDiscard ev) s = .next t ∧ t.disc = s.disc ∧ (t.core c).eng.failed = some x ∧ x.code = code ∧
           (t.core c).eng.dispStop = true ∧ (t.core c).eng.queues = [] ∧ t.mem.t1 = s.mem.t1 ∧ t.cmd = s.cmd)) ∧
  (∀ s : State,
       (s.disc.busy = true → s.discardDrained = true → s.fatal = false →
         ∃ t, exec .discardComplete s = .next t ∧
           (s.sec.softReset = false → t.disc = Discard.reset ∧ (∀ n, n < 8 → (t.core n).eng.flight = none) ∧
             t.reg 0x208 = BitVec.ofNat 32 (s.disc.code * 2 ^ 16) ∧ (∀ f ∈ t.cmd.flights, f.dropped = false) ∧
             t.count 0x20C = min (s.count 0x20C + 1) 0xFFFFFFFF ∧ t.mem = s.mem) ∧
           (s.sec.softReset = true → s.sec.softWiped = false →
             t.sec.softWiped = true ∧ t.mem.t0 = [] ∧ t.mem.t1 = [] ∧ t.mem.wiping = true)) ∧
       ((s.disc.busy = false ∨ s.discardDrained = false ∨ s.fatal = true) → exec .discardComplete s = .next s))

/-- DISCARD_NOTICE (R444) of a group that this chip is in starts a discard here, with the notice's code, and none of its own for that group. A
FATAL_NOTICE (R445) of a chip that no group with work in flight lists changes nothing; of one that a group of such a command's chain lists,
it is the class 2 event GROUP_MEMBER_FATAL. A poisoned member list is T1_UE (R190). A chip that nothing can have reached (R16) takes neither,
and one in a soft reset refuses both (R461; the refusal's form is the model's: log entry 130).
FATAL_ERROR (R445): the chip stops, FATAL_CODE holds the code, every command in flight ends, and each port that is UP carries a
notice; no memory changes. One that stops the boot leaves STAGE 15 (R469). A firmware fault or a trip after the first is logged, and nothing
else. -/
def Obligations.NoticesAndFatal : Prop :=
  ((∀ (group : BitVec 20) (level : Nat) (code : BitVec 16) (s : State),
       (∀ g, s.linked = true → s.sec.softReset = false → s.disc.busy = false → s.group? group.toNat = some g →
         ∃ t, exec (.discardNotice group level code) s = .next t ∧ t.disc.busy = true ∧
           t.disc.code = (if s.listsUe g = none then code.toNat else eT1Ue) ∧
           t.disc.noticed = [group.toNat] ∧ (∀ f ∈ t.cmd.flights, f.stage = .ended) ∧ t.mem.t1 = s.mem.t1) ∧
       (s.linked = true → s.sec.softReset = false → s.group? group.toNat = none → exec (.discardNotice group level code) s = .next s) ∧
       (s.linked = true → s.sec.softReset = true → exec (.discardNotice group level code) s =
         .next ((s.recordCode eSecResetting 0).logError eSecResetting 0 false 0#32)) ∧
       (s.linked = false → exec (.discardNotice group level code) s = .next s)) ∧
     (∀ (chip : BitVec 20) (s : State),
       (s.linked = false → exec (.fatalNotice chip) s = .next s) ∧
       (s.linked = true → s.sec.softReset = true → exec (.fatalNotice chip) s =
         .next ((s.recordCode eSecResetting 0).logError eSecResetting 0 false 0#32)) ∧
       (s.linked = true → s.sec.softReset = false →
         (∀ f ∈ s.cmd.flights, f.scope = true → ∀ g, s.group? f.group = some g → s.listsUe g = none) →
         ((∀ f ∈ s.cmd.flights, f.scope = true → ∀ g, s.group? f.group = some g → ∀ h ∈ s.chain g, ∀ i, i < h.members →
             s.member h i ≠ chip.toNat) → exec (.fatalNotice chip) s = .next s) ∧
         (∀ f g h i, f ∈ s.cmd.flights → f.scope = true → s.group? f.group = some g → h ∈ s.chain g → i < h.members →
           s.member h i = chip.toNat → exec (.fatalNotice chip) s = .next (s.class2 eGroupMemberFatal 0 none))))) ∧
  (∀ (ev : FatalCause) (s : State), s.fatal = false →
       ∃ t, exec (.fatalError ev) s = .next t ∧ t.fatal = true ∧ t.reg 0x210 = BitVec.ofNat 32 (FatalCause.code ev + 2 ^ 16) ∧
         (∀ f ∈ t.cmd.flights, f.stage = .ended) ∧
         (∀ p, p < 18 → s.portState p = 2 → .fan s.chipId 5 p (bytesOf 2 (FatalCause.code ev)) ∈ t.out) ∧
         t.mem = s.mem ∧ t.cores = s.cores ∧ t.sync = s.sync ∧
         t.sec.stage = (if ev ∈ [.voltageTable, .bootFail, .otpBad] then 15 else s.sec.stage) ∧
         (∀ u : State, u.fatal = true → ev = .firmware ∨ ev = .thermtrip →
           exec (.fatalError ev) u = .next (u.logError (FatalCause.code ev) 0 false 0#32)))

/-! ### Messages -/

/-- A command whose data does not have the length that its header gives, or whose error-correction report no decoder could give, does not
exist: it faults, and no other command does (that fault is the model's choice: log entry 6).
Every well-formed command answers a next state, but a private debug instruction under a permission that the spec gives no effect
(R483: the one refusal of the model, and its choice: log entry 7). -/
def Obligations.WhereTheModelStops : Prop :=
  (∀ (i : Instr) (s : State), exec i s = .fault .illFormed ↔ i.wf = false) ∧
  (∀ (i : Instr) (s : State), i.wf = true →
       (Goes (exec i s) ↔ ¬ ∃ code, i = .tapInstruction (.privateDebug code) ∧ s.debugPerm 2 = true))

/-- MSG_WRITE and MSG_AWL (R11, R214, R357): a write of another chip to T1 or T0 that passes the destination's checks lands, byte for
byte, and is acknowledged; one that fails a check is refused with its code and changes no memory. While a soft reset runs, every one is
refused with `SEC_RESETTING` (R461); while a wipe runs, one to T1 waits for its end (R191).
MSG_READ (R357) of T1 brings back the bytes that stand there, and counts them, with REFS of a placement entry as the streams in flight at
that moment (R192); of a poisoned word it is refused with `T1_UE` (R190). While a soft reset runs it is refused with `SEC_RESETTING` (R461).
MSG_SIGNAL (R117, R131): an increment for a chip counter is added and acknowledged; one for a core that runs no command is refused
with `SIG_IDLE_CORE` and changes no counter; in a soft reset one is refused with `SEC_RESETTING` (R461).
That the destination makes the checks again, and takes a message only from a port it hears, is the model's choice (log entry 38). -/
def Obligations.RemoteAccesses : Prop :=
  (∀ (m : Msg) (data : List Byte) (s : State) (c : Instr),
       (c = .msgWrite m data ∧ m.len ≤ 4096 ∨ c = .msgAwl m data ∧ m.len ≤ 256) → data.length = m.len → s.forMe m = true →
       let d := Dev.of m.addr.toNat
       (s.sec.softReset = true → exec c s = .next (s.refuseMsg m eSecResetting)) ∧
       (s.sec.softReset = false → s.mem.wiping = true → d.tier = 1 → exec c s = .next (s.holdAccess c)) ∧
       (s.sec.softReset = false → s.mem.wiping = false →
       (s.remoteCode d data.length true = none →
         (d.tier = 1 → exec c s = .next ((s.setT1 d.off data).answer m 0x81 0 [])) ∧
         (d.tier = 0 → exec c s = .next ((s.setT0 d.off data).answer m 0x81 0 []))) ∧
       (∀ code, s.remoteCode d data.length true = some code →
         ∃ t, exec c s = .next t ∧ t = s.refuseMsg m code ∧ t.mem = s.mem ∧ t.cores = s.cores)) ∧
       ((s.setT1 d.off data).t1 d.off data.length = data ∧
         ∀ k, k < d.off ∨ d.off + data.length ≤ k → (s.setT1 d.off data).t1 k 1 = s.t1 k 1) ∧
       (∀ (u : State) ty n b, (u.answer m ty n b).mem = u.mem ∧ (u.answer m ty n b).cores = u.cores)) ∧
  (∀ (m : Msg) (s : State), m.len ≤ 4096 → s.forMe m = true →
       let d := Dev.of m.addr.toNat
       (s.sec.softReset = true → exec (.msgRead m) s = .next (s.refuseMsg m eSecResetting)) ∧
       (s.sec.softReset = false → s.mem.wiping = true → d.tier = 1 → exec (.msgRead m) s = .next (s.holdAccess (.msgRead m))) ∧
       (s.sec.softReset = false → s.mem.wiping = false → d.tier = 1 →
         (∀ code, s.remoteCode d m.len false = some code → exec (.msgRead m) s = .next (s.refuseMsg m code)) ∧
         (s.remoteCode d m.len false = none →
           (s.poisonIn d.off m.len = none →
             exec (.msgRead m) s = .next ((s.bump64 (pageMem + 0xD0) m.len).answer m 0x82 m.len (s.t1Seen d.off m.len))) ∧
           (∀ w, s.poisonIn d.off m.len = some w → exec (.msgRead m) s = .next ((s.reportUe w none).refuseTo m.src.toNat m.tag eT1Ue)))) ∧
       ((d.off + m.len ≤ s.ptBase ∨ s.ptBase + 0x400000 ≤ d.off) → s.t1Seen d.off m.len = s.t1 d.off m.len)) ∧
  (∀ (m : Msg) (s : State), s.forMe m = true →
       (s.sec.softReset = true → exec (.msgSignal m) s = .next (s.refuseMsg m eSecResetting)) ∧
       (s.sec.softReset = false →
       let a := m.addr.toNat
       let i := a / 2 ^ 21 % 2 ^ 12
       let n := signalAmount a m.aux.toNat
       (a / 2 ^ 20 % 2 = 0 → 0 ≤ n → s.chipCtr i + n.toNat < (if s.isCredit i then 2 ^ 32 else 2 ^ 48) →
         ∃ (u t : State), exec (.msgSignal m) s = .next t ∧ t = u.answer m 0x81 0 [] ∧ u.chipCtr i = s.chipCtr i + n.toNat ∧
           (∀ j, j ≠ i → u.chipCtr j = s.chipCtr j) ∧
              u = { s with sync := u.sync, cmd := { s.cmd with flights := u.cmd.flights }, free := s.free + 1 } ∧ u.sync.bars = s.sync.bars ∧
           u.cmd.flights.length = s.cmd.flights.length) ∧
       (a / 2 ^ 20 % 2 = 1 → 0 ≤ n → (s.core (sigCore i)).eng.flight = none →
         ∃ t, exec (.msgSignal m) s = .next t ∧ t.cores = s.cores ∧ t.sync = s.sync ∧ t.mem = s.mem ∧
           t = (State.ctrErr { s with free := s.free + 1 } eSigIdleCore (sigCounter i)).refuseTo m.src.toNat m.tag eSigIdleCore)))

/-- MSG_FANOUT (R30, R263, R403, R404, R441): a fanned-out command whose group, EPOCH, level and queue are right joins the queue that it
names; one that fails a check is refused with its code, and one whose group's lists hold a poisoned word with `T1_UE` (R190). Twelve bytes
bring the length that a waiting MATCH's sender decides; ten are the notice that a command has ended with class 1 on the group, and the queue
of the member stops (the model's form of these two: log entries 93 and 40). In a soft reset all are refused (R461). -/
def Obligations.FanoutJoinsQueue : Prop :=
  ∀ (m : Msg) (f : FanHdr) (data : List Byte) (s : State), data.length = m.len → m.len ≤ 256 → s.forMe m = true →
    (s.sec.softReset = true → exec (.msgFanout m f data) s = .next (s.refuseMsg m eSecResetting)) ∧
    (s.sec.softReset = false →
    let q := m.aux.toNat % 64
    let joins := data.length ≠ 12 ∧ data.length ≠ 10
    let ue := (s.group? f.group.toNat).bind s.listsUe
    (joins → ue = none → s.fanCode f q = none →
      ∃ t, exec (.msgFanout m f data) s = .next t ∧
        t.queue q = { s.queue q with
          arrivals := (s.queue q).arrivals ++ [Arrival.fan m.src.toNat m.tag.toNat f.level data] } ∧
        (∀ k, k ≠ q → t.queue k = s.queue k) ∧ t = { s with cmd := { s.cmd with queues := t.cmd.queues } }) ∧
    (∀ code, joins → ue = none → s.fanCode f q = some code → exec (.msgFanout m f data) s = .next (s.refuseMsg m code)) ∧
    (∀ w, joins → ue = some w → exec (.msgFanout m f data) s = .next ((s.reportUe w none).refuseTo m.src.toNat m.tag eT1Ue)) ∧
    (data.length = 12 →
      (∀ g, s.matchWaits m (field data 4 4) = some g → exec (.msgFanout m f data) s = .next (s.matchAttach g.id (field data 8 4))) ∧
      (s.matchWaits m (field data 4 4) = none → exec (.msgFanout m f data) s = .next s)) ∧
    (data.length = 10 → ue = none → ∃ t, exec (.msgFanout m f data) s = .next t ∧ t = s.takeEnd m f (field data 4 4) (field data 8 2) ∧
      ((∀ x ∈ s.cmd.flights, x.named q (field data 4 4) = false) → (t.queue q).stopped = true ∧ t.mem = s.mem ∧ t.cores = s.cores)) ∧
    (s.group? f.group.toNat = none → s.fanCode f q = some eGroupEpoch))

/-- MSG_ACK, MSG_READ_DATA and MSG_REFUSE (R11, R112, R357, R522) end the request of their tag: an acknowledgement ends a SIGNAL command; the
read data of a block land in the working store with the block's last piece, and not before; a refusal, which may come from a chip on the way,
reaches the request's owner with its code. It is the model's choice that a response of no request of this chip changes nothing (log entries 38
and 65), and its reading that read data wait for the last piece (log entry 96). -/
def Obligations.ResponsesEndRequests : Prop :=
  ∀ (m : Msg) (data : List Byte) (s : State), s.forMe m = true → data.length = m.len → m.len ≤ 4096 →
    (s.answered m = none → exec (.msgAck m) s = .next s ∧ exec (.msgReadData m data) s = .next s) ∧
    (s.request? m.tag.toNat = none → exec (.msgRefuse m) s = .next s) ∧
    (∀ r, s.request? m.tag.toNat = some r →
      exec (.msgRefuse m) s = .next (s.refused r (m.aux.toNat % 2 ^ 16) (BitVec.ofNat 32 m.src.toNat))) ∧
    (∀ r, s.answered m = some r →
      (∀ c n i, r.land = none → r.owner = .signal c i ∨ r.owner = .piece c n i →
        exec (.msgAck m) s = .next (s.released r) ∧ (s.released r).cmd.requests = s.cmd.requests.filter (fun x => x.tag != r.tag)) ∧
      (∀ id f, r.land = none → r.owner = .command id → s.flight? id = some f → f.opcode = 0x42 → f.stage = .running → f.branches = [] →
        exec (.msgAck m) s = .next ((s.released r).onFlight id Flight.finish)) ∧
      (∀ c n i pos, r.owner = .piece c n i → r.land = some pos → r.len = data.length →
        ∃ t, exec (.msgReadData m data) s = .next t ∧ t.cmd.requests = s.cmd.requests.filter (fun x => x.tag != r.tag) ∧
          t.mem = { s.mem with t0 := t.mem.t0 } ∧
          (∀ x y, (s.core c).eng.flyOf n = [x] → x.iid = i → x.open_ = [y] → y.tags = [r.tag] →
            t.mem = (s.landAll (y.land ++ [(pos, data)])).mem ∧
            (y.land = [] → t.t0 pos data.length = data ∧ ∀ k, k < pos ∨ pos + data.length ≤ k → t.t0 k 1 = s.t0 k 1)) ∧
          ((∀ x ∈ (s.core c).eng.flyOf n, ∀ y ∈ x.open_, r.tag ∈ y.tags → ∃ k ∈ y.tags, k ≠ r.tag) → t.mem = s.mem)))

/-- MESSAGE_FORWARD (R357, R370, R522): a message for another chip leaves on the port that the route table gives, one hop further; one
that has no way is discarded, and a request is refused to its source; so is one at 63 hops, which the port records and logs: it goes no
further, and nothing leaves but the refusal. -/
def Obligations.MessageForwards : Prop :=
  ∀ (ty : MsgType) (m : Msg) (h : Flit) (rest : List Flit) (s : State), s.heard m.port = true → m.dst.toNat ≠ s.chipId →
    (∀ p, m.hops < 63 → s.route m.src.toNat m.dst.toNat = some p →
      let fl := withHops h m.dst.toNat m.src.toNat (m.hops + 1) (rest.length + 1) ++ rest
      exec (.messageForward ty m (h :: rest)) s = .next (s.transmit p
        ⟨channelOf ty, typeCode ty, m.tag.toNat, m.src.toNat, if sameRing m.port p then 1 else 2, fl.length, fl, none⟩)) ∧
    (m.hops < 63 → s.route m.src.toNat m.dst.toNat = none →
      exec (.messageForward ty m (h :: rest)) s =
        .next (if isRequest ty then s.refuseTo m.src.toNat m.tag eAddrUnrouted else s)) ∧
    (63 ≤ m.hops → ∃ u : State, u = (s.recordCode (eLink m.port 7) 0).logError (eLink m.port 7) 0 false 0#32 ∧
      exec (.messageForward ty m (h :: rest)) s =
        .next (if isRequest ty then u.refuseTo m.src.toNat m.tag (eLink m.port 7) else u) ∧
      (u.reg (pageLink m.port + 0x10)).getLsbD 7 = true ∧ u.links = s.links ∧ u.out = s.out ∧ u.mem = s.mem ∧ u.cores = s.cores)

/-! ### Link ports -/

/-- FRAME_RECEIVE (R354, R355, R358, R375) on a trained port counts what its decoder has corrected and what it could not. On a port that is UP
a good data frame of the expected SEQ is taken, and the next SEQ is expected; a frame whose FEC or CRC fails is asked for again, and so is one
out of sequence. A HELD port takes no data (R369), and counts the frames that fail their CRC. A chip that a fatal error has stopped takes none
(R445). That a frame's flits free their buffer in the same step is the model's choice (log entry 62). -/
def Obligations.FrameReceiveChecks : Prop :=
  ∀ (p : Fin 18) (f : Frame) (fec : FecReport) (s : State), fecOk fec = true →
    let x := s.port p
    let c := Instr.frameReceive p f fec
    ((s.trained p = false ∨ s.fatal = true) → exec c s = .next s) ∧
    (s.fatal = false →
    (s.trained p = true → ∃ t, exec c s = .next t ∧
      t.count (pageLink p + 0x58) = min (s.count (pageLink p + 0x58) + fec.lanes.sum) (2 ^ 64 - 1) ∧
      t.count (pageLink p + 0x60) = min (s.count (pageLink p + 0x60) + fec.bad) 0xFFFFFFFF ∧ t.mem = s.mem ∧ t.cores = s.cores) ∧
    (s.portState p = 3 → exec c s = .next
      (if fec.bad = 0 ∧ frameCrc f ≠ f.crc then (s.countFec p fec).bump (pageLink p + 0x64) else s.countFec p fec)) ∧
    (s.portState p = 2 → fec.bad = 0 → frameCrc f = f.crc → f.ctrl = false → f.fill ≠ 0 → f.seq.toNat = x.rxSeq →
      ∃ t, exec c s = .next t ∧ (t.port p).rxSeq = (x.rxSeq + 1) % 256 ∧ (t.port p).nakOpen = false ∧
        look noCount (t.port p).freed f.vc.toNat = look noCount x.freed f.vc.toNat + f.fill ∧ (t.port p).changed = true ∧
        t.count (pageLink p + 0x78) = min (s.count (pageLink p + 0x78) + f.fill) (2 ^ 64 - 1) ∧
        (∀ q, q ≠ p.val → t.port q = s.port q) ∧
        t = { s with links := t.links, win := { s.win with counts := t.win.counts, regs := t.win.regs } }) ∧
    (s.portState p = 2 → fec.bad = 0 → frameCrc f ≠ f.crc →
      ∃ t, exec c s = .next t ∧ (t.port p).rxSeq = x.rxSeq ∧ (t.port p).nakOpen = true ∧
        t.count (pageLink p + 0x64) = min (s.count (pageLink p + 0x64) + 1) 0xFFFFFFFF ∧ (t.port p).freed = x.freed) ∧
    (s.portState p = 2 → fec.bad ≠ 0 →
      ∃ t, exec c s = .next t ∧ (t.port p).rxSeq = x.rxSeq ∧ (t.port p).nakOpen = true ∧ (t.port p).freed = x.freed) ∧
    (s.portState p = 2 → fec.bad = 0 → frameCrc f = f.crc → f.ctrl = false → f.fill ≠ 0 → f.seq.toNat ≠ x.rxSeq →
      ∃ t, exec c s = .next t ∧ (t.port p).rxSeq = x.rxSeq ∧ (t.port p).nakOpen = true ∧ (t.port p).freed = x.freed))

/-- FRAME_ACK and NAK (R358): the frames up to the acknowledged one leave the replay buffer; a NAK for the front of the buffer sends all
of it again, while every frame's replays are below RETRY_LIMIT, and counts the frames. LINK_CREDIT (R360) takes a running total above the one
held (log entry 62: the running totals are the model's form).
CONTROL_FRAME_SEND (R355, R359): a trained port with something new to tell, or with 32 frames sent since, sends its records in control
frames: the SEQ of the last frame taken, the SEQ asked for again, and the running total of credits of each VC among them; it has then nothing
new. IDENTITY_WORD (R361, R369) keeps the peer's serial, chip and port, or the state of its check. -/
def Obligations.PortRecords : Prop :=
  (∀ (p : Fin 18) (seq : Byte) (s : State), s.fatal = false →
       let x := s.port p
       (∀ gone rest, s.trained p = true → splitAfter seq.toNat x.replay = some (gone, rest) →
         exec (.frameAck p seq) s = .next ((s.framesAcked p gone rest).drainPort p) ∧ gone ++ rest = x.replay ∧
         ((∀ m ∈ x.msgs, m.vc ≠ 2) → s.framesAcked p gone rest = s.onPort p fun x => x.acknowledge gone rest)) ∧
       (∀ f r, s.portState p = 2 → x.replay = f :: r → f.seq = seq → splitAfter ((seq.toNat + 255) % 256) x.replay = none →
         (∀ g ∈ x.replay, look noCount x.tries g.seq.toNat < s.retryLimit p) →
         ∃ u : State, exec (.nak p seq) s = .next (u.drainPort p) ∧ u.out = s.out ++ [.replay p seq.toNat x.replay.length] ∧
           ((∀ g ∈ r, g.seq ≠ seq) → look noCount (u.port p).tries seq.toNat = look noCount x.tries seq.toNat + 1) ∧
           (u.port p).replay = x.replay ∧
           u.count (pageLink p + 0x68) = min (s.count (pageLink p + 0x68) + x.replay.length) 0xFFFFFFFF) ∧
       (∀ (vc : Fin 16) total, s.trained p = true →
         (look noCount x.granted vc < total → exec (.linkCredit p vc total) s =
           .next ((s.onPort p fun x => { x with granted := store noCount x.granted vc total }).drainPort p)) ∧
         (total ≤ look noCount x.granted vc → exec (.linkCredit p vc total) s = .next s))) ∧
  (∀ (p : Fin 18) (s : State), s.trained p = true → s.fatal = false →
       ((∃ r, s.ctlRecords p = ctlRecord 1 0 (((s.port p).rxSeq + 255) % 256) ++
           (if (s.port p).nakOpen then ctlRecord 2 0 (s.port p).rxSeq else []) ++ r) ∧
         ∀ vc, vc < 16 → ∃ a b, s.ctlRecords p =
           a ++ ctlRecord 3 vc (vcBuffer (s.portVer p) vc + look noCount (s.port p).freed vc) ++ b) ∧
       ((s.port p).changed = false → (s.port p).since < 32 → exec (.controlFrameSend p) s = .next s) ∧
       ((s.port p).changed = true ∨ 32 ≤ (s.port p).since → ∃ t, exec (.controlFrameSend p) s = .next t ∧
         t.out = s.out ++ (controlFrames (s.ctlRecords p)).map (Sent.frame p) ∧ (∀ f ∈ controlFrames (s.ctlRecords p), f.ctrl = true ∧
               f.crc = frameCrc f) ∧
         t.port p = { s.port p with changed := false, since := 0 } ∧ (∀ q, q ≠ p.val → t.port q = s.port q) ∧
         t = { s with links := t.links, out := t.out }) ∧
       (∀ w, exec (.identityWord p (.word w)) s = .next (s.setPeer p w).planCheck ∧
         (s.setPeer p w).seenPeer p = (w.serial.toNat, w.port.toNat) ∧
         ((s.setPeer p w).reg (pageLink p + 0x4C)).toNat % 2 ^ 20 = w.chip.toNat) ∧
       (∀ n, exec (.identityWord p (.state n)) s = .next ((s.onPort p fun x => { x with peerState := some n.val }).serve p)))

/-- LINK_LOSS (R363) of a trained port is counted, discards the work of the chip, and the port is no longer in service. LINK_TRAIN_FAIL
(R362) takes a port in training DOWN, with its advisory; LINK_TRAIN_RESTART starts the training of one that is DOWN and enabled.
LINK_TRAINED (R360, R362, R364) on a port in training at a version that both ends know: it holds the peer's identity, its version and
the full credits of that version, and its check follows; a half width that LINK_CFG does not allow is no training, and so, by the model's
choice, is a VER of 0, while a VER of 3 trains at VER_MAX (log entry 125).
RETRAIN (R373) of an enabled port starts its training, which its control bit shows; RESUME (R363) brings a HELD port whose check
passes, and whose peer reports the same, back UP. -/
def Obligations.LinkTraining : Prop :=
  (∀ (p : Fin 18) (s : State), s.fatal = false →
       (s.trained p = false → exec (.linkLoss p) s = .next s) ∧
       (s.trained p = true → p.val < 16 → (s.port p).msgs = [] → s.lacesOn p = [] → s.disc.busy = false →
         ∃ u : State, exec (.linkLoss p) s = .next u.planCheck ∧ u.disc.busy = true ∧ u.disc.code = eLink p 1 ∧ u.portState p = 1 ∧
           u.count (pageLink p + 0x6C) = min (s.count (pageLink p + 0x6C) + 1) 0xFFFFFFFF) ∧
       (s.portState p = 1 → ∃ t, exec (.linkTrainFail p) s = .next t ∧ t.portState p = 0 ∧
         (t.reg (pageLink p + 0x10)).getLsbD 5 = true ∧ t.mem = s.mem ∧ t.cores = s.cores) ∧
       (s.portState p = 0 → s.portEn p = true → s.sec.stage = 4 → ∃ t, exec (.linkTrainRestart p) s = .next t ∧ t.portState p = 1 ∧
         s.onlyRegs t [pageLink p + 0x40] ∧
         t.out = s.out ++ [.identity p ⟨Config.serial, BitVec.ofNat 20 s.chipId, BitVec.ofNat 5 p, BitVec.ofNat 2 (s.portVerMax p)⟩] ∧
         t = { s with win := { s.win with regs := t.win.regs }, out := t.out })) ∧
  (∀ (p : Fin 18) (peer : Identity) (w : Width) (s : State), s.portState p = 1 → s.fatal = false →
       let ver := min peer.ver.toNat (s.portVerMax p)
       (ver = 0 → exec (.linkTrained p w peer) s = .next s) ∧
       (w ≠ .full → s.portHalfOk p = false → exec (.linkTrained p w peer) s = .next s) ∧
       (1 ≤ ver → (w = .full ∨ s.portHalfOk p = true) → (p.val < 16 ∨ ver ≠ 1) →
         ∃ u : State, exec (.linkTrained p w peer) s = .next u.planCheck ∧ u.trained p = true ∧ u.seenPeer p = (peer.serial.toNat, peer.port.toNat) ∧
           u.portVer p = ver ∧ (∀ vc, vc < 16 → look noCount (u.port p).granted vc = vcBuffer ver vc) ∧
           (u.port p).replay = [] ∧ (u.port p).rxSeq = 0 ∧ (u.port p).txSeq = 0 ∧ u.mem = s.mem ∧ u.cores = s.cores)) ∧
  (∀ (p : Fin 18) (s : State), s.fatal = false →
       (s.portEn p = true → s.portState p ≠ 4 →
         ∃ u : State, exec (.retrain p) s = .next u.planCheck ∧ u.portState p = 1 ∧ (u.reg (pageLink p + 8)).getLsbD 0 = true ∧
           (u.port p).replay = [] ∧ u.mem = s.mem ∧ u.cores = s.cores) ∧
       ((s.portEn p = false ∨ s.portState p = 4) → exec (.retrain p) s = .next s) ∧
       (s.portState p ≠ 3 → exec (.resume p) s = .next s) ∧
       (s.portState p = 3 → s.planCheck.planned = true → (s.planCheck.reg (pageLink p + 0x50)).toNat % 8 = 0 →
         exec (.resume p) s = .next ((s.planCheck.onPort p fun x => { x with hold := false }).serve p) ∧
         ((s.port p).peerState = some 0 → ((s.planCheck.onPort p fun x => { x with hold := false }).serve p).portState p = 2)))

/-! ### Circulation, merge and the collective engine -/

/-- CIRC_BLOCK, BLOCK_LANDED, BLOCK_SEND, CIRC_ACK, CIRC_CREDIT, CIRC_ABORT and CIRC_TIMEOUT (R282, R284, R285, R287, R288, R293, R294) on a
lace: a checked block takes its slot and is the next of its lane; a bad CRC is `CIRC_BLOCK_CRC`; the oldest block in landing lands and is
acknowledged; a send takes a credit; an acknowledgement covers every block up to its own; a credit is added, eight at most; an abort ends
the circulation, or the next one on the lace. During a discard a block of an aborted lace is dropped (R443). The model's choices: a block
without a circulation only records its error, an early credit is kept under its tag, an acknowledgement is a running count (log entry 55);
a copy of an abort that this chip has sent is counted down, and an early abort is kept by lace (log entry 106).
CIRC_DONE (R286) releases, for its core, the slot of the oldest landed block that the core has not released; for another slot, or on a
lace and direction that the core does not consume, it stops the core with `CIRC_CREDIT` and releases nothing. -/
def Obligations.Circulation : Prop :=
  ((∀ (l : Fin 6) (d : Dir) (h : CircHdr) (payload : List Byte) (crc : Word) (s : State), h.payload.toNat = payload.length →
       s.disc.busy = true → l.val ∈ s.disc.circLaces → exec (.circBlock l d h payload crc) s = .next s) ∧
     ∀ (l : Fin 6) (d : Dir) (s : State), s.disc.busy = false → s.fatal = false → s.mem.wiping = false →
       let abortHeard := s.hearsControl (s.laceOut l .next) = true ∨ s.hearsControl (s.laceOut l .prev) = true
       (∀ h payload crc, h.payload.toNat = payload.length → s.heard (s.laceIn l d) = true → s.circRun? l = none →
         exec (.circBlock l d h payload crc) s = .next (s.circFail none eCircSeq l d.idx h.origin.toNat h.seqno.toNat)) ∧
       (∀ tag : Word, s.hearsControl (s.laceOut l d) = true → s.circRun? l = none →
         ∃ t, exec (.circCredit l d tag) s = .next t ∧
           look noCredits t.circ.credits (laneKey l d.idx) = look noCredits s.circ.credits (laneKey l d.idx) ++ [tag.toNat] ∧
           t = { s with circ := { s.circ with credits := t.circ.credits } }) ∧
       (∀ (code : BitVec 16) (pos : BitVec 20), abortHeard →
         (look noCount s.circ.copies l ≠ 0 → ∃ t, exec (.circAbort l code pos) s = .next t ∧
           look noCount t.circ.copies l = look noCount s.circ.copies l - 1 ∧ t = { s with circ := { s.circ with copies := t.circ.copies } }) ∧
         (look noCount s.circ.copies l = 0 → s.circRun? l = none → (∀ f ∈ s.cmd.flights, l.val ∉ f.laces) →
           ∃ t, exec (.circAbort l code pos) s = .next t ∧ look noDead t.circ.dead l = some (code.toNat, pos.toNat) ∧
             t.reg (pageCirc + 0x48) = BitVec.ofNat 32 pos.toNat ∧ t.circ.runs = s.circ.runs ∧ t.mem = s.mem ∧ t.cmd = s.cmd)) ∧
       ((s.stg (pageCirc + 0x1C0)).toNat % 2 ^ 16 = 0 → exec (.circTimeout l d) s = .next s) ∧
       ∀ r : CircRun, s.circRun? l = some r →
       let x := r.lane l d.idx
       (∀ h payload crc, h.payload.toNat = payload.length → s.heard (s.laceIn l d) = true →
         (∀ code, s.blockCode r l d h = some code → exec (.circBlock l d h payload crc) s =
           .next (s.circFail (some r.flight) code l d.idx h.origin.toNat h.seqno.toNat)) ∧
         (s.blockCode r l d h = none → crc32c (circHdrBytes h ++ payload) = crc →
           ∃ (t : State) (q : CircRun), exec (.circBlock l d h payload crc) s = .next t ∧ t.circRun? l = some q ∧
             (q.lane l d.idx).rx = x.rx + 1 ∧
             (q.lane l d.idx).slots = x.slots ++ [⟨h.seqno.toNat, h, payload, false, 0, none, false⟩] ∧
             t = { s with circ := t.circ, mem := { s.mem with t0 := t.mem.t0 } }) ∧
         (s.blockCode r l d h = none → crc32c (circHdrBytes h ++ payload) ≠ crc → exec (.circBlock l d h payload crc) s =
           .next (s.circFail (some r.flight) eCircBlockCrc l d.idx h.origin.toNat h.seqno.toNat))) ∧
       (∀ (y : Landing) (k : Fin 8), x.slots.find? (fun z => !z.landed) = some y → (s.lace l).consumers d = 2 ^ k.val →
         (s.lace l).landCtr d < 96 → (s.core k).eng.flight ≠ none → s.coreCtr k ((s.lace l).landCtr d) + 1 < 2 ^ 48 →
         ∃ v : State, exec (.blockLanded l d) s = .next (v.tryFree r.flight l d) ∧
           v.coreCtr k ((s.lace l).landCtr d) = s.coreCtr k ((s.lace l).landCtr d) + 1 ∧
           v.count (pageCirc + 0x804 + 16 * laneKey l d.idx) = min (s.count (pageCirc + 0x804 + 16 * laneKey l d.idx) + 1) 0xFFFFFFFF ∧
           v.out = s.out ∧ (2 ≤ (s.lace l).members → look noNote (v.port (s.laceIn l d)).notes (16 * 6 + 2 * l + d.idx) =
             bytesOf 1 6 ++ bytesOf 1 (2 * l + d.idx) ++ slice (bytesOf 4 y.seqno) 0 6) ∧
           ∃ q, v.circRun? l = some q ∧ (q.lane l d.idx).slots = x.slots.map fun z => z.land y.seqno) ∧
       (∀ y, x.credits ≠ 0 → r.nextSend l d.idx = some (.forward y) →
         ∃ (t : State) (q : CircRun), exec (.blockSend l d) s = .next t ∧ t.circRun? l = some q ∧
           (q.lane l d.idx).credits = x.credits - 1 ∧ (q.lane l d.idx).tx = x.tx + 1 ∧
           (q.lane l d.idx).slots = x.slots.map (fun z => z.sentOn y.seqno x.tx) ∧ t.mem = s.mem ∧ t.cores = s.cores) ∧
       (∀ n f, x.credits ≠ 0 → r.nextSend l d.idx = some (.own n) → s.flight? r.flight = some f → f.halted = none →
         exec (.blockSend l d) s = .next (s.sendOwn r l d n)) ∧
       ((x.credits = 0 ∨ r.nextSend l d.idx = none) → exec (.blockSend l d) s = .next s) ∧
       (∀ n : Word, s.hearsControl (s.laceOut l d) = true →
         exec (.circAck l d n) s = .next ((s.onLane r.flight l d.idx fun y =>
         { y with
           unacked := y.unacked.filter fun k => decide (n.toNat < k)
           slots := y.slots.map fun z => z.acked n.toNat }).tryFree r.flight l d)) ∧
       (∀ tag : Word, s.hearsControl (s.laceOut l d) = true → tag.toNat = r.tag →
         ∃ (t : State) (q : CircRun), exec (.circCredit l d tag) s = .next t ∧ t.circRun? l = some q ∧
           (q.lane l d.idx).credits = min 8 (x.credits + 1) ∧ t = { s with circ := t.circ }) ∧
       (∀ (code : BitVec 16) (pos : BitVec 20), abortHeard → look noCount s.circ.copies l = 0 → ∃ u : State,
         exec (.circAbort l code pos) s = .next (u.endCommand r.flight code.toNat (BitVec.ofNat 32 pos.toNat)) ∧
         u.reg (pageCirc + 0x48) = BitVec.ofNat 32 pos.toNat ∧ u.circ.runs = s.circ.runs.filter (fun q => q.flight != r.flight) ∧
         u.mem = s.mem ∧ u.cores = s.cores ∧ u.cmd = s.cmd) ∧
       ((x.rx < r.total l d.idx ∨ (x.credits = 0 ∧ r.nextSend l d.idx ≠ none)) → (s.stg (pageCirc + 0x1C0)).toNat % 2 ^ 16 ≠ 0 →
         exec (.circTimeout l d) s = .next (s.circFail (some r.flight) eCircTimeout l d.idx r.pos x.rx))) ∧
  (∀ (c : Fin 8) (l : Fin 6) (d : Dir) (s : State) (w : BitVec 128) (pc : Nat) (r : CircRun), s.ready c 3 0x35 w pc →
       bitsOf w.toNat 2 0 = l → bitsOf w.toNat 3 3 = d.idx → s.circRun? l = some r →
       let u := s.take c 3 w pc
       let slot := bitsOf w.toNat 6 4
       let bad := u.failIssued c 3 eCircCredit pc (l * 2 ^ 16 + d.idx * 2 ^ 19)
       (((s.lace l).consumers d).testBit c = false → exec (.circDone c) s = .next bad) ∧
       (((s.lace l).consumers d).testBit c = true → (r.lane l d.idx).releasable c slot = none → exec (.circDone c) s = .next bad) ∧
       (∀ y, ((s.lace l).consumers d).testBit c = true →
         (r.lane l d.idx).slots.find? (fun z => z.landed && !z.released.testBit c) = some y → y.seqno % 8 = slot →
         ∃ (v : State) (q : CircRun), exec (.circDone c) s = .next (v.tryFree r.flight l d) ∧ v.circRun? l = some q ∧
           (q.lane l d.idx).slots = (r.lane l d.idx).slots.map (fun z => z.release y.seqno c) ∧ v = { u with circ := v.circ }))

/-- MERGE_START, MERGE_EXCHANGE, MERGE_END_MARKER and MERGE_COMPLETE (R298 to R302). A merge of one member folds its cores' partials in a
tree and is then ready to end; an invariant prefill folds its units. What arrives for a merge lands in area B and nowhere else. The finished
rows go to OUT and nowhere else, every core's counter is raised, and the next pass is awaited. The model's choices (log entry 57): what
arrives before the merge of its command is at work is kept; what the member is not meant to receive changes nothing; the places in area B; the
saturations of OUT are counted on the command's lowest core (R44). -/
def Obligations.MergeRuns : Prop :=
  ∀ (s : State) (r : MergeRun), s.disc.busy = false → s.fatal = false → s.mem.wiping = false →
    (∀ f, s.circ.merges.find? s.mergeReady = some r → s.merge? r.flight = some r → s.flight? r.flight = some f →
      s.poisonIn (s.areaA r 0 0) (r.entries * r.nq * r.pb) = none →
      ((r.invariant = false ∧ r.size = 1 ∧ r.pos = 0) ∨ (r.invariant = true ∧ r.prefill = true)) →
      ∃ (t : State) (q : MergeRun), exec .mergeStart s = .next t ∧ t.merge? r.flight = some q ∧ q.phase = 200 ∧ q.lo = 0 ∧ q.hi = r.nq ∧
        q.node = (List.range r.nq).map (fun i => (i, (if r.invariant then r.rootOf (fun u => s.partialOf r u i)
          else s.coreTree r f.cores i).bytes)) ∧
        t.mem = s.mem ∧ t.cores = s.cores ∧ t.out = s.out) ∧
    (∀ (tag : Word) k sender lo data, 
      let x : MergeIn := ⟨tag.toNat, some k, sender, 0, lo, data⟩
      let found := s.circ.merges.find? fun r => r.exchanges && r.tag == tag.toNat
      (s.linked = false → exec (.mergeExchange tag k sender lo data) s = .next s ∧ exec (.mergeEndMarker tag sender) s = .next s) ∧
      (s.linked = true → found = none →
        exec (.mergeExchange tag k sender lo data) s = .next { s with circ := { s.circ with early := s.circ.early ++ [x] } } ∧
        exec (.mergeEndMarker tag sender) s =
          .next { s with circ := { s.circ with early := s.circ.early ++ [⟨tag.toNat, none, sender, 0, 0, []⟩] } }) ∧
      (s.linked = true → found = some r →
        (r.expects x = false → exec (.mergeExchange tag k sender lo data) s = .next s) ∧
        (r.expects x = true → (∀ u y, k = .leaf u → y ∈ r.recv → y.kind ≠ some k) →
          ∃ t, exec (.mergeExchange tag k sender lo data) s = .next t ∧ t.t1 (s.landAt r x) data.length = data ∧
            ∀ a, a < s.landAt r x ∨ s.landAt r x + data.length ≤ a → t.t1 a 1 = s.t1 a 1) ∧
        (r.invariant = true → exec (.mergeEndMarker tag sender) s =
          .next ((s.onMerge r.flight fun r => { r with ends := r.ends ++ [sender] }).mergeGo mergeFuel r.flight)) ∧
        (r.invariant = false → exec (.mergeEndMarker tag sender) s = .next s))) ∧
    (∀ f, s.circ.merges.find? (fun r => r.phase == 200) = some r → s.merge? r.flight = some r → s.flight? r.flight = some f →
      f.halted = none →
      let e := s.entry (f.get 88 4 % 2 ^ 16)
      let at_ := e.t1Base + f.get 96 8 + r.lo * (r.dv * outElem (f.get 85 1))
      let out := (List.range (r.hi - r.lo)).map fun i => finishedRow (f.get 85 1) (r.part (r.lo + i))
      let rows := (out.map Prod.fst).flatten
      let c := f.get 84 1
      let lost := s.lostIn e (f.get 96 8 + r.lo * (r.dv * outElem (f.get 85 1))) ((r.hi - r.lo) * (r.dv * outElem (f.get 85 1)))
      (lost = true → exec .mergeComplete s = .next (s.failHandle f.id (f.get 88 4) eObjLost)) ∧
      (e.policy = 1 → lost = false →
      ∃ t, exec .mergeComplete s = .next t ∧ t.t1 at_ rows.length = rows ∧
        (∀ a, a < at_ ∨ at_ + rows.length ≤ a → t.t1 a 1 = s.t1 a 1) ∧
        (c < 96 → (∀ n ∈ f.cores, (s.core n).eng.flight ≠ none ∧ s.coreCtr n c + 1 < 2 ^ 48) → f.cores.Nodup →
          (∀ n ∈ f.cores, t.coreCtr n c = s.coreCtr n c + 1) ∧ t.mem.t0 = s.mem.t0 ∧
          (∀ k, f.cores.head? = some k → t.reg (pageCore k + 0x58) = (s.addSat k (out.map Prod.snd).sum).reg (pageCore k + 0x58)) ∧
          (r.pass + 1 < r.passes → ∃ q, t.merge? r.flight = some q ∧ q.pass = r.pass + 1 ∧ q.phase = 0) ∧
          (r.passes ≤ r.pass + 1 → t.merge? r.flight = none))))

/-- COLL_CHUNK, CHUNK_SEND, COLL_CREDIT, COLL_ABORT, CENSUS, CENSUS_WAIT_TIMEOUT and COLL_TIMEOUT (R310, R317, R318, R322 to R325). A chunk
for a lace without a collective waits in its buffer; one for an aborted collective is dropped, and so is one for a lace that a discard has
aborted (R443); a send takes a credit; a credit is added, eight at most; an abort marks the collective, or the next one on the lace, and is
passed on; a census flit names the first member whose signature differs, and one that names FIRST to a member that has not entered goes on and
is kept. The model's choices: a ninth chunk has no buffer (log entry 105); an early abort is kept by lace, and a copy of an abort that this
chip has sent is counted down (log entry 106). -/
def Obligations.CollectiveWire : Prop :=
  (∀ (l : Fin 6) (h : ChunkHdr) (payload : List Byte) (crc : Word) (s : State),
    s.disc.busy = true → l.val ∈ s.disc.collLaces → exec (.collChunk l h payload crc) s = .next s) ∧
  ∀ (l : Fin 6) (s : State), s.disc.busy = false → s.fatal = false →
    let abortHeard := s.hearsControl (s.laceOut l .next) = true ∨ s.hearsControl (s.laceOut l .prev) = true
    let bufs := look noCount s.coll.bufs l
    (∀ h payload crc, s.heard (s.laceIn l .next) = true →
      (8 ≤ bufs → exec (.collChunk l h payload crc) s = .next s) ∧
      (bufs < 8 → s.collRun? l = none → ∃ t, exec (.collChunk l h payload crc) s = .next t ∧
        t.earlyOf l = s.earlyOf l ++ [⟨h, payload, crc⟩] ∧ (∀ k, k ≠ l.val → t.earlyOf k = s.earlyOf k) ∧
        look noCount t.coll.bufs l = bufs + 1 ∧
        t.count (pageColl + 0xC4 + 8 * l) = min (s.count (pageColl + 0xC4 + 8 * l) + 1) 0xFFFFFFFF ∧
        t = { s with coll := { s.coll with early := t.coll.early, bufs := t.coll.bufs }, win := { s.win with counts := t.win.counts } }) ∧
      (∀ r, bufs < 8 → s.collRun? l = some r → s.collFlight? r.flight = some r →
        let u := s.takeBuffer l
        let r' : CollRun := { r with batch := r.batch + 1 }
        let v := u.onColl r.flight fun r => { r with batch := r.batch + 1 }
        (r.state ≠ 0 → exec (.collChunk l h payload crc) s = .next u) ∧
        (r.state = 0 → exec (.collChunk l h payload crc) s =
          .next ((State.collPump earlyFuel (v.offerChunk r' l ⟨h, payload, crc⟩) r.flight).collSettle r.flight)) ∧
        (crc32c (State.offerChunk.chunkBytes h ++ payload) ≠ crc →
          v.offerChunk r' l ⟨h, payload, crc⟩ = v.class2 eCollCrc (r.errMore l) (some r.flight)) ∧
        (crc32c (State.offerChunk.chunkBytes h ++ payload) = crc → h.epoch ≠ (s.lace l).epoch →
          v.offerChunk r' l ⟨h, payload, crc⟩ = v.collFail r.flight eCollEpoch l))) ∧
    (∀ r x, s.collRun? l = some r → r.state = 0 → s.collCredits l ≠ 0 → r.nextSend l = some x →
      ∃ u : State, exec (.chunkSend l) s = .next (u.collSettle r.flight) ∧ u.collCredits l = s.collCredits l - 1 ∧
        u.collRun? l = some { r with sends := r.sends.erase x } ∧
        u.count (pageColl + 0xC0 + 8 * l) = min (s.count (pageColl + 0xC0 + 8 * l) + 1) 0xFFFFFFFF ∧ u.mem = s.mem ∧ u.cores = s.cores) ∧
    (s.collCredits l = 0 → exec (.chunkSend l) s = .next s) ∧
    (s.hearsControl (s.laceOut l .next) = true → ∃ t, exec (.collCredit l) s = .next t ∧ t.collCredits l = min 8 (s.collCredits l + 1) ∧
      (∀ k, k ≠ l.val → t.collCredits k = s.collCredits k) ∧ t = { s with coll := { s.coll with credits := t.coll.credits } }) ∧
    (∀ a : CollAbort, abortHeard →
      (look noCount s.coll.copies l ≠ 0 → ∃ t, exec (.collAbort l a) s = .next t ∧
        look noCount t.coll.copies l = look noCount s.coll.copies l - 1 ∧ t = { s with coll := { s.coll with copies := t.coll.copies } }) ∧
      (look noCount s.coll.copies l = 0 → s.collRun? l = none → ∃ t, exec (.collAbort l a) s = .next t ∧
        look (fun _ => none) t.coll.dead l = some a ∧ t.earlyOf l = [] ∧ look noCount t.coll.bufs l = 0 ∧ t.mem = s.mem ∧ t.cmd = s.cmd)) ∧
    (∀ r, s.collRun? l = some r → r.state = 0 →
      (∀ (code : BitVec 16) (pos chip : BitVec 20), abortHeard → look noCount s.coll.copies l = 0 → ∃ u : State,
        exec (.collAbort l (.error code pos chip)) s = .next (u.endCommand r.flight code.toNat (BitVec.ofNat 32 pos.toNat)) ∧
        u.reg (pageColl + 0x48) = BitVec.ofNat 32 pos.toNat ∧ u.reg (pageColl + 0x4C) = BitVec.ofNat 32 chip.toNat ∧
        u.collRun? l = some { r with state := 1 } ∧ u.mem = s.mem ∧ u.cores = s.cores) ∧
      (∀ found det sig sender, abortHeard → look noCount s.coll.copies l = 0 → exec (.collAbort l (.mismatch found det sig sender)) s =
        .next (s.beginCensus r found det sig sender (some l.val))) ∧
      (look noCount r.owed l ≠ 0 → (s.stg (pageColl + 0x100)).toNat % 2 ^ 16 ≠ 0 →
        exec (.collTimeout l) s = .next (s.collFail r.flight eCollTimeout l)) ∧
      ((s.stg (pageColl + 0x100)).toNat % 2 ^ 16 = 0 → exec (.collTimeout l) s = .next s) ∧
      (∀ f : CensusFlit, s.hearsControl (s.laceIn l .next) = true → (s.lace l).pos ≠ 0 → f.closing = false →
        exec (.census l f) s = .next (s.sendCensus l (if f.first.isNone ∧ f.sig ≠ BitVec.ofNat 64 r.sig
          then { f with first := some (BitVec.ofNat 20 (s.lace l).pos, BitVec.ofNat 20 s.chipId) } else f)))) ∧
    (∀ f : CensusFlit, s.hearsControl (s.laceIn l .next) = true → s.collRun? l = none → f.closing = false →
      ∃ t, exec (.census l f) s = .next t ∧ look (fun _ => none) t.coll.flit l = some f ∧ t.out = s.out ∧ t.mem = s.mem) ∧
    (∀ f : CensusFlit, s.hearsControl (s.laceIn l .next) = true → s.collRun? l = none → f.closing = true →
      ∃ t, exec (.census l f) s = .next t ∧ look (fun _ => none) t.coll.flit l = some f ∧ t.out = (s.sendCensus l f).out ∧ t.mem = s.mem) ∧
    (∀ f : CensusFlit, look (fun _ => none) s.coll.flit l = some f → f.closing = true → exec (.censusWaitTimeout l) s = .next s) ∧
    (∀ f : CensusFlit, f.closing = false → look (fun _ => none) s.coll.flit l = some f → (s.stg (pageColl + 0x100)).toNat % 2 ^ 16 ≠ 0 →
      ∃ (t : State) (g : CensusFlit), exec (.censusWaitTimeout l) s = .next t ∧ look (fun _ => none) t.coll.flit l = none ∧
        t.out = s.out ++ [.census l g] ∧ g.sig = f.sig ∧ g.closing = f.closing ∧
        g.first = some (f.first.getD (BitVec.ofNat 20 (s.lace l).pos, BitVec.ofNat 20 s.chipId)))

/-! ### Objects, page-ins, the reserve profile, the wipe -/

/-- CREATE, FREE, FLUSH, PREFETCH and PT_OP_BAD (R197, R198, R199): CREATE writes the entry that PT_STAGE describes with the handle of its
index and generation, and shows that handle; FREE makes the entry free with the next generation; an object that is wholly in T1 has
nothing to flush; a word that names no operation fails with BAD_OP; while an operation runs every one of them is discarded and sets the
block's error bit. An operation reads its entry, CREATE those of the valid objects: a poisoned word there is T1_UE (R190), the table stays, and
the RESULT is free. By the model's reading (log entry 99) one that comes in a wipe of T1 is busy and waits for its end. After a fatal error
none does anything (R445). -/
def Obligations.PlacementOperations : Prop :=
  ∀ (i : BitVec 16) (v : Word) (s : State),
    let e := s.entry i.toNat
    let at_ := s.ptBase + 64 * i.toNat
    let outcome (n : Nat) : Word := BitVec.ofNat 32 (n * 2 ^ 4 + i.toNat * 2 ^ 8)
    (s.fatal = true → ∀ c ∈ [Instr.create i, .free i, .flush i, .prefetch i, .ptOpBad v], exec c s = .next s) ∧
    (s.fatal = false →
    (s.tier.ptOp.busy = true →
      ∀ c ∈ [Instr.create i, .free i, .flush i, .prefetch i, .ptOpBad v], exec c s = .next (s.errBit pageMem 1)) ∧
    (s.tier.ptOp.busy = false → s.mem.wiping = true → ∀ c ∈ [Instr.create i, .free i, .flush i, .prefetch i],
      ∃ t, exec c s = .next t ∧ t.tier.ptOp.busy = true ∧ t.mem = { s.mem with held := s.mem.held ++ [c] } ∧ t.cores = s.cores ∧ t.cmd = s.cmd) ∧
    (s.tier.ptOp.busy = false → ((v.toNat % 16 = 0 ∨ 4 < v.toNat % 16 ∨ v.toNat / 2 ^ 4 % 2 ^ 4 ≠ 0 ∨ v.toNat / 2 ^ 24 ≠ 0) →
      ∃ t, exec (.ptOpBad v) s = .next t ∧
        t.reg (pageMem + 0x68) = BitVec.ofNat 32 (8 * 2 ^ 4 + v.toNat / 2 ^ 8 % 2 ^ 16 * 2 ^ 8) ∧ t.mem = s.mem ∧
        t.tier.ptOp.busy = false ∧ s.onlyRegs t [pageMem + 0x68] ∧ t.cores = s.cores ∧ t.cmd = s.cmd)) ∧
    (s.tier.ptOp.busy = false → s.mem.wiping = false → ∀ w, s.poisonIn at_ 64 = some w →
      ∀ c ∈ [Instr.create i, .free i, .flush i, .prefetch i], ∃ t, exec c s = .next t ∧ t.mem.t1 = s.mem.t1 ∧ t.disc.busy = true ∧
        t.tier.ptOp.busy = false) ∧
    (s.tier.ptOp.busy = false → s.mem.wiping = false → s.poisonIn at_ 64 = none →
      ((∀ j ∈ s.objects, s.poisonIn (s.ptBase + 64 * j) 64 = none) →
       (let n := Entry.ofBytes i.toNat s.ptStage
       let h := i.toNat + e.gen * 2 ^ 16
       entryOk s.ptStage = true → e.policy = 0 → s.overlaps n.t1Base n.t1Bytes = false →
        (n.policy = 1 ∨ s.cachedObjects.length < 256) →
        ∃ t, exec (.create i) s = .next t ∧
          t.t1 at_ 64 = bytesOf 4 h ++ slice s.ptStage 4 44 ++ bytesOf 4 0 ++ slice s.ptStage 52 12 ∧
          (∀ k, k < at_ ∨ at_ + 64 ≤ k → t.t1 k 1 = s.t1 k 1) ∧ t.mem.t0 = s.mem.t0 ∧
          t.reg (pageMem + 0x6C) = BitVec.ofNat 32 h ∧ t.reg (pageMem + 0x68) = outcome 0 ∧ t.tier.ptOp.busy = false ∧
          s.onlyRegs t [pageMem + 0x68, pageMem + 0x6C] ∧ t.cores = s.cores ∧ t.cmd = s.cmd) ∧
       (entryOk s.ptStage = false → ∃ t, exec (.create i) s = .next t ∧ t.reg (pageMem + 0x68) = outcome 1 ∧ t.mem = s.mem)) ∧
      (e.policy ≠ 0 → s.streams i.toNat = 0 →
        ∃ t, exec (.free i) s = .next t ∧
          t.t1 at_ 5 = bytesOf 4 (i.toNat + (if e.gen = 0xFFFF then 1 else e.gen + 1) * 2 ^ 16) ++ [0#8] ∧
          (∀ k, k < at_ ∨ at_ + 5 ≤ k → t.t1 k 1 = s.t1 k 1) ∧ t.mem.t0 = s.mem.t0 ∧ t.reg (pageMem + 0x68) = outcome 0 ∧
          t.tier.ptOp.busy = false ∧ s.onlyRegs t [pageMem + 0x68] ∧ t.cores = s.cores ∧ t.cmd = s.cmd) ∧
      (e.policy = 0 → ∀ c ∈ [Instr.free i, .flush i, .prefetch i],
        ∃ t, exec c s = .next t ∧ t.reg (pageMem + 0x68) = outcome 7 ∧ t.mem = s.mem ∧ t.tier.ptOp.busy = false) ∧
      (e.policy = 1 → ∃ t, exec (.flush i) s = .next t ∧ t.reg (pageMem + 0x68) = outcome 0 ∧ t.mem = s.mem ∧
        s.onlyRegs t [pageMem + 0x68] ∧ t.out = s.out) ∧
      (e.policy ≠ 0 → 0 < field s.ptStage 8 8 → field s.ptStage 0 8 + field s.ptStage 8 8 ≤ e.length →
        (s.absent e (field s.ptStage 0 8) (field s.ptStage 8 8) = [] →
          ∃ t, exec (.prefetch i) s = .next t ∧ t.reg (pageMem + 0x68) = outcome 0 ∧ t.mem = s.mem ∧ t.tier.ptOp.busy = false ∧
            t.tier.pages = s.tier.pages ∧ s.onlyRegs t [pageMem + 0x68]))))

/-- PAGE_IN (R200, R203) reads the object's entry (R219) and starts a page-in that waits and may start, a prefetch only when no demand waits:
into a slot that holds nothing its reads go out at once. RD_DATA (R216) puts the granule into its slot of T1 and nowhere else; WR_ACK, ERR and
the timeout (R211, R212) count themselves and go on with what waited for them; an answer that no request awaits, or that comes on a port that
is not UP (R369), changes nothing. HELLO_ACK (R217) brings the appliance up with its capacity and its limit of tags. -/
def Obligations.PagesAndAppliances : Prop :=
  ∀ (r : Fin 2) (tag : Fin 1024) (s : State), s.mem.wiping = false → s.fatal = false →
    (∀ (i : BitVec 16) item,
      (s.pageOf i.toNat item = none → exec (.pageIn i item) s = .next s) ∧
      (∀ p, s.pageOf i.toNat item = some p →
        let e := s.entry i.toNat
        (s.mayPage e p = false → exec (.pageIn i item) s = .next s) ∧
        (∀ w, s.mayPage e p = true → s.poisonIn (s.ptBase + 64 * i.toNat) 64 = some w →
          exec (.pageIn i item) s = .next (s.reportUe w none)) ∧
        (s.mayPage e p = true → s.poisonIn (s.ptBase + 64 * i.toNat) 64 = none →
          let u := s.bump64 (pageMem + 0xD0) 64
          exec (.pageIn i item) s = .next (u.startPage e p) ∧
          (s.takeSlot e p.item = none → exec (.pageIn i item) s = .next u) ∧
          (∀ k, s.takeSlot e p.item = some k → look noCount (s.cache i.toNat).slots k = 0 → (∀ x ∈ e.reads item k, s.resUp x.port = true) →
            (∀ x ∈ s.tier.pages, x.obj = i.toNat → x.stage ≠ .evicting) →
            ∃ t, exec (.pageIn i item) s = .next t ∧ t.pageOf i.toNat item = some { p with slot := k, stage := .reading, victim := none } ∧
              (∀ x ∈ e.reads item k, ∃ y ∈ t.tier.t2, y = { x with tag := y.tag, sent := y.sent }) ∧ t.mem = s.mem ∧ t.cores = s.cores)) ∧
        (p.prefetch = true → (∃ x ∈ s.tier.pages, x.stage = .waiting ∧ x.prefetch = false) → s.mayPage e p = false))) ∧
    (s.heard (16 + r) = false → ∀ data status capacity n, exec (.rdData r tag data) s = .next s ∧ exec (.wrAck r tag) s = .next s ∧
      exec (.resErr r tag status) s = .next s ∧ exec (.helloAck r capacity n) s = .next s) ∧
    ((s.tier.t2.find? fun q => q.port = r.val && q.sent && q.tag = tag.val) = none →
      ∀ data status, exec (.rdData r tag data) s = .next s ∧ exec (.wrAck r tag) s = .next s ∧
        exec (.resErr r tag status) s = .next s ∧ exec (.t2Timeout r tag) s = .next s) ∧
    (∀ q : T2Req, (s.tier.t2.find? fun q => q.port = r.val && q.sent && q.tag = tag.val) = some q → q.dead = false →
      let u := (s.takeT2 r tag).2
      u.tier.t2 = s.tier.t2.filter (fun q => !(q.port = r.val && q.sent && q.tag = tag.val)) ∧
      (∀ data, s.heard (16 + r) = true → q.write = false → data.length = granuleBytes →
        ∃ t, exec (.rdData r tag data) s = .next t ∧ t.t1 q.t1 granuleBytes = data ∧
          (∀ k, k < q.t1 ∨ q.t1 + granuleBytes ≤ k → t.t1 k 1 = s.t1 k 1) ∧ t.mem.t0 = s.mem.t0) ∧
      (s.heard (16 + r) = true → q.write = true → ∃ v : State,
        exec (.wrAck r tag) s = .next ((v.evictDone (s.entry q.obj)).ptSettle).pump ∧
        v.count (pageMem + 0x60) = min (s.count (pageMem + 0x60) + 1) 0xFFFFFFFF ∧ v.tier = u.tier ∧ v.mem = s.mem) ∧
      (∀ status, s.heard (16 + r) = true → ∃ v : State,
        exec (.resErr r tag status) s = .next (if q.write then v.writeFailed q else v.readFailed q eT2ReadErr) ∧
        v.count (pageMem + 0x54) = min (s.count (pageMem + 0x54) + 1) 0xFFFFFFFF ∧ v.tier = u.tier ∧ v.mem = s.mem) ∧
      (q.write = false → ∃ v : State, exec (.t2Timeout r tag) s = .next (v.readFailed q eT2Timeout) ∧
        v.count (pageMem + 0x58) = min (s.count (pageMem + 0x58) + 1) 0xFFFFFFFF ∧ v.tier = s.tier ∧ v.mem = s.mem)) ∧
    (∀ (capacity : Dword) (n : BitVec 12), 1 ≤ n.toNat → n.toNat ≤ 1024 → s.heard (16 + r) = true →
      ∃ u : State, exec (.helloAck r capacity n) s = .next u.pump ∧ (u.resPort r).up = true ∧ (u.resPort r).maxTags = n.toNat ∧
        u.reg (pageMem + 0xC0 + 8 * r) = capacity.truncate 32 ∧
        s.onlyRegs u [pageMem + 0xC0 + 8 * r, pageMem + 0xC4 + 8 * r] ∧ u.mem = s.mem)

/-- T1_WIPE (R191): with no command in flight, what T1 held is gone and accesses wait; with one in flight, one whose part has ended but that has
no record yet among them (R27), it is discarded and sets the block's error bit. T1_WIPE_END (R459): T1 then reads as zero but for a free
placement table at PT_BASE, whose every entry has its index and generation 1; the working stores stay. PATROL_SCRUB (R190, R191) counts a
corrected word and marks an uncorrectable one. After a fatal error none does anything (R445). -/
def Obligations.WipeAndScrub : Prop :=
  (∀ (w : BitVec 32) (r : EccResult) (s : State), s.fatal = true →
    exec .t1Wipe s = .next s ∧ exec .t1WipeEnd s = .next s ∧ exec (.patrolScrub w r) s = .next s) ∧
  ∀ s : State, s.fatal = false →
    (s.mem.wiping = false → s.cmd.flights = [] →
      ∃ t, exec .t1Wipe s = .next t ∧ t.mem = { s.mem with t1 := [], tables := [], poison := [], wiping := true } ∧
        t.tier.caches = [] ∧ t.tier.pages = [] ∧ t.cores = s.cores ∧ t.cmd = s.cmd) ∧
    (s.mem.wiping = false → s.cmd.flights ≠ [] → exec .t1Wipe s = .next (s.errBit pageMem 0)) ∧
    (s.mem.wiping = false → exec .t1WipeEnd s = .next s) ∧
    (s.mem.wiping = true → s.mem.held = [] → s.mem.t1 = [] → s.mem.tables = [] →
      ∃ t, exec .t1WipeEnd s = .next t ∧ t.mem.wiping = false ∧
        (∀ i, i < 65536 → t.t1 (s.ptBase + 64 * i) 5 = bytesOf 4 (i + 2 ^ 16) ++ [0#8]) ∧
        (∀ k, k < s.ptBase ∨ s.ptBase + 0x400000 ≤ k → t.t1 k 1 = [0#8]) ∧ t = { s with mem := t.mem } ∧ t.mem.t0 = s.mem.t0) ∧
    (∀ w : BitVec 32, s.mem.wiping = false → (s.reg (pageMem + 8)).getLsbD 1 = true → s.isPoisoned w.toNat = false →
      exec (.patrolScrub w .ok) s = .next s ∧
      (∃ t, exec (.patrolScrub w .corrected) s = .next t ∧
        t.count (pageMem + 0x44) = min (s.count (pageMem + 0x44) + 1) 0xFFFFFFFF ∧ s.onlyCounts t [pageMem + 0x44] ∧
        t = { s with win := { s.win with counts := t.win.counts } }) ∧
      (∃ u : State, exec (.patrolScrub w .uncorrectable) s = .next (u.class2 eT1Ue 0 none) ∧ u.isPoisoned w.toNat = true ∧
        (∀ k, k ≠ w.toNat → u.isPoisoned k = s.isPoisoned k) ∧ u.count (pageMem + 0x4C) = 32 * w.toNat ∧
        u.mem = { s.mem with poison := u.mem.poison } ∧ u.cmd = s.cmd)) ∧
    (∀ w r, (s.mem.wiping = true ∨ (s.reg (pageMem + 8)).getLsbD 1 = false) → exec (.patrolScrub w r) s = .next s)

/-! ### Power -/

/-- DROOP_DETECT, CLAMP_RELEASE, HOLDOFF_END, FREQUENCY_SWITCH, PWR_FREQ_ABANDON and POINT_DECISION (R422 to R425, R428, R430): a detection
clamps and ends the hold-off; its release starts the hold-off and counts the whole microseconds that the clamp was in force (R430; that it
counts them at its release is the model's reading, log entry 73); a frequency change is made only while neither runs, and a lowered voltage is
commanded after it; an abandoned change leaves the point. A decision steps, one point at most and a raise with its voltage first: with FIXED
toward point 13; of an idle chip down to its idle point; with boost, where its conditions hold, up, and else down to 13. The controller runs
from boot step 4 (R470). -/
def Obligations.PowerPointMoves : Prop :=
  ∀ s : State,
    let p := s.power
    let volt (n : Nat) : Nat := min (pointMv n + p.raise) (max 900 (pointMv n))
    let cmd (n : Nat) : Sent := .pmbus s.vrAddress 0x21 (volt n) (some (s.voutPec (volt n)))
    (∀ d, p.lit = false → exec (.droopDetect d) s = .next s) ∧
    (∀ d, p.lit = true → ∃ t, exec (.droopDetect d) s = .next t ∧
      t.power = { p with
        clamp := true, holdoff := false, clamped := true, limited := true, clampLast := s.time,
        clampAt := if p.clamp then p.clampAt else s.time } ∧
      t.count 0x0100068 = (if p.clamp then s.count 0x0100068 else min (s.count 0x0100068 + 1) 0xFFFFFFFF) ∧
      s.onlyCounts t [0x0100068] ∧ t = { s with power := t.power, win := { s.win with counts := t.win.counts } }) ∧
    (p.clamp = false → exec .clampRelease s = .next s) ∧
    (p.clamp = true → ∃ t, exec .clampRelease s = .next t ∧
      t.power = { p with clamp := false, holdoff := true, clampNs := (p.clampNs + 1000 + (p.clampLast - p.clampAt)) % 1000 } ∧
      t.count 0x0100078 = min (s.count 0x0100078 + (p.clampNs + 1000 + (p.clampLast - p.clampAt)) / 1000) (2 ^ 64 - 1) ∧
      t = { s with power := t.power, win := { s.win with counts := t.win.counts } }) ∧
    (p.holdoff = false → exec .holdoffEnd s = .next s) ∧
    (p.holdoff = true → (p.change = none ∨ p.due = false) →
      exec .holdoffEnd s = .next { s with power := { p with holdoff := false } }) ∧
    (∀ n, p.holdoff = true → p.change = some n → p.due = true →
      exec .holdoffEnd s = .next (State.switchPoint { s with power := { p with holdoff := false } } n)) ∧
    (p.change = none → exec .frequencySwitch s = .next s) ∧
    (∀ n, p.change = some n → (p.clamp = true ∨ p.holdoff = true) →
      exec .frequencySwitch s = .next { s with power := { p with due := true } }) ∧
    (∀ n, p.change = some n → p.clamp = false → p.holdoff = false →
      ∃ t, exec .frequencySwitch s = .next t ∧ t.power.point = n ∧ t.power.vpoint = n ∧ t.power.due = false ∧
        t.power.change = (if p.hintFrom ≠ 0 ∧ 13 < n then some (n - 1) else none) ∧
        t.out = s.out ++ (if n < p.point then [cmd n] else []) ∧
        t = { s with power := t.power, out := t.out }) ∧
    (∀ n, p.change = some n → p.due = true → (p.clamp = true ∨ p.holdoff = true) →
      ∃ u : State, exec .pwrFreqAbandon s = .next (u.advisory 0x4041 0 none) ∧ u.power.change = none ∧ u.power.point = p.point ∧
        u.power.vpoint = p.point ∧ u.count 0x0100064 = min (s.count 0x0100064 + 1) 0xFFFFFFFF ∧
        u.out = s.out ++ [cmd p.point] ∧ u.mem = s.mem ∧ u.cores = s.cores) ∧
    ((p.change = none ∨ p.due = false) → exec .pwrFreqAbandon s = .next s) ∧
    ((s.fatal = true ∨ p.lit = false) → exec .pointDecision s = .next s) ∧
    (s.fatal = false → p.lit = true → ∃ t, exec .pointDecision s = .next t ∧
      (t.power.limited = true ↔ ∃ c < 8, s.issueK c < 64) ∧ t.power.clamped = p.clamp ∧ t.power.point = p.point ∧
      t = { s with power := t.power, out := t.out } ∧
      (p.change ≠ none → t.power.change = p.change ∧ t.out = s.out) ∧
      (p.change = none →
        let idle := 50 ≤ p.idle ∧ p.ran = false ∧ ∀ c < 8, (s.core c).eng.flight = none
        let down (b : Nat) : Option Nat := if b < p.point then some (p.point - 1) else none
        (∀ n, t.power.change = some n → p.point < n → t.out = s.out ++ [cmd n]) ∧
        ((∀ n, t.power.change = some n → n < p.point) → t.out = s.out) ∧
        t.power.change =
          if s.pwrFixed = true then (if p.point = 13 then none else some (stepToward p.point 13))
          else if idle then down s.idlePoint
          else if s.boostEn = true ∧ s.boostOk = true ∧ s.coolEnough = true then
            (if p.point < 15 ∧ p.ic = 0 ∧ p.raise = 0 then some (p.point + 1) else none)
          else down 13))

/-- POWER_TICK (R414, R415) adds an interval's estimate to the energy, shows it, and moves every issue limit of the average cap by one at
most; nothing outside the power controller changes but its registers and the model's draws (the estimate rests on free values: log entry
4). Before boot step 4 and after a fatal error nothing happens (R445, R470).
CAL_START, CAL_COMPLETE, HINT_PHASE_START, HINT_PHASE_END, PMB_ALERT, ALERT_RELEASE, SENSOR_READ, THERMTRIP and PMBUS_TIMEOUT (R426,
R428, R429, R431, R432, R433): a calibration that ends is valid with the means it gives; a phase begins and ends its hint once; an alert
stands until its release; each sensor's register holds its reading; a transaction is tried three times more and its fourth failure is
`PWR_PMBUS_FAIL`. Of two that may still fail it is free which one did: the row does not say (log entry 134). -/
def Obligations.PowerController : Prop :=
  (∀ s : State,
       ((s.fatal = true ∨ s.power.lit = false) → exec .powerTick s = .next s) ∧
       (s.fatal = false → s.power.lit = true → ∃ t, exec .powerTick s = .next t ∧ t.power.energy = s.power.energy + t.power.estimate ∧
         t.power.tick = (if s.power.tick = 499 then 0 else s.power.tick + 1) ∧ t.power.tickAt = some s.time ∧ t.power.point = s.power.point ∧
         t.power.kTherm = s.power.kTherm ∧ t.power.buckets.length ≤ 30000 ∧
         t = { s with power := t.power, free := t.free, win := { s.win with regs := t.win.regs, counts := t.win.counts } } ∧
         (∀ o, (∀ d < 32, o ≠ 0x0100300 + 4 * d) → t.reg o = s.reg o) ∧
         (∀ c, c < 8 → s.power.capOf c ≤ 64 →
           s.power.capOf c - 1 ≤ t.power.capOf c ∧ t.power.capOf c ≤ s.power.capOf c + 1 ∧ t.power.capOf c ≤ 64))) ∧
  (∀ s : State,
       let p := s.power
       (exec .calStart s = .next (if s.fatal then s else if p.cal.busy then s.errBit pagePower 0 else
         { s with power := { p with cal := { p.cal with busy := true, sumP := 0, sumI := 0, ticks := 0 } } })) ∧
       (∀ means, p.cal.busy = false → exec (.calComplete means) s = .next s) ∧
       (∀ means, p.cal.busy = true → ∃ t, exec (.calComplete means) s = .next t ∧ t.power.cal.valid = true ∧ t.power.cal.busy = false ∧
         t.power.cal.means = means ∧ t.power = { p with cal := t.power.cal } ∧ t.mem = s.mem ∧ t.cores = s.cores) ∧
       ((p.hint = none ∨ ∃ h, p.hint = some h ∧ h.active = true) → exec .hintPhaseStart s = .next s) ∧
       (∀ h, p.hint = some h → h.active = false → ∃ t, exec .hintPhaseStart s = .next t ∧ t.power.hint = some { h with active := true } ∧
         t.power.raise = (if h.kind = 0 then p.raise else 0) ∧ t = { s with power := t.power, out := t.out } ∧
         (h.kind = 0 ∨ p.raise = 0 → t.out = s.out)) ∧
       ((p.hint = none ∨ ∃ h, p.hint = some h ∧ h.active = false) → exec .hintPhaseEnd s = .next s) ∧
       (∀ h, p.hint = some h → h.active = true → ∃ t, exec .hintPhaseEnd s = .next t ∧ t.power.hint = none ∧ t.power.hintFrom = 0 ∧
         t.power.raise = (if h.kind = 0 then 0 else p.raise) ∧ t = { s with power := t.power, out := t.out }) ∧
       (∃ t, exec .pmbAlert s = .next t ∧ t.power = { p with alert := true, limited := t.power.limited } ∧
         t.power.limited = (p.limited || s.alertEn) ∧ t = { s with power := t.power }) ∧
       exec .alertRelease s = .next { s with power := { p with alert := false } } ∧
       (∀ i, exec (.thermtrip i) s = .next { s with power := { p with trip := true, tripPin := true } }) ∧
       (∀ readings : List Int, p.lit = false → exec (.sensorRead readings) s = .next s) ∧
       (∀ readings : List Int, p.lit = true → ∃ t, exec (.sensorRead readings) s = .next t ∧
         (∀ i v, readings[i]? = some v → i < 64 → (t.reg (0x0100200 + 4 * i)).toNat % 2 ^ 16 = (BitVec.ofInt 16 v).toNat) ∧
         t.power.point = p.point ∧ t.power.energy = p.energy ∧ t.mem = s.mem ∧ t.cores = s.cores ∧ t.cmd = s.cmd) ∧
       (p.pmbLast = [] → exec .pmbusTimeout s = .next s) ∧
       (∀ c v, p.pmbLast = [(c, v)] → p.pmbTries < 3 →
         exec .pmbusTimeout s = .next { s with
           out := s.out ++ [.pmbus s.vrAddress c v (if c = 0x21 then some (s.voutPec v) else none)]
           power := { p with pmbTries := p.pmbTries + 1 } }) ∧
       (∀ x, p.pmbLast = [x] → 3 ≤ p.pmbTries → s.fatal = false →
         ∃ t, exec .pmbusTimeout s = .next t ∧ t.fatal = true ∧ t.reg 0x210 = BitVec.ofNat 32 (0x3044 + 2 ^ 16) ∧
           t.power = { p with pmbFail := true, pmbLast := [], pmbTries := 0 } ∧ t.mem = s.mem) ∧
       (∀ x y l, p.pmbLast = x :: y :: l → ∃ u : State, u = { s with free := s.free + 1 } ∧
         (exec .pmbusTimeout s = .next (u.pmbFailed (x :: y :: l) p.pmbTries) ∨ exec .pmbusTimeout s = .next (u.pmbFailed (y :: l) 0))))

/-! ### Resets -/

/-- COLD_RESET, WARM_RESET, SOFT_RESET and SOFT_RESET_END (R457, R458, R460, R508): what each leaves. A cold reset keeps the fuses, the flash
and the TRIP flag; a warm one also the energy and the always-on registers, and none comes about while a cold one is in force; a soft one first
discards the work of the chip, and its end, once T1 is wiped, leaves idle cores and the pages that it keeps. Of the model: the wipe of T1, with
its table, is over in the step of a cold or warm reset (log entry 11); registers without a reset value read zero (log entry 5); what exactly the
always-on registers and the kept pages are, and that a warm reset ends a mailbox operation and a discard, is a reading (log entry 74). -/
def Obligations.ResetsLeave : Prop :=
  ∀ s : State,
    (∃ t, exec .coldReset s = .next t ∧ t.mem = State.reset.mem ∧ t.cores = State.reset.cores ∧ t.cmd = State.reset.cmd ∧
      t.win = State.reset.win ∧ t.links = State.reset.links ∧ t.sync = State.reset.sync ∧ t.tier = State.reset.tier ∧
      t.fatal = false ∧ t.power = { State.reset.power with trip := s.power.trip } ∧ t.sec.lc = s.sec.lc ∧
      t.sec.fuses = s.sec.fuses ∧ t.sec.flash = s.sec.flash ∧ t.sec.seed = s.sec.seed ∧ t.sec.stage = 0 ∧ t.sec.inReset = true ∧
      t.pending = s.pending) ∧
    (s.sec.inReset = true → (s.reg 0x810).getLsbD 0 = true → exec .warmReset s = .next s) ∧
    ((s.sec.inReset = false ∨ (s.reg 0x810).getLsbD 0 = false) →
      ∃ t, exec .warmReset s = .next t ∧ t.mem = State.reset.mem ∧ t.cores = State.reset.cores ∧ t.cmd = State.reset.cmd ∧
      t.reg 0x810 = 2#32 ∧
      (∀ off, alwaysOn off = true → (off = 0x82C → s.sec.mbox = none) → (off = 0x208 → s.disc.busy = false) →
        t.reg off = s.reg off ∧ t.count off = s.count off) ∧
      (s.sec.mbox ≠ none → t.reg 0x82C = 0#32) ∧ (s.disc.busy = true → t.reg 0x208 = s.reg 0x208 &&& 0xFFFFFFFE#32) ∧
      (∀ off, alwaysOn off = false → off ≠ 0x810 → off ≠ 0x210 → t.reg off = regReset off) ∧ t.win.active = [] ∧ t.win.shadow = [] ∧
      t.power.energy = s.power.energy ∧ t.power.cal = s.power.cal ∧ t.power.trip = s.power.trip ∧ t.sec.lc = s.sec.lc ∧
      t.sec.inReset = true) ∧
    (∀ v, v ≠ 0x5354#32 → exec (.softReset v) s = .next s) ∧
    ((s.sec.softReset = true ∨ s.fatal = true) → exec (.softReset 0x5354#32) s = .next (s.errBit pageGlobal 0)) ∧
    (s.sec.softReset = false → s.fatal = false → s.disc.busy = false →
      ∃ t, exec (.softReset 0x5354#32) s = .next t ∧ t.sec.softReset = true ∧ t.disc.busy = true ∧ t.disc.code = 0 ∧
        t.reg 0x810 = s.reg 0x810 ||| 4#32 ∧ t.commit.busy = false ∧ t.sec.mbox = none ∧ (∀ f ∈ t.cmd.flights, f.stage = .ended) ∧
        t.mem = { s.mem with t0 := t.mem.t0 }) ∧
    ((s.sec.softReset = false ∨ s.sec.softWiped = false ∨ s.disc.busy = true ∨ s.mem.wiping = true) → exec .softResetEnd s = .next s) ∧
    (s.sec.softReset = true → s.sec.softWiped = true → s.disc.busy = false → s.mem.wiping = false →
      ∃ t, exec .softResetEnd s = .next t ∧ t.sec = { s.sec with softReset := false, softWiped := false } ∧
        (∀ n, (t.core n).eng = Engines.reset ∧ (t.core n).plane = Plane.reset ∧ (t.core n).ctr = []) ∧ t.sync = Sync.reset ∧
        t.mem = s.mem ∧
        (∀ off, softKeeps off = true → t.reg off = s.reg off ∧ t.count off = s.count off) ∧
        (∀ off, softKeeps off = false → t.reg off = regReset off) ∧ t.power.energy = s.power.energy ∧
        t.power.point = s.power.point ∧ t.out = s.out)

/-! ### Boot, the security core -/

/-- BOOT and the net-boot commands (R387, R466, R469, R470): BOOT does nothing outside a reset; with BOOT_SEL 3 it fails; else it goes
through its images in order. NB_ANNOUNCE asks every station for each image that has no offer; an offer for this chip asks its sender for its
first blocks; a good block is stored and a bad one ignored; a block still open is asked for again; an abort forgets the offer; a timeout
ends the boot with `BOOT_FAIL`. The model's choices: a frame of another EtherType, MAGIC or SERIAL changes nothing, and a frame without data has
LENGTH 0 (log entry 112); NB_ABORT makes the image be announced again (log entry 75). -/
def Obligations.BootAndNetBoot : Prop :=
  ∀ s : State,
    (∀ sel prog, s.sec.inReset = false → exec (.boot sel prog) s = .next s) ∧
    (∀ (sel : BitVec 2) prog, s.sec.inReset = true → ∃ u : State, u.sec.inReset = false ∧ u.sec.bootSel = sel.toNat ∧ u.mem = s.mem ∧
      u.cores = s.cores ∧ u.sec.lc = s.sec.lc ∧
      (s.sec.lc = 4 → exec (.boot sel prog) s = .next u) ∧
      (s.sec.lc ≠ 4 → sel = 3#2 → exec (.boot sel prog) s = .next (u.bootFails 0x3081)) ∧
      (s.sec.lc ≠ 4 → sel ≠ 1#2 → sel ≠ 3#2 → exec (.boot sel prog) s = .next (bootGo bootOrder u)) ∧
      (s.sec.lc ≠ 4 → sel = 1#2 → ∃ v : State, exec (.boot sel prog) s = .next (bootGo bootOrder v) ∧ v.mem = s.mem ∧
        ∀ k ∈ bootOrder, v.netImage k = some NetImage.none_)) ∧
    (∃ t, exec .nbAnnounce s = .next t ∧ t = { s with out := t.out } ∧
      ∀ k ∈ bootOrder, ∀ n, s.netImage k = some n → n.offer = none → .netBoot 0xFFFFFFFFFFFF 0x88B5 (netBytes 1 k s.sec.lc) ∈ t.out) ∧
    (∀ (h : NbHdr) (length : Word) mac n, s.netImage h.image.toNat = some n → netOurs h = true → n.offer = none → n.open_ = [] →
      n.next = 0 → 1 ≤ length.toNat → length.toNat ≤ maxImage →
      ∃ (t : State) (m : NetImage), exec (.nbOffer h length mac) s = .next t ∧ t.netImage h.image.toNat = some m ∧
        m.offer = some (length.toNat, mac.toNat) ∧ m.open_ = List.range (min 16 (ceilDiv length.toNat 1024)) ∧
        t.out = s.out ++ (m.open_.map fun i => .netBoot mac.toNat 0x88B5 (netBytes 3 h.image.toNat i)) ∧ t.mem = s.mem) ∧
    (∀ h : NbHdr, netOurs h = false → (∀ length mac, exec (.nbOffer h length mac) s = .next s) ∧
      (∀ index length crc payload, exec (.nbData h index length crc payload) s = .next s) ∧ exec (.nbAbort h) s = .next s) ∧
    (∀ h : NbHdr, netOurs h = true ↔ h.etherType = 0x88B5#16 ∧ h.magic = 0x4E42#16 ∧ h.serial = Config.serial) ∧
    (∀ (h : NbHdr) (index length : Word) payload n len mac, s.netImage h.image.toNat = some n → netOurs h = true →
      n.offer = some (len, mac) → length.toNat = payload.length → n.open_.contains index.toNat = true → payload.length = min 1024 (len - 1024 *
            index.toNat) →
      (∃ j ∈ n.open_, j ≠ index.toNat) →
      ∃ (t : State) (m : NetImage),
        exec (.nbData h index length (crc32c payload) payload) s = .next t ∧ t.netImage h.image.toNat = some m ∧
        look (fun _ => []) m.blocks index.toNat = payload ∧ m.offer = n.offer ∧ t.mem = s.mem ∧ t.cores = s.cores) ∧
    (∀ h index (length crc : Word) payload, (length.toNat ≠ payload.length ∨ crc ≠ crc32c payload) →
      exec (.nbData h index length crc payload) s = .next s) ∧
    (∀ (image : Byte) (index : Word) n, s.netImage image.toNat = some n → n.open_.contains index.toNat = true →
      exec (.nbReadRetry image index) s = .next (s.send (.netBoot n.mac 0x88B5 (netBytes 3 image.toNat index.toNat)))) ∧
    (∀ (image : Byte) n, s.netImage image.toNat = some n → exec (.nbTimeout image) s = .next (s.bootFails 0x3081)) ∧
    (∀ (h : NbHdr) n, s.netImage h.image.toNat = some n → netOurs h = true →
      ∃ t, exec (.nbAbort h) s = .next t ∧ t.netImage h.image.toNat = some NetImage.none_ ∧
        (∀ k, k ≠ h.image.toNat → t.netImage k = s.netImage k) ∧ t = { s with sec := { s.sec with needed := t.sec.needed } }) ∧
    (∀ image : Byte, s.netImage image.toNat = none → exec (.nbTimeout image) s = .next s)

/-- ATTEST, DEBUG_TOKEN, LC_TRANSITION, PROVISION_ID, GET_PUBKEY and MAILBOX_COMPLETE (R473 to R480, R491): an operation starts only while none
runs, and shows BUSY; a write while BUSY is discarded and sets LIVE_WRITE; the life cycle in force decides whether it may; ATTEST takes the next
leaf, whatever comes of the operation. By the model's choice an operation that is not refused has its effect at its completion (log entry 75):
ATTEST and GET_PUBKEY write their output at the MBOX_ADDR of the write, DEBUG_TOKEN checks its token there and takes the permissions with a
fresh nonce, PROVISION_ID draws the identity; the completion shows RESULT and frees the mailbox. After a fatal error none does anything. -/
def Obligations.MailboxOperations : Prop :=
  (∀ s : State, s.fatal = true → exec .mailboxComplete s = .next s) ∧
  ∀ s : State, s.mem.wiping = false → s.fatal = false →
    (s.sec.mbox ≠ none → ∀ c, (c ∈ [Instr.attest, .debugToken, .provisionId, .getPubkey] ∨ ∃ n, c = .lcTransition n) →
      exec c s = .next (s.errBit pageGlobal 0)) ∧
    (s.sec.mbox = none →
      (s.sec.lc = 2 → s.sec.provisioned = true → s.mboxRange 6016 = true → s.sec.leaf < 2 ^ 30 → s.sec.leaf < s.sec.limit →
        ∃ t, exec .attest s = .next t ∧ t.sec.mbox = some ⟨1, 0, s.mboxAddr, some s.sec.leaf, none⟩ ∧ t.sec.leaf = s.sec.leaf + 1 ∧
          t.reg 0x82C = 1#32 ∧ s.onlyRegs t [0x82C] ∧ t.mem = s.mem) ∧
      (s.sec.lc ≠ 2 → ∃ t, exec .attest s = .next t ∧ t.sec.mbox = some ⟨1, 0, s.mboxAddr, none, some 3⟩ ∧ t.sec.leaf = s.sec.leaf) ∧
      (s.sec.lc = 2 → ∃ t, exec .debugToken s = .next t ∧ t.sec.mbox = some ⟨2, 0, s.mboxAddr, none, none⟩ ∧ t.reg 0x82C = 1#32 ∧
        s.onlyRegs t [0x82C]) ∧
      (s.sec.lc ≠ 2 → ∃ t, exec .debugToken s = .next t ∧ t.sec.mbox = some ⟨2, 0, s.mboxAddr, none, some 3⟩) ∧
      (s.sec.lc = 1 → s.sec.provisioned = false → ∃ t, exec .provisionId s = .next t ∧ t.sec.mbox = some ⟨4, 0, s.mboxAddr, none, none⟩ ∧
        t.reg 0x82C = 1#32 ∧ t.sec.provisioned = false) ∧
      ((s.sec.lc ≠ 1 ∨ s.sec.provisioned = true) → ∃ t, exec .provisionId s = .next t ∧
        t.sec.mbox = some ⟨4, 0, s.mboxAddr, none, some 3⟩ ∧ t.sec.seed = s.sec.seed) ∧
      (∀ k, s.sec.seed = some k → s.sec.lc ≠ 4 → s.mboxRange 60 = true → ∃ t, exec .getPubkey s = .next t ∧
        t.sec.mbox = some ⟨5, 0, s.mboxAddr, none, none⟩ ∧ t.reg 0x82C = 1#32) ∧
      ((s.sec.seed = none ∨ s.sec.lc = 4) → ∃ t, exec .getPubkey s = .next t ∧ t.sec.mbox = some ⟨5, 0, s.mboxAddr, none, some 3⟩) ∧
      (∀ n : Fin 8, s.lcNeeds n.val = some false → s.disc.busy = false → ∃ t, exec (.lcTransition n) s = .next t ∧
        t.sec.mbox = some ⟨3, n.val, s.mboxAddr, none, none⟩ ∧ t.disc.busy = true ∧ t.sec.lc = s.sec.lc ∧ t.mem = { s.mem with t0 := t.mem.t0 }) ∧
      (∀ n : Fin 8, s.lcNeeds n.val = none → ∃ t, exec (.lcTransition n) s = .next t ∧
        t.sec.mbox = some ⟨3, n.val, s.mboxAddr, none, some 3⟩ ∧ t.sec.lc = s.sec.lc)) ∧
    (s.sec.mbox = none → exec .mailboxComplete s = .next s) ∧
    (∀ m, s.sec.mbox = some m →
      let token := s.t1Seen m.addr 6016
      let inT1 := m.addr % 64 = 0 ∧ m.addr + 6016 ≤ t1Bytes
      (∀ r, m.result = some r → ∃ t, exec .mailboxComplete s = .next t ∧ t.sec = { s.sec with mbox := none } ∧
        t.reg 0x82C = BitVec.ofNat 32 (r * 16) ∧ s.onlyRegs t [0x82C] ∧ t.mem = s.mem) ∧
      (m.op = 1 → m.result = none → ∃ t, exec .mailboxComplete s = .next t ∧ t.sec = { s.sec with mbox := none } ∧
        t.reg 0x82C = 0#32 ∧
        t.t1 m.addr (s.attReport (m.leaf.getD 0)).length = s.attReport (m.leaf.getD 0) ∧
        (∀ k, k < m.addr ∨ m.addr + (s.attReport (m.leaf.getD 0)).length ≤ k → t.t1 k 1 = s.t1 k 1) ∧ t.mem.t0 = s.mem.t0) ∧
      (m.op = 2 → m.result = none → ¬ inT1 → ∃ t, exec .mailboxComplete s = .next t ∧ t.sec = { s.sec with mbox := none } ∧
        t.reg 0x82C = 0x10#32) ∧
      (m.op = 2 → m.result = none → inT1 → s.poisonIn m.addr 6016 = none →
        ∃ t, exec .mailboxComplete s = .next t ∧ t.mem = s.mem ∧ t.reg 0x82C = (if s.tokenOk 1 token = true then 0#32 else 0x20#32) ∧
          t.sec = if s.tokenOk 1 token = true then
              { s.sec with mbox := none, perms := some (field token 6 1 % 8), nonce := s.sec.draws, draws := s.sec.draws + 1 }
            else { s.sec with mbox := none }) ∧
      (m.op = 4 → m.result = none → ∃ t, exec .mailboxComplete s = .next t ∧ t.sec.mbox = none ∧ t.sec.provisioned = true ∧
        t.sec.seed = some s.sec.draws ∧ t.sec.leaf = 0 ∧ t.sec.lc = s.sec.lc ∧ t.sec.fuses = max s.sec.fuses 1 ∧ t.mem = s.mem ∧
        (t.reg 0x82C = 0#32 ∨ t.reg 0x82C = 0x50#32) ∧ (s.mirrorAt = none → t.reg 0x82C = 0x50#32)) ∧
      (m.op = 5 → m.result = none → ∃ t, exec .mailboxComplete s = .next t ∧ t.sec = { s.sec with mbox := none } ∧
        t.t1 m.addr (Lms.idPublic s.idSeed).length = Lms.idPublic s.idSeed ∧
        (∀ k, k < m.addr ∨ m.addr + (Lms.idPublic s.idSeed).length ≤ k → t.t1 k 1 = s.t1 k 1)) ∧
      (m.op = 3 → m.result = none → s.disc.busy = false → ∃ t, exec .mailboxComplete s = .next t ∧ t.sec.lc = m.target ∧
        (m.target = 3 → t.sec.seed = none) ∧ t.sec.mbox = none ∧ t.mem = State.reset.mem ∧ t.reg 0x810 = 0x12#32) ∧
      (m.op = 3 → m.result = none → s.disc.busy = true → exec .mailboxComplete s = .next s))

/-! ### The host port -/

/-- DOORBELL, RDMA_WRITE, RDMA_READ and UNSUPPORTED_ROCE_PACKET (R379, R380, R382, R383, R390): on a QP in RTS, with the expected PSN, a
write that a region grants lands byte for byte and is acknowledged; one that none grants changes no memory and is answered with a NAK, which
is counted; a read brings the bytes; a good doorbell posts its slots; an unsupported packet is answered with a NAK. Presumed from RoCEv2, which
R380 only names (log entry 25): a QP in another state takes no packet, a packet seen before is acknowledged again, one ahead gets a NAK, a
congestion mark a CNP, and so an early doorbell waits. The model's choices: the port takes no packet longer than 9,216 bytes, with two tags or to
another address (log entry 109), and a seventeenth outstanding read gets the NAK of an unsupported one (log entry 110). -/
def Obligations.RdmaAndDoorbells : Prop :=
  ∀ (qp : Fin 256) (psn : BitVec 24) (rkey imm : Word) (addr : Dword) (data : List Byte) (len : Nat) (p : Packet) (s : State),
    s.mem.wiping = false →
    ((9216 < p.size ∨ 1 < p.tags) → s.takes p = false) ∧
    ((s.takes p = false ∨ (s.qp qp).state ≠ 1) →
      exec (.rdmaWrite qp psn rkey addr data p) s = .next s ∧ exec (.rdmaRead qp psn rkey addr len p) s = .next s ∧
      exec (.doorbell qp psn rkey addr data imm p) s = .next s ∧ exec (.unsupportedRocePacket qp psn p) s = .next s) ∧
    (s.takes p = true → (s.qp qp).state = 1 →
      let cnps : List Sent := if p.ecn then [.roce s.hop qp 0 6 []] else []
      let next n : Nat := ((s.qp qp).rqPsn + (s.qp qp).packets n) % 2 ^ 24
      let naks : Nat := min (s.count (pageHost + 0x50) + 1) 0xFFFFFFFF
      ((s.qp qp).place psn.toNat = .expected →
        (s.regionGrants rkey.toNat addr.toNat data.length 2 = true →
          ∃ t, exec (.rdmaWrite qp psn rkey addr data p) s = .next t ∧ t.t1 addr.toNat data.length = data ∧
            (∀ k, k < addr.toNat ∨ addr.toNat + data.length ≤ k → t.t1 k 1 = s.t1 k 1) ∧ t.mem.t0 = s.mem.t0 ∧
            t.qp qp = { s.qp qp with rqPsn := next data.length } ∧ t.out = s.out ++ [.roce s.hop qp psn.toNat 0 []] ++ cnps ∧
            t.cores = s.cores ∧ t.cmd = s.cmd) ∧
        (s.regionGrants rkey.toNat addr.toNat data.length 2 = false →
          ∃ t, exec (.rdmaWrite qp psn rkey addr data p) s = .next t ∧ t.out = s.out ++ [.roce s.hop qp psn.toNat 3 []] ++ cnps ∧
            t.count (pageHost + 0x50) = naks ∧ t = { s with out := t.out, win := { s.win with counts := t.win.counts } }) ∧
        (s.openReads qp < 16 → s.regionGrants rkey.toNat addr.toNat len 1 = true → s.poisonIn addr.toNat len = none →
          ∃ t, exec (.rdmaRead qp psn rkey addr len p) s = .next t ∧
            t.out = s.out ++ [.roce s.hop qp psn.toNat 5 (s.t1Seen addr.toNat len)] ++ cnps ∧ t.qp qp = { s.qp qp with rqPsn := next len } ∧
            t.mem = s.mem ∧ t.cores = s.cores)) ∧
      (16 ≤ s.openReads qp → ∃ t, exec (.rdmaRead qp psn rkey addr len p) s = .next t ∧
        t.out = s.out ++ [.roce s.hop qp psn.toNat 2 []] ++ cnps ∧ t.mem = s.mem) ∧
      (∀ c ∈ [Instr.rdmaWrite qp psn rkey addr data p, .doorbell qp psn rkey addr data imm p],
        ((s.qp qp).place psn.toNat = .ahead → ∃ t, exec c s = .next t ∧
          t.out = s.out ++ [.roce s.hop qp (s.qp qp).rqPsn 1 []] ++ cnps ∧ t.count (pageHost + 0x50) = naks ∧
          t = { s with out := t.out, win := { s.win with counts := t.win.counts } }) ∧
        ((s.qp qp).place psn.toNat = .seen → exec c s = .next { s with out := s.out ++ [.roce s.hop qp psn.toNat 0 []] ++ cnps })) ∧
      ((s.qp qp).place psn.toNat = .expected → s.regionGrants rkey.toNat addr.toNat data.length 4 = true → s.regionGrants rkey.toNat addr.toNat
            data.length 2 = false →
        s.doorbellBad qp imm.toNat = false →
        let q := imm.toNat % 64
        ∃ t, exec (.doorbell qp psn rkey addr data imm p) s = .next t ∧ t.out = s.out ++ [.roce s.hop qp psn.toNat 0 []] ++ cnps ∧
          t.qp qp = { s.qp qp with rqPsn := next data.length } ∧ t.cqTail q = imm.toNat / 2 ^ 8 % 2 ^ 24 ∧
          t.queue q = { s.queue q with arrivals := (s.queue q).arrivals ++ [.host (imm.toNat / 2 ^ 8 % 2 ^ 24)] } ∧
          (∀ k, k ≠ q → t.queue k = s.queue k) ∧ t.mem = s.mem ∧ t.cores = s.cores) ∧
      (∃ t, exec (.unsupportedRocePacket qp psn p) s = .next t ∧ t.out = s.out ++ [.roce s.hop qp psn.toNat 2 []] ++ cnps ∧
        t.count (pageHost + 0x50) = naks ∧ t = { s with out := t.out, win := { s.win with counts := t.win.counts } }))

/-- ROCE_ACK, QP_TIMEOUT, CNP, MODIFY, QP_QUERY, HP_LINK_DOWN, HOST_RETRAIN, HOST_PORT_TRAINED and PFC_PAUSE (R378 to R381, R409, R411): an
acknowledgement covers the writes up to its own; a timeout sends again, and puts the QP into ERROR when its retries are used up; MODIFY puts
the image in force, unless it is out of range (an unlisted MTU code among that, in RESET too) or its queue is enabled; the port trains to
the highest mode that both sides allow. That a QP outside RTS drops an acknowledgement is presumed from RoCEv2 (log entry 25); that halvings
are counted, that clearing LINK_EN reports nothing, and that a port without AN_EN comes up only at MODE_MAX are the model's choices (log
entry 28). -/
def Obligations.QueuePairsAndPort : Prop :=
  ∀ (qp : Fin 256) (s : State),
    let p := s.qp qp
    let covered (psn : BitVec 24) (r : Nat × Nat × Nat × List Byte × Option Nat) : Bool := decide ((psn.toNat + 2 ^ 24 - r.1) % 2 ^ 24 < 2 ^ 23)
    let cfg := (s.stg (pageHost + 0x100)).toNat
    let cnps (k : Packet) : List Sent := if k.ecn then [.roce s.hop qp 0 6 []] else []
    (∀ psn k, s.takes k = true → p.state = 1 → ∃ t, exec (.roceAck qp psn .ack k) s = .next t ∧
          (t.qp qp).unacked = p.unacked.filter (fun r => !covered psn r) ∧
      (∀ k, k ≠ qp.val → t.qp k = s.qp k) ∧ t = { s with host := t.host, out := s.out ++ cnps k }) ∧
    (∀ psn r k, (s.takes k = false ∨ p.state ≠ 1) → exec (.roceAck qp psn r k) s = .next s) ∧
    ((p.state ≠ 1 ∨ p.unacked = []) → exec (.qpTimeout qp) s = .next s) ∧
    (p.state = 1 → p.unacked ≠ [] → p.tries < p.retry → ∃ t, exec (.qpTimeout qp) s = .next t ∧
      t.qp qp = { p with tries := p.tries + 1 } ∧ t.out.length = s.out.length + p.unacked.length ∧
      t.count (pageHost + 0x54) = min (s.count (pageHost + 0x54) + p.unacked.length) 0xFFFFFFFF ∧ t.mem = s.mem) ∧
    (p.state = 1 → p.unacked ≠ [] → p.retry ≤ p.tries → ∃ t, exec (.qpTimeout qp) s = .next t ∧ (t.qp qp).state = 2 ∧
      (t.qp qp).unacked = [] ∧ t.mem = s.mem) ∧
    (∀ k, s.takes k = true → ∃ t, exec (.cnp qp k) s = .next t ∧ t.qp qp = { p with halvings := p.halvings + 1 } ∧
      (∀ k, k ≠ qp.val → t.qp k = s.qp k) ∧ t = { s with host := t.host, out := s.out ++ cnps k }) ∧
    (∀ k, s.takes k = false → exec (.cnp qp k) s = .next s) ∧
    (s.qpResult qp = 0 → p.unacked = [] → ∃ t, exec (.modify qp) s = .next t ∧
      t.qp qp = (if (Qp.ofStage s.qpStage).state = 0 then Qp.reset else Qp.ofStage s.qpStage) ∧
      (∀ k, k ≠ qp.val → t.qp k = s.qp k) ∧ t = { s with host := t.host }) ∧
    (s.qpResult qp ≠ 0 → ∃ t, exec (.modify qp) s = .next t ∧ t.host.qps = s.host.qps ∧
      t.host.qpStat = BitVec.ofNat 32 (s.qpResult qp * 2 ^ 4 + qp * 2 ^ 8 + p.state % 4 * 2 ^ 16)) ∧
    (field s.qpStage 3 1 = 0 → s.qpInUse qp = true → 1 ≤ field s.qpStage 30 1 → field s.qpStage 30 1 ≤ 5 → s.qpResult qp = 2) ∧
    ((field s.qpStage 30 1 = 0 ∨ 5 < field s.qpStage 30 1) → s.qpResult qp = 1) ∧
    exec (.qpQuery qp) s =
      .next { s with host := { s.host with qpStat := BitVec.ofNat 32 (0 * 2 ^ 4 + qp * 2 ^ 8 + p.state % 4 * 2 ^ 16) } } ∧
    (s.host.mode = 0 → exec .hpLinkDown s = .next s) ∧
    (s.host.mode ≠ 0 → ∃ t, exec .hpLinkDown s = .next t ∧ t.host = { s.host with mode := 0, pfc := false } ∧
      (t.reg (pageHost + 0x10)).getLsbD 4 = true ∧ t.mem = s.mem) ∧
    (∃ t, exec .hostRetrain s = .next t ∧ t.host = { s.host with mode := 0, pfc := false } ∧
      t.reg (pageHost + 8) = s.reg (pageHost + 8) ||| 2#32 ∧ s.onlyRegs t [pageHost + 8]) ∧
    (∀ n : BitVec 2, (s.reg (pageHost + 8)).getLsbD 0 = true → cfg / 4 % 2 = 1 → 1 ≤ min (cfg % 4) n.toNat →
      ∃ t, exec (.hostPortTrained n) s = .next t ∧ t.host = { s.host with mode := min (cfg % 4) n.toNat } ∧
        t.reg (pageHost + 8) = s.reg (pageHost + 8) &&& ~~~2#32 ∧ s.onlyRegs t [pageHost + 8]) ∧
    (∀ n : BitVec 2, (s.reg (pageHost + 8)).getLsbD 0 = true → cfg / 4 % 2 = 0 → 1 ≤ cfg % 4 → cfg % 4 ≤ n.toNat →
      ∃ t, exec (.hostPortTrained n) s = .next t ∧ t.host = { s.host with mode := cfg % 4 }) ∧
    (∀ (prio : Fin 8) on, exec (.pfcPause prio on) s =
      .next (if cfg / 8 % 2 = 1 ∧ cfg / 16 % 8 = prio.val then { s with host := { s.host with pfc := on } } else s))

/-! ### The register window, the staged commit -/

/-- RWP_READ, RWP_WRITE and REGISTER_WRITE (R384 to R386, R462, R487, R497): a datagram to another address or port is none of this
protocol's; a request of an address that RWP_ALLOW does not list, or with another MAGIC or VER, is dropped and counted; the answer to a
repeated SEQ is the one already given; a good one is executed, counted and answered; a refused one changes no register. A write of a staged
word changes its shadow alone. A write from another chip to a guarded register changes nothing of it; none comes to a chip without a plan or
without a port that is UP (R16), and a soft reset refuses it (R461; log entry 130). By the model's choice (log entries 109 and 111) the chip's
addresses stand in network order, and both rows take a datagram whole, so that its OP decides. -/
def Obligations.RegisterAccesses : Prop :=
  ∀ (h : RwpHdr) (data : List Word) (s : State),
    ((s.takes h.packet = false ∨ h.udp.toNat ≠ s.rwpPort) → ∀ c ∈ [Instr.rwpRead h data, .rwpWrite h data], exec c s = .next s) ∧
    (s.takes h.packet = true → h.udp.toNat = s.rwpPort → (s.rwpAllowed h.src = none ∨ h.magic ≠ 0x5257#16 ∨ h.ver ≠ 1#8) →
      ∀ c ∈ [Instr.rwpRead h data, .rwpWrite h data], ∃ t, exec c s = .next t ∧
      t.count (pageHost + 0x4C) = min (s.count (pageHost + 0x4C) + 1) 0xFFFFFFFF ∧
      t = { s with win := { s.win with counts := t.win.counts } }) ∧
    (∀ i, s.takes h.packet = true → h.udp.toNat = s.rwpPort → s.rwpAllowed h.src = some i → h.magic = 0x5257#16 → h.ver = 1#8 →
      (∀ bytes, look (fun _ => none) s.host.rwpLast i = some (h.seq.toNat, bytes) →
        ∀ c ∈ [Instr.rwpRead h data, .rwpWrite h data], exec c s = .next (s.send (.rwp s.hop h.src s.rwpPort bytes))) ∧
      ((∀ q b, look (fun _ => none) s.host.rwpLast i = some (q, b) → q ≠ h.seq.toNat) →
        (h.op = 1#8 → data = [] → rwpStatus h true = 0 → exec (.rwpRead h data) s =
          .next (((s.regReads classRwp h.addr.toNat h.count).2.bump (pageHost + 0x48)).rwpAnswer h i
            (rwpBytes h 0x81 0 (s.regReads classRwp h.addr.toNat h.count).1))) ∧
        (h.op = 2#8 → data.length = h.count → rwpStatus h true = 0 → exec (.rwpWrite h data) s =
          .next (((s.regWrites classRwp h.addr.toNat data).bump (pageHost + 0x48)).rwpAnswer h i (rwpBytes h 0x82 0 []))) ∧
        (h.op = 1#8 → data = [] → rwpStatus h true ≠ 0 → ∃ t, exec (.rwpRead h data) s = .next t ∧
          t.out = s.out ++ [.rwp s.hop h.src s.rwpPort (rwpBytes h 0xFF (rwpStatus h true) [])] ∧ t.win = s.win ∧ t.mem = s.mem) ∧
        (h.op ≠ 2#8 → (h.op ≠ 1#8 ∨ data ≠ []) → ∃ t, exec (.rwpRead h data) s = .next t ∧
          t.out = s.out ++ [.rwp s.hop h.src s.rwpPort (rwpBytes h 0xFF 3 [])] ∧ t.win = s.win ∧ t.mem = s.mem) ∧
        (h.op = 2#8 → data.length ≠ h.count → ∃ t, exec (.rwpWrite h data) s = .next t ∧
          t.out = s.out ++ [.rwp s.hop h.src s.rwpPort (rwpBytes h 0xFF 3 [])] ∧ t.win = s.win ∧ t.mem = s.mem))) ∧
    (∀ (who : Requester) (off v : Word) (m : Word) (b : Nat), regKind off.toNat = .stg m → offsetBlock off.toNat = some b →
      s.commit.pending.contains b = false → secureReg off.toNat = false →
      (off.toNat < 0x0200000 ∨ 0x0300000 ≤ off.toNat) → (who = .remote → s.linked = true ∧ s.sec.softReset = false) →
      ∃ t, exec (.registerWrite who off v) s = .next t ∧ t.shadow off.toNat = v ∧ (∀ o, o ≠ off.toNat → t.shadow o = s.shadow o) ∧
        (∀ o, t.stg o = s.stg o) ∧ look (fun _ => false) t.win.written off.toNat = true ∧
        t = { s with win := { s.win with shadow := t.win.shadow, written := t.win.written } }) ∧
    (∀ off v : Word, s.linked = false → exec (.registerWrite .remote off v) s = .next s) ∧
    (∀ off v : Word, s.linked = true → s.sec.softReset = true → exec (.registerWrite .remote off v) s =
      .next ((s.recordCode eSecResetting 0).logError eSecResetting 0 false 0#32)) ∧
    (∀ off v : Word, s.linked = true → s.sec.softReset = false → secureReg off.toNat = true → ∃ t, exec (.registerWrite .remote off v) s = .next t ∧
      t.reg off.toNat = s.reg off.toNat ∧ t.win.active = s.win.active ∧ t.win.shadow = s.win.shadow ∧ t.commit = s.commit ∧
      t.mem = s.mem ∧ t.cores = s.cores ∧ (t.reg 0x10).getLsbD 7 = true)

/-- COMMIT, COMMIT_APPLY, DISCARD, SFU_SWAP and QUIET_TIMEOUT (R155, R493 to R496): a commit or a discard during a commit is a LIVE_WRITE; a
commit whose checks pass names its blocks and waits for their quiet points; one whose checks fail is refused with the first failure; the
apply puts every written word of all its blocks in force, but that CC_CLEAR clears its counters and reads 0 (R114), SWAP clears itself, and an
EPOCH that is not written counts up (R28); CHIP_ID takes PLAN_CHIP (R368), a lace's COLL_SEQ begins at 0 (R321), a queue that is enabled at
index 0 (R412), and a port whose EN changes trains or is disabled (R495); a discard puts the values in force back into the shadows; a commit
that does not find its quiet point is refused. After a fatal error none does anything (R445). -/
def Obligations.CommitSequence : Prop :=
  (∀ (s : State) (c : Fin 8), s.fatal = true → exec .commit s = .next s ∧ exec .discard s = .next s ∧ exec .commitApply s = .next s ∧
    exec (.sfuSwap c) s = .next s ∧ exec .quietTimeout s = .next s) ∧
  ∀ s : State, s.fatal = false →
    let bs := s.namedBlocks
    (s.commit.busy = true → exec .discard s = .next (s.errBit pageGlobal 0) ∧ exec .commit s = .next (s.errBit pageGlobal 0)) ∧
    (s.commit.busy = false →
      (let u : State := { s with commit := { s.commit with
          busy := true, quiet := false, refused := s.commit.refused.filter fun b => !bs.contains b } }
       (u.commitFailure bs = none → ∃ t, exec .commit s = .next t ∧ t.commit = { u.commit with quiet := true, pending := bs } ∧
          t.win = s.win ∧ t.mem = s.mem ∧ t.out = s.out) ∧
       (∀ reason block detail, u.commitFailure bs = some (reason, block, detail) → ∃ t, exec .commit s = .next t ∧
          t.commit.busy = false ∧ t.commit.reason = reason ∧ t.commit.block = block ∧ t.commit.detail = detail ∧ t.commit.pending = [] ∧
          (∀ o, t.stg o = s.stg o ∧ t.shadow o = s.shadow o) ∧ t.mem = s.mem ∧
          t.count 0x70 = min (s.count 0x70 + 1) 0xFFFFFFFF)) ∧
      (∃ t, exec .discard s = .next t ∧ t.commit.busy = false ∧ t.commit.reason = 0 ∧ t.commit.pending = [] ∧
        (∀ b ∈ bs, ∀ o ∈ s.writtenOf b, t.shadow o = s.stg o) ∧ (∀ b ∈ bs, t.writtenOf b = []) ∧
        (∀ o, t.stg o = s.stg o) ∧ t.mem = s.mem ∧ t.cores = s.cores)) ∧
    (s.commitReady = false → exec .commitApply s = .next s ∧ ∀ c, exec (.sfuSwap c) s = .next s) ∧
    (s.commitReady = true →
      (∃ t, exec .commitApply s = .next t ∧ t.commit.busy = false ∧ t.commit.quiet = false ∧ t.commit.reason = 0 ∧
        t.commit.pending = []) ∧
      (let ps := s.commit.pending
       let os := (ps.map s.writtenOf).flatten
       let val (o : Nat) : Word := if o ∈ os then s.shadow o else s.stg o
       let clear (o : Nat) : Prop := 4 ∈ ps ∧ ∃ w < 128, o = pageSync + 0x400 + 4 * w
       let epoch (o : Nat) : Prop := (∃ e ∈ s.changedGroups ps, o = 0x2000 + 32 * e + 20) ∨
         ∃ l ∈ s.changedLaces ps, o = pageCirc + 0x100 + 32 * l + 28
       let swap (n : Nat) : Nat := pageCore n + 0x2100
       ∃ t, exec .commitApply s = .next t ∧
        (∀ o, ¬ clear o → ¬ epoch o → (∀ n < 8, o ≠ swap n) → t.stg o = val o) ∧
        (∀ o, clear o → t.stg o = 0#32) ∧ (∀ o, epoch o → t.stg o = if o ∈ os then s.shadow o else s.stg o + 1#32) ∧
        (∀ n < 8, t.stg (swap n) &&& 0xFFFFFFFD#32 = val (swap n) &&& 0xFFFFFFFD#32) ∧
        (∀ w < 128, ∀ k < 32, 4 ∈ ps → (val (pageSync + 0x400 + 4 * w)).getLsbD k = true → t.chipCtr (32 * w + k) = 0) ∧
        (0x3F ∈ ps → t.reg 0x40 = t.stg (pageLinks + 0x100) &&& 0xFFFFF#32) ∧
        (∀ l ∈ s.changedLaces ps, look noCount t.coll.seq l = 0) ∧
        (∀ q < 64, 0x0A ∈ ps → s.cqEn q = false → t.cqEn q = true → t.cqHead q = 0 ∧ t.cqTail q = 0) ∧
        (∀ p < 18, 0x20 + p ∈ ps → s.portEn p ≠ t.portEn p → t.portState p = if t.portEn p then 1 else 4) ∧
        (∀ b ∈ ps, look noCount t.commit.applied b = (look noCount s.commit.applied b + 1) % 2 ^ 16 ∨ ps.count b ≠ 1) ∧
        t.count 0x6C = min (s.count 0x6C + 1) 0xFFFFFFFF ∧
        (5 ∉ ps → (∀ p < 18, 0x20 + p ∉ ps) → t.mem.t0 = s.mem.t0)) ∧
      (∀ c : Fin 8, s.commit.pending = [0x10 + c.val] → (s.core c).sfu.swapPending = true → (s.core c).eng.flight = none →
        ∃ t, exec (.sfuSwap c) s = .next t ∧ (t.core c).sfu.active = (!(s.core c).sfu.active) ∧ (t.core c).sfu.swapPending = false ∧
          (t.core c).sfu.bank0 = (s.core c).sfu.bank0 ∧ (t.core c).sfu.bank1 = (s.core c).sfu.bank1 ∧
          (t.stg (pageCore c + 0x2100)).getLsbD 1 = false ∧
          t.count (pageCore c + 0x2010) = min (s.count (pageCore c + 0x2010) + 1) 0xFFFFFFFF ∧ s.onlyCore t c ∧ t.mem = s.mem)) ∧
    (∀ b, s.commit.busy = true → s.commit.quiet = true → s.commit.pending.find? (fun b => !s.blockQuiet b) = some b →
      ∃ t, exec .quietTimeout s = .next t ∧ t.commit.busy = false ∧ t.commit.reason = 0x0F ∧ t.commit.block = b ∧
        t.commit.pending = [] ∧ (∀ o, t.stg o = s.stg o ∧ t.shadow o = s.shadow o)) ∧
    ((s.commit.busy = false ∨ s.commit.quiet = false) → exec .quietTimeout s = .next s)

/-! ### SMBus and JTAG -/

/-- The SMBus commands, SMB_ARP, SMB_TIMEOUT, SMB_UNLISTED_COMMAND, JTAG_TAP_RESET and TAP_INSTRUCTION (R483, R511, R512): with the chip out
of reset each read command answers its word or block with its packet error code and changes nothing else; the address protocol sets the
address and its resolved flag, by a general command or one to the target's own address; an unlisted command is not acknowledged; a TAP reset
selects BYPASS, and so does a private instruction without its permission. Presumed: the error code and the address protocol of SMBus 3.2 (log
entry 23) and the TAP of IEEE 1149.1 (log entry 24). The model's choices: a transaction in a reset has no answer (log entry 117), and a private
instruction with its permission is refused by name (log entry 7). -/
def Obligations.SideInterfaces : Prop :=
  ∀ s : State,
    (∀ c code v, (c, code, v) ∈ [(Instr.smbStatus, 0x01, s.smbStatus), (.smbTempMax, 0x02, s.powerWord 0x4C),
        (.smbPwrEst, 0x03, s.powerWord 0x44), (.smbPwrAvg, 0x04, s.powerWord 0x48), (.smbFatalCode, 0x05, s.pageVal 0 0x210 % 2 ^ 16),
        (.smbLcState, 0x06, s.pageVal 0 0x804 % 2 ^ 16)] → s.sec.inReset = false →
      ∃ (t : State) (crc : Byte), exec c s = .next t ∧ t.out = s.out ++ [.smbus (some (bytesOf 2 v ++ [crc]))] ∧
        crc.toNat = pec [BitVec.ofNat 8 (2 * s.side.address), BitVec.ofNat 8 code, BitVec.ofNat 8 (2 * s.side.address + 1),
          BitVec.ofNat 8 v, BitVec.ofNat 8 (v / 256)] % 256 ∧ t = { s with out := t.out }) ∧
    (∀ c n v, (c, n, v) ∈ [(Instr.smbChipId, 4, s.pageVal 0 0x40), (.smbSerial, 8, Config.serial.toNat),
        (.smbDevice, 4, s.pageVal 0 0x44), (.smbEnergy, 8, s.wideVal 1 0x50 0x0100050)] →
      s.sec.inReset = false → ∃ (t : State) (crc : Byte), exec c s = .next t ∧
        t.out = s.out ++ [.smbus (some ([BitVec.ofNat 8 n] ++ bytesOf n v ++ [crc]))] ∧ t = { s with out := t.out }) ∧
    (∀ c ∈ [Instr.smbStatus, .smbTempMax, .smbPwrEst, .smbPwrAvg, .smbFatalCode, .smbLcState, .smbChipId, .smbSerial, .smbDevice, .smbEnergy,
        .smbArp .prepare, .smbArp .resetDevice, .smbArp .getUdid], s.sec.inReset = true → exec c s = .next (s.send (.smbus none))) ∧
    (∀ (a : BitVec 7) hit, s.sec.inReset = true → ∀ c ∈ [Instr.smbArp (.resetDeviceAt a), .smbArp (.getUdidAt a), .smbArp (.assign hit a)],
      exec c s = .next (s.send (.smbus none))) ∧
    (∀ a : BitVec 7, s.sec.inReset = false → s.side.address = a.toNat →
      exec (.smbArp (.resetDeviceAt a)) s = exec (.smbArp .resetDevice) s ∧ ∃ crc : Byte, exec (.smbArp (.getUdidAt a)) s =
        .next (s.send (.smbus (some (17#8 :: udid ++ [BitVec.ofNat 8 (2 * s.side.address + 1), crc]))))) ∧
    (∀ a : BitVec 7, s.side.address ≠ a.toNat → ∀ c ∈ [Instr.smbArp (.resetDeviceAt a), .smbArp (.getUdidAt a)],
      exec c s = .next (s.send (.smbus none))) ∧
    (∀ a : BitVec 7, s.sec.inReset = false → ∃ t, exec (.smbArp (.assign true a)) s = .next t ∧ t.side = { s.side with address := a.toNat, resolved := true } ∧
      t.out = s.out ++ [.smbus (some [])] ∧ t = { s with side := t.side, out := t.out }) ∧
    (s.sec.inReset = false → ∃ t, exec (.smbArp .prepare) s = .next t ∧ t.side = { s.side with resolved := false } ∧ t = { s with side := t.side, out := t.out }) ∧
    (s.sec.inReset = false → exec (.smbArp .resetDevice) s =
      .next { s with side := { s.side with address := 0x5A, resolved := false }, out := s.out ++ [.smbus (some [])] }) ∧
    (s.sec.inReset = false → s.side.resolved = false → ∃ crc : Byte, exec (.smbArp .getUdid) s =
      .next (s.send (.smbus (some (17#8 :: udid ++ [BitVec.ofNat 8 (2 * s.side.address + 1), crc]))))) ∧
    (s.side.resolved = true → exec (.smbArp .getUdid) s = .next (s.send (.smbus none))) ∧
    (∀ a, exec (.smbArp (.assign false a)) s = .next (s.send (.smbus none))) ∧
    exec .smbTimeout s = .next s ∧
    (∀ code isWrite, (isWrite = true ∨ code.toNat = 0 ∨ 0x0A < code.toNat) →
      exec (.smbUnlistedCommand code isWrite) s = .next (s.send (.smbus none))) ∧
    exec .jtagTapReset s = .next { s with side := { s.side with tap := 0 } } ∧
    (∀ c r, (c, r) ∈ [(TapOp.extest, 1), (.samplePreload, 1), (.bypass, 0)] → exec (.tapInstruction c) s =
      .next { s with side := { s.side with tap := r }, out := s.out ++ if s.sec.inReset then [] else [.tap r] }) ∧
    (∀ code, s.debugPerm 2 = false → exec (.tapInstruction (.privateDebug code)) s = exec (.tapInstruction .bypass) s) ∧
    (∀ code, s.debugPerm 2 = true → exec (.tapInstruction (.privateDebug code)) s = .refused .privateDebugInstruction)

/-! ### Reset and invariants -/

/-- What the registers hold at reset (R498, R500): the identity and planning registers, the power settings, the timeouts, the link ports and
the queues as their tables give them. -/
def Obligations.ResetValues : Prop :=
  State.reset.reg 0x40 = 0xFFFFF#32 ∧ State.reset.reg 0x74 = 0x64#32 ∧ State.reset.reg 0x810 = 1#32 ∧
  State.reset.stg 0x0100100 = 0x578#32 ∧ State.reset.stg 0x0100104 = 0xA#32 ∧
  State.reset.stg 0x0100108 = (if Config.isVariantE then 0x1F#32 else 0x1E#32) ∧ State.reset.stg 0x0100110 = 0x6469#32 ∧
  State.reset.stg 0x0400100 = 0x64#32 ∧ State.reset.stg 0x0500108 = 0x1F4#32 ∧ State.reset.stg 0x0700100 = 0xA#32 ∧
  State.reset.stg 0x0920100 = 0xFFFFF#32 ∧ State.reset.stg 0x0A00100 = 0x37#32 ∧
  (∀ p, p < 16 → State.reset.stg (pageLink p + 0x100) = 0xB#32) ∧ (∀ p, p < 18 → State.reset.reg (pageLink p + 0x4C) = 0xFFFFF#32) ∧
  (∀ q, q < 64 → State.reset.stg (cqPage q) = 0x34#32 ∧ State.reset.stg (cqPage q + 0xC) = 6#32) ∧
  (∀ n, n < 8 → State.reset.reg (pageCore n + 0x50) = 0x00010000#32) ∧ (∀ n i, State.reset.coreCtr n i = 0 ∧ State.reset.chipCtr i = 0) ∧
  State.reset.mem.wf = true ∧ State.reset.mem.wiping = false ∧ State.reset.pending = [] ∧ State.reset.fatal = false ∧
        (∀ n, (State.reset.core n).eng.flight = none)

/-- The memories keep their canonical form: no step lists an address twice, out of order, or with the value it reads as anyway. While a
wipe runs no placement table underlies T1. -/
def Obligations.StepsKeepMemoryForm : Prop :=
  ∀ s t : State, s.mem.wf = true → (s.mem.wiping = true → s.mem.tables = []) → step s = .next t →
    t.mem.wf = true ∧ (t.mem.wiping = true → t.mem.tables = [])

/-- A chip that a class 3 error has stopped stays stopped (R445) until a cold or a warm reset. -/
def Obligations.FatalStands : Prop :=
  ∀ (s t : State) (c : Instr), s.fatal = true → c ≠ .coldReset → c ≠ .warmReset → exec c s = .next t → t.fatal = true

/-! ### Rules stated whole -/

/-- R479 (the states are 0 TEST, 1 PROVISION, 2 DEPLOYED, 3 RETURN, 4 RETIRED): the four transitions of its table go on to the discard with
which R480 begins, the two that need a token only where it passes; every other request, and every one of a CZ-5120-E but to RETIRED, ends
with RESULT STATE, which is 3, and sets the bit of `LC_DENIED`. -/
def Obligations.LifeCycleTransitions : Prop :=
  ∀ (n : Fin 8) (s : State), s.mem.wiping = false → s.sec.mbox = none → s.disc.busy = false → s.fatal = false →
    let f := s.sec.lc
    let free := (n.val = 4 ∧ f ≠ 4) ∨ (Config.isVariantE = false ∧ f = 1 ∧ n.val = 2 ∧ s.sec.provisioned = true)
    let token := Config.isVariantE = false ∧ ((f = 0 ∧ n.val = 1) ∨ (f = 2 ∧ n.val = 3))
    let bytes := s.t1Seen s.mboxAddr tokenBytes
    (free → ∃ t, exec (.lcTransition n) s = .next t ∧ t.disc.busy = true ∧ t.sec.mbox = some ⟨3, n.val, s.mboxAddr, none, none⟩ ∧ t.sec.lc = f) ∧
    (token → s.mboxAddr % 64 = 0 → s.mboxAddr + tokenBytes ≤ t1Bytes → s.poisonIn s.mboxAddr tokenBytes = none →
      let good := s.tokenOk 2 bytes = true ∧ field bytes 5 1 = n.val
      ∃ t, exec (.lcTransition n) s = .next t ∧ t.disc.busy = decide good ∧
        t.sec.mbox = some ⟨3, n.val, s.mboxAddr, none, if good then none else some 2⟩ ∧ t.sec.lc = f) ∧
    (¬ free → ¬ token →
      ∃ t, exec (.lcTransition n) s = .next t ∧ t.disc.busy = false ∧ t.sec.mbox = some ⟨3, n.val, s.mboxAddr, none, some 3⟩ ∧ t.sec.lc = f ∧
        (t.reg 0x818).getLsbD 7 = true)

/-- R459: at the end of a T1 wipe, before the accesses that waited are performed, and at a commit that changes PT_BASE, whatever other blocks it
names, every entry of the placement table is free and has generation 1; so its first handle is not the null handle. -/
def Obligations.PlacementTableStartsFree : Prop :=
  ∀ s : State, s.fatal = false →
    (s.mem.wiping = true →
      ∃ u : State, exec .t1WipeEnd s =
          .next (s.mem.held.foldl (fun s i => if s.mem.wiping then s.holdAccess i else s.perform i) u) ∧
        u.ptBase = s.ptBase ∧ u.mem.wiping = false ∧
        ∀ i, i < 65536 → (u.entry i).policy = 0 ∧ (u.entry i).gen = 1 ∧ field (u.t1 (u.ptBase + 64 * i) 4) 0 4 = i + 2 ^ 16) ∧
    (s.commitReady = true → s.mem.wiping = false → 5 ∈ s.commit.pending → s.ptBaseWritten = true →
      ∃ t, exec .commitApply s = .next t ∧ (∀ o ∈ s.writtenOf 5, t.stg o = s.shadow o) ∧
        ∀ i, i < 65536 → (t.entry i).policy = 0 ∧ (t.entry i).gen = 1 ∧ field (t.t1 (t.ptBase + 64 * i) 4) 0 4 = i + 2 ^ 16) ∧
    ∀ i, i + 2 ^ 16 ≠ 0
end

