-- ==== Sys2Proof/Laws/Tab.lean ====
section
/-! SUPPORT. Laws of sparse tables: a read after a write, and the canonical form, which every operation keeps. -/

namespace Sys2Proof.Machine

variable {α : Type} [DecidableEq α] {d : Nat → α} {t : Tab α}

omit [DecidableEq α] in
@[simp] theorem look_nil (k : Nat) : look d [] k = d k := rfl

omit [DecidableEq α] in
theorem look_of_rising_lt {lo k : Nat} (h : risingFrom lo t = true) (hk : k < lo) : look d t k = d k := by
  induction t generalizing lo with
  | nil => rfl
  | cons e t ih =>
    obtain ⟨j, w⟩ := e
    simp only [risingFrom, Bool.and_eq_true, decide_eq_true_eq] at h
    have hj : j ≠ k := by omega
    simp only [look, if_neg hj]
    exact ih h.2 (by omega)

omit [DecidableEq α] in
theorem risingFrom_mono {lo lo' : Nat} (h : risingFrom lo t = true) (hl : lo' ≤ lo) : risingFrom lo' t = true := by
  cases t with
  | nil => rfl
  | cons e t =>
    simp only [risingFrom, Bool.and_eq_true, decide_eq_true_eq] at h ⊢
    exact ⟨by omega, h.2⟩

omit [DecidableEq α] in
theorem look_filter_ne {k j : Nat} (h : j ≠ k) : look d (t.filter fun e => decide (e.1 ≠ k)) j = look d t j := by
  induction t with
  | nil => rfl
  | cons e t ih =>
    obtain ⟨i, w⟩ := e
    by_cases hi : i = k
    · subst hi; simpa [look, Ne.symm h] using ih
    · simp only [ne_eq, hi, not_false_eq_true, decide_true, List.filter_cons_of_pos, look]
      split
      · rfl
      · exact ih

omit [DecidableEq α] in
theorem look_filter_self (k : Nat) : look d (t.filter fun e => decide (e.1 ≠ k)) k = d k := by
  induction t with
  | nil => rfl
  | cons e t ih =>
    obtain ⟨i, w⟩ := e
    by_cases hi : i = k
    · subst hi; simpa using ih
    · simp only [ne_eq, hi, not_false_eq_true, decide_true, List.filter_cons_of_pos, look, if_false]
      exact ih

omit [DecidableEq α] in
theorem look_place (k j : Nat) (v : α) : look d (place t k v) j = if j = k then v else look d t j := by
  induction t with
  | nil => simp only [place, look, eq_comm]
  | cons e t ih =>
    obtain ⟨i, w⟩ := e
    simp only [place]
    split
    · simp only [look, ih]
      split
      · rename_i hlt hij; rw [if_neg (by omega)]
      · rfl
    · split
      · rename_i hik; subst hik
        simp only [look, eq_comm]
        split <;> rfl
      · simp only [look, eq_comm (a := k)]

/-- A read after a write: the value written at its key, what stood there at every other key. -/
theorem look_store (k j : Nat) (v : α) : look d (store d t k v) j = if j = k then v else look d t j := by
  simp only [store]
  split
  · rename_i hv
    split
    · rename_i e; subst e; rw [look_filter_self, hv]
    · rename_i e; exact look_filter_ne e
  · exact look_place k j v

@[simp] theorem look_store_self (k : Nat) (v : α) : look d (store d t k v) k = v := by simp [look_store]

theorem look_store_ne {k j : Nat} (v : α) (h : j ≠ k) : look d (store d t k v) j = look d t j := by simp [look_store, h]

omit [DecidableEq α] in
theorem filter_rising {lo : Nat} (p : Nat × α → Bool) (h : risingFrom lo t = true) : risingFrom lo (t.filter p) = true := by
  induction t generalizing lo with
  | nil => rfl
  | cons e t ih =>
    simp only [risingFrom, Bool.and_eq_true, decide_eq_true_eq] at h
    rw [List.filter_cons]
    split
    · simp only [risingFrom, Bool.and_eq_true, decide_eq_true_eq]; exact ⟨h.1, ih h.2⟩
    · exact risingFrom_mono (ih h.2) (by omega)

omit [DecidableEq α] in
theorem place_rising {lo k : Nat} (v : α) (h : risingFrom lo t = true) (hk : lo ≤ k) : risingFrom lo (place t k v) = true := by
  induction t generalizing lo with
  | nil => simp [place, risingFrom, hk]
  | cons e t ih =>
    obtain ⟨i, w⟩ := e
    simp only [risingFrom, Bool.and_eq_true, decide_eq_true_eq] at h
    simp only [place]
    split
    · simp only [risingFrom, Bool.and_eq_true, decide_eq_true_eq]
      exact ⟨h.1, ih h.2 (by omega)⟩
    · split
      · rename_i hik; subst hik
        simpa only [risingFrom, Bool.and_eq_true, decide_eq_true_eq] using h
      · simp only [risingFrom, Bool.and_eq_true, decide_eq_true_eq]
        exact ⟨hk, by omega, h.2⟩

omit [DecidableEq α] in
theorem place_all {k : Nat} {v : α} (p : Nat × α → Bool) (h : t.all p = true) (hv : p (k, v) = true) :
    (place t k v).all p = true := by
  induction t with
  | nil => simp [place, hv]
  | cons e t ih =>
    obtain ⟨i, w⟩ := e
    simp only [List.all_cons, Bool.and_eq_true] at h
    simp only [place]
    split
    · simp only [List.all_cons, Bool.and_eq_true]; exact ⟨h.1, ih h.2⟩
    · split <;> simp_all

/-- A write keeps the canonical form. -/
theorem store_canonical (k : Nat) (v : α) (h : Canonical d t = true) : Canonical d (store d t k v) = true := by
  simp only [Canonical, Bool.and_eq_true] at h ⊢
  simp only [store]
  split
  · refine ⟨filter_rising _ h.1, ?_⟩
    simp only [List.all_eq_true, List.mem_filter, and_imp] at h ⊢
    exact fun e he _ => h.2 e he
  · rename_i hv
    exact ⟨place_rising v h.1 (Nat.zero_le k), place_all _ h.2 (by simpa using hv)⟩

theorem modify_canonical (k : Nat) (f : α → α) (h : Canonical d t = true) : Canonical d (modify d t k f) = true :=
  store_canonical k _ h

@[simp] theorem canonical_nil : Canonical d [] = true := rfl

theorem storeList_canonical (k : Nat) (vs : List α) (h : Canonical d t = true) : Canonical d (storeList d t k vs) = true := by
  induction vs generalizing t k with
  | nil => exact h
  | cons v vs ih => exact ih (k + 1) (store_canonical k v h)

/-- A write of consecutive keys leaves every key outside them alone. -/
theorem look_storeList_outside {k j : Nat} (vs : List α) (h : j < k ∨ k + vs.length ≤ j) :
    look d (storeList d t k vs) j = look d t j := by
  induction vs generalizing t k with
  | nil => rfl
  | cons v vs ih =>
    simp only [List.length_cons] at h
    rw [storeList, ih (by omega), look_store_ne v (by omega)]

omit [DecidableEq α] in
theorem lookList_eq_map (k n : Nat) : lookList d t k n = (List.range n).map fun i => look d t (k + i) := by
  induction n generalizing k with
  | zero => rfl
  | succ n ih =>
    rw [lookList, ih, List.range_succ_eq_map, List.map_cons, List.map_map]
    congr 1
    apply List.map_congr_left
    intro i _
    simp only [Function.comp, Nat.succ_eq_add_one]
    congr 1; omega

omit [DecidableEq α] in
@[simp] theorem lookList_length (k n : Nat) : (lookList d t k n).length = n := by simp [lookList_eq_map]

theorem look_storeList_inside (vs : List α) (k i : Nat) (hi : i < vs.length) : look d (storeList d t k vs) (k + i) = vs[i] := by
  induction vs generalizing t k i with
  | nil => simp at hi
  | cons w ws ih =>
    rw [storeList]
    cases i with
    | zero => rw [look_storeList_outside ws (by omega)]; simp
    | succ i =>
      rw [show k + (i + 1) = k + 1 + i by omega, ih (k + 1) i (by simpa using hi)]
      rfl

/-- A read of what has been written gives it back. -/
theorem lookList_storeList (k : Nat) (vs : List α) : lookList d (storeList d t k vs) k vs.length = vs := by
  rw [lookList_eq_map]
  apply List.ext_getElem
  · simp
  · intro i hi _
    simp only [List.getElem_map, List.getElem_range]
    exact look_storeList_inside vs k i (by simpa using hi)

/-- Forgetting keys keeps the canonical form, also under another default that agrees on the keys kept. -/
theorem restrict_canonical {d' : Nat → α} (keep : Nat → Bool) (h : Canonical d t = true) (hd : ∀ k, keep k = true → d' k = d k) :
    Canonical d' (restrict keep t) = true := by
  simp only [Canonical, Bool.and_eq_true] at h ⊢
  refine ⟨filter_rising _ h.1, ?_⟩
  simp only [restrict, List.all_eq_true, List.mem_filter, decide_eq_true_eq, and_imp] at h ⊢
  intro e he hk
  rw [hd e.1 hk]
  exact h.2 e he

omit [DecidableEq α] in
theorem look_restrict (keep : Nat → Bool) (k : Nat) : look d (restrict keep t) k = if keep k then look d t k else d k := by
  induction t with
  | nil => simp [restrict, look]
  | cons e t ih =>
    obtain ⟨j, w⟩ := e
    simp only [restrict, List.filter_cons] at ih ⊢
    by_cases hj : keep j = true
    · simp only [hj, if_true, look]
      by_cases hjk : j = k
      · subst hjk; simp [hj]
      · simp only [if_neg hjk]; exact ih
    · simp only [hj, look]
      by_cases hjk : j = k
      · subst hjk; rw [if_neg (by simp), ih]; simp [hj]
      · simp only [if_neg hjk]; exact ih

end Sys2Proof.Machine
end

