-- ==== Sys2Proof/Laws/State.lean ====
section
/-! SUPPORT. Laws of the state's named updates: what each reads as afterwards, field by field and through every accessor. -/

namespace Sys2Proof.Machine

/-! ### What an update leaves alone -/

@[simp] theorem State.setReg_commit (s : State) (o : Nat) (v : Word) : (s.setReg o v).commit = s.commit := rfl
@[simp] theorem State.setReg_time (s : State) (o : Nat) (v : Word) : (s.setReg o v).time = s.time := rfl
@[simp] theorem State.setReg_cores (s : State) (o : Nat) (v : Word) : (s.setReg o v).cores = s.cores := rfl
@[simp] theorem State.setReg_sync (s : State) (o : Nat) (v : Word) : (s.setReg o v).sync = s.sync := rfl
@[simp] theorem State.setReg_mem (s : State) (o : Nat) (v : Word) : (s.setReg o v).mem = s.mem := rfl
@[simp] theorem State.setReg_tier (s : State) (o : Nat) (v : Word) : (s.setReg o v).tier = s.tier := rfl
@[simp] theorem State.setReg_cmd (s : State) (o : Nat) (v : Word) : (s.setReg o v).cmd = s.cmd := rfl
@[simp] theorem State.setReg_host (s : State) (o : Nat) (v : Word) : (s.setReg o v).host = s.host := rfl
@[simp] theorem State.setReg_disc (s : State) (o : Nat) (v : Word) : (s.setReg o v).disc = s.disc := rfl
@[simp] theorem State.setReg_fatal (s : State) (o : Nat) (v : Word) : (s.setReg o v).fatal = s.fatal := rfl
@[simp] theorem State.setReg_links (s : State) (o : Nat) (v : Word) : (s.setReg o v).links = s.links := rfl
@[simp] theorem State.setReg_coll (s : State) (o : Nat) (v : Word) : (s.setReg o v).coll = s.coll := rfl
@[simp] theorem State.setReg_circ (s : State) (o : Nat) (v : Word) : (s.setReg o v).circ = s.circ := rfl
@[simp] theorem State.setReg_queries (s : State) (o : Nat) (v : Word) : (s.setReg o v).queries = s.queries := rfl
@[simp] theorem State.setReg_power (s : State) (o : Nat) (v : Word) : (s.setReg o v).power = s.power := rfl
@[simp] theorem State.setReg_sec (s : State) (o : Nat) (v : Word) : (s.setReg o v).sec = s.sec := rfl
@[simp] theorem State.setReg_side (s : State) (o : Nat) (v : Word) : (s.setReg o v).side = s.side := rfl
@[simp] theorem State.setReg_free (s : State) (o : Nat) (v : Word) : (s.setReg o v).free = s.free := rfl
@[simp] theorem State.setReg_out (s : State) (o : Nat) (v : Word) : (s.setReg o v).out = s.out := rfl
@[simp] theorem State.setReg_pending (s : State) (o : Nat) (v : Word) : (s.setReg o v).pending = s.pending := rfl
@[simp] theorem State.setReg_stg (s : State) (o : Nat) (v : Word) (a : Nat) : (s.setReg o v).stg a = s.stg a := rfl
@[simp] theorem State.setReg_shadow (s : State) (o : Nat) (v : Word) (a : Nat) : (s.setReg o v).shadow a = s.shadow a := rfl
@[simp] theorem State.setReg_count (s : State) (o : Nat) (v : Word) (a : Nat) : (s.setReg o v).count a = s.count a := rfl
@[simp] theorem State.setReg_core (s : State) (o : Nat) (v : Word) (a : Nat) : (s.setReg o v).core a = s.core a := rfl
@[simp] theorem State.setReg_queue (s : State) (o : Nat) (v : Word) (a : Nat) : (s.setReg o v).queue a = s.queue a := rfl
@[simp] theorem State.setReg_bar (s : State) (o : Nat) (v : Word) (a : Nat) : (s.setReg o v).bar a = s.bar a := rfl
@[simp] theorem State.setReg_port (s : State) (o : Nat) (v : Word) (a : Nat) : (s.setReg o v).port a = s.port a := rfl
@[simp] theorem State.setReg_cache (s : State) (o : Nat) (v : Word) (a : Nat) : (s.setReg o v).cache a = s.cache a := rfl
@[simp] theorem State.setReg_chipCtr (s : State) (o : Nat) (v : Word) (a : Nat) : (s.setReg o v).chipCtr a = s.chipCtr a := rfl
@[simp] theorem State.setReg_t0 (s : State) (o : Nat) (v : Word) (a b' : Nat) : (s.setReg o v).t0 a b' = s.t0 a b' := rfl
@[simp] theorem State.setReg_t1 (s : State) (o : Nat) (v : Word) (a b' : Nat) : (s.setReg o v).t1 a b' = s.t1 a b' := rfl
@[simp] theorem State.setReg_flight (s : State) (o : Nat) (v : Word) (a : Nat) : (s.setReg o v).flight? a = s.flight? a := rfl
@[simp] theorem State.setReg_qp (s : State) (o : Nat) (v : Word) (a : Nat) : (s.setReg o v).qp a = s.qp a := rfl
@[simp] theorem State.setShadow_commit (s : State) (o : Nat) (v : Word) : (s.setShadow o v).commit = s.commit := rfl
@[simp] theorem State.setShadow_time (s : State) (o : Nat) (v : Word) : (s.setShadow o v).time = s.time := rfl
@[simp] theorem State.setShadow_cores (s : State) (o : Nat) (v : Word) : (s.setShadow o v).cores = s.cores := rfl
@[simp] theorem State.setShadow_sync (s : State) (o : Nat) (v : Word) : (s.setShadow o v).sync = s.sync := rfl
@[simp] theorem State.setShadow_mem (s : State) (o : Nat) (v : Word) : (s.setShadow o v).mem = s.mem := rfl
@[simp] theorem State.setShadow_tier (s : State) (o : Nat) (v : Word) : (s.setShadow o v).tier = s.tier := rfl
@[simp] theorem State.setShadow_cmd (s : State) (o : Nat) (v : Word) : (s.setShadow o v).cmd = s.cmd := rfl
@[simp] theorem State.setShadow_host (s : State) (o : Nat) (v : Word) : (s.setShadow o v).host = s.host := rfl
@[simp] theorem State.setShadow_disc (s : State) (o : Nat) (v : Word) : (s.setShadow o v).disc = s.disc := rfl
@[simp] theorem State.setShadow_fatal (s : State) (o : Nat) (v : Word) : (s.setShadow o v).fatal = s.fatal := rfl
@[simp] theorem State.setShadow_links (s : State) (o : Nat) (v : Word) : (s.setShadow o v).links = s.links := rfl
@[simp] theorem State.setShadow_coll (s : State) (o : Nat) (v : Word) : (s.setShadow o v).coll = s.coll := rfl
@[simp] theorem State.setShadow_circ (s : State) (o : Nat) (v : Word) : (s.setShadow o v).circ = s.circ := rfl
@[simp] theorem State.setShadow_queries (s : State) (o : Nat) (v : Word) : (s.setShadow o v).queries = s.queries := rfl
@[simp] theorem State.setShadow_power (s : State) (o : Nat) (v : Word) : (s.setShadow o v).power = s.power := rfl
@[simp] theorem State.setShadow_sec (s : State) (o : Nat) (v : Word) : (s.setShadow o v).sec = s.sec := rfl
@[simp] theorem State.setShadow_side (s : State) (o : Nat) (v : Word) : (s.setShadow o v).side = s.side := rfl
@[simp] theorem State.setShadow_free (s : State) (o : Nat) (v : Word) : (s.setShadow o v).free = s.free := rfl
@[simp] theorem State.setShadow_out (s : State) (o : Nat) (v : Word) : (s.setShadow o v).out = s.out := rfl
@[simp] theorem State.setShadow_pending (s : State) (o : Nat) (v : Word) : (s.setShadow o v).pending = s.pending := rfl
@[simp] theorem State.setShadow_reg (s : State) (o : Nat) (v : Word) (a : Nat) : (s.setShadow o v).reg a = s.reg a := rfl
@[simp] theorem State.setShadow_stg (s : State) (o : Nat) (v : Word) (a : Nat) : (s.setShadow o v).stg a = s.stg a := rfl
@[simp] theorem State.setShadow_count (s : State) (o : Nat) (v : Word) (a : Nat) : (s.setShadow o v).count a = s.count a := rfl
@[simp] theorem State.setShadow_core (s : State) (o : Nat) (v : Word) (a : Nat) : (s.setShadow o v).core a = s.core a := rfl
@[simp] theorem State.setShadow_queue (s : State) (o : Nat) (v : Word) (a : Nat) : (s.setShadow o v).queue a = s.queue a := rfl
@[simp] theorem State.setShadow_bar (s : State) (o : Nat) (v : Word) (a : Nat) : (s.setShadow o v).bar a = s.bar a := rfl
@[simp] theorem State.setShadow_port (s : State) (o : Nat) (v : Word) (a : Nat) : (s.setShadow o v).port a = s.port a := rfl
@[simp] theorem State.setShadow_cache (s : State) (o : Nat) (v : Word) (a : Nat) : (s.setShadow o v).cache a = s.cache a := rfl
@[simp] theorem State.setShadow_chipCtr (s : State) (o : Nat) (v : Word) (a : Nat) : (s.setShadow o v).chipCtr a = s.chipCtr a := rfl
@[simp] theorem State.setShadow_t0 (s : State) (o : Nat) (v : Word) (a b' : Nat) : (s.setShadow o v).t0 a b' = s.t0 a b' := rfl
@[simp] theorem State.setShadow_t1 (s : State) (o : Nat) (v : Word) (a b' : Nat) : (s.setShadow o v).t1 a b' = s.t1 a b' := rfl
@[simp] theorem State.setShadow_flight (s : State) (o : Nat) (v : Word) (a : Nat) : (s.setShadow o v).flight? a = s.flight? a := rfl
@[simp] theorem State.setShadow_qp (s : State) (o : Nat) (v : Word) (a : Nat) : (s.setShadow o v).qp a = s.qp a := rfl
@[simp] theorem State.setShadow_chipId (s : State) (o : Nat) (v : Word) : (s.setShadow o v).chipId  = s.chipId := rfl
@[simp] theorem State.setActive_commit (s : State) (o : Nat) (v : Word) : (s.setActive o v).commit = s.commit := rfl
@[simp] theorem State.setActive_time (s : State) (o : Nat) (v : Word) : (s.setActive o v).time = s.time := rfl
@[simp] theorem State.setActive_cores (s : State) (o : Nat) (v : Word) : (s.setActive o v).cores = s.cores := rfl
@[simp] theorem State.setActive_sync (s : State) (o : Nat) (v : Word) : (s.setActive o v).sync = s.sync := rfl
@[simp] theorem State.setActive_mem (s : State) (o : Nat) (v : Word) : (s.setActive o v).mem = s.mem := rfl
@[simp] theorem State.setActive_tier (s : State) (o : Nat) (v : Word) : (s.setActive o v).tier = s.tier := rfl
@[simp] theorem State.setActive_cmd (s : State) (o : Nat) (v : Word) : (s.setActive o v).cmd = s.cmd := rfl
@[simp] theorem State.setActive_host (s : State) (o : Nat) (v : Word) : (s.setActive o v).host = s.host := rfl
@[simp] theorem State.setActive_disc (s : State) (o : Nat) (v : Word) : (s.setActive o v).disc = s.disc := rfl
@[simp] theorem State.setActive_fatal (s : State) (o : Nat) (v : Word) : (s.setActive o v).fatal = s.fatal := rfl
@[simp] theorem State.setActive_links (s : State) (o : Nat) (v : Word) : (s.setActive o v).links = s.links := rfl
@[simp] theorem State.setActive_coll (s : State) (o : Nat) (v : Word) : (s.setActive o v).coll = s.coll := rfl
@[simp] theorem State.setActive_circ (s : State) (o : Nat) (v : Word) : (s.setActive o v).circ = s.circ := rfl
@[simp] theorem State.setActive_queries (s : State) (o : Nat) (v : Word) : (s.setActive o v).queries = s.queries := rfl
@[simp] theorem State.setActive_power (s : State) (o : Nat) (v : Word) : (s.setActive o v).power = s.power := rfl
@[simp] theorem State.setActive_sec (s : State) (o : Nat) (v : Word) : (s.setActive o v).sec = s.sec := rfl
@[simp] theorem State.setActive_side (s : State) (o : Nat) (v : Word) : (s.setActive o v).side = s.side := rfl
@[simp] theorem State.setActive_free (s : State) (o : Nat) (v : Word) : (s.setActive o v).free = s.free := rfl
@[simp] theorem State.setActive_out (s : State) (o : Nat) (v : Word) : (s.setActive o v).out = s.out := rfl
@[simp] theorem State.setActive_pending (s : State) (o : Nat) (v : Word) : (s.setActive o v).pending = s.pending := rfl
@[simp] theorem State.setActive_reg (s : State) (o : Nat) (v : Word) (a : Nat) : (s.setActive o v).reg a = s.reg a := rfl
@[simp] theorem State.setActive_count (s : State) (o : Nat) (v : Word) (a : Nat) : (s.setActive o v).count a = s.count a := rfl
@[simp] theorem State.setActive_core (s : State) (o : Nat) (v : Word) (a : Nat) : (s.setActive o v).core a = s.core a := rfl
@[simp] theorem State.setActive_queue (s : State) (o : Nat) (v : Word) (a : Nat) : (s.setActive o v).queue a = s.queue a := rfl
@[simp] theorem State.setActive_bar (s : State) (o : Nat) (v : Word) (a : Nat) : (s.setActive o v).bar a = s.bar a := rfl
@[simp] theorem State.setActive_port (s : State) (o : Nat) (v : Word) (a : Nat) : (s.setActive o v).port a = s.port a := rfl
@[simp] theorem State.setActive_cache (s : State) (o : Nat) (v : Word) (a : Nat) : (s.setActive o v).cache a = s.cache a := rfl
@[simp] theorem State.setActive_chipCtr (s : State) (o : Nat) (v : Word) (a : Nat) : (s.setActive o v).chipCtr a = s.chipCtr a := rfl
@[simp] theorem State.setActive_t0 (s : State) (o : Nat) (v : Word) (a b' : Nat) : (s.setActive o v).t0 a b' = s.t0 a b' := rfl
@[simp] theorem State.setActive_t1 (s : State) (o : Nat) (v : Word) (a b' : Nat) : (s.setActive o v).t1 a b' = s.t1 a b' := rfl
@[simp] theorem State.setActive_flight (s : State) (o : Nat) (v : Word) (a : Nat) : (s.setActive o v).flight? a = s.flight? a := rfl
@[simp] theorem State.setActive_qp (s : State) (o : Nat) (v : Word) (a : Nat) : (s.setActive o v).qp a = s.qp a := rfl
@[simp] theorem State.setActive_chipId (s : State) (o : Nat) (v : Word) : (s.setActive o v).chipId  = s.chipId := rfl
@[simp] theorem State.setCount_commit (s : State) (o n : Nat) : (s.setCount o n).commit = s.commit := rfl
@[simp] theorem State.setCount_time (s : State) (o n : Nat) : (s.setCount o n).time = s.time := rfl
@[simp] theorem State.setCount_cores (s : State) (o n : Nat) : (s.setCount o n).cores = s.cores := rfl
@[simp] theorem State.setCount_sync (s : State) (o n : Nat) : (s.setCount o n).sync = s.sync := rfl
@[simp] theorem State.setCount_mem (s : State) (o n : Nat) : (s.setCount o n).mem = s.mem := rfl
@[simp] theorem State.setCount_tier (s : State) (o n : Nat) : (s.setCount o n).tier = s.tier := rfl
@[simp] theorem State.setCount_cmd (s : State) (o n : Nat) : (s.setCount o n).cmd = s.cmd := rfl
@[simp] theorem State.setCount_host (s : State) (o n : Nat) : (s.setCount o n).host = s.host := rfl
@[simp] theorem State.setCount_disc (s : State) (o n : Nat) : (s.setCount o n).disc = s.disc := rfl
@[simp] theorem State.setCount_fatal (s : State) (o n : Nat) : (s.setCount o n).fatal = s.fatal := rfl
@[simp] theorem State.setCount_links (s : State) (o n : Nat) : (s.setCount o n).links = s.links := rfl
@[simp] theorem State.setCount_coll (s : State) (o n : Nat) : (s.setCount o n).coll = s.coll := rfl
@[simp] theorem State.setCount_circ (s : State) (o n : Nat) : (s.setCount o n).circ = s.circ := rfl
@[simp] theorem State.setCount_queries (s : State) (o n : Nat) : (s.setCount o n).queries = s.queries := rfl
@[simp] theorem State.setCount_power (s : State) (o n : Nat) : (s.setCount o n).power = s.power := rfl
@[simp] theorem State.setCount_sec (s : State) (o n : Nat) : (s.setCount o n).sec = s.sec := rfl
@[simp] theorem State.setCount_side (s : State) (o n : Nat) : (s.setCount o n).side = s.side := rfl
@[simp] theorem State.setCount_free (s : State) (o n : Nat) : (s.setCount o n).free = s.free := rfl
@[simp] theorem State.setCount_out (s : State) (o n : Nat) : (s.setCount o n).out = s.out := rfl
@[simp] theorem State.setCount_pending (s : State) (o n : Nat) : (s.setCount o n).pending = s.pending := rfl
@[simp] theorem State.setCount_reg (s : State) (o n : Nat) (a : Nat) : (s.setCount o n).reg a = s.reg a := rfl
@[simp] theorem State.setCount_stg (s : State) (o n : Nat) (a : Nat) : (s.setCount o n).stg a = s.stg a := rfl
@[simp] theorem State.setCount_shadow (s : State) (o n : Nat) (a : Nat) : (s.setCount o n).shadow a = s.shadow a := rfl
@[simp] theorem State.setCount_core (s : State) (o n : Nat) (a : Nat) : (s.setCount o n).core a = s.core a := rfl
@[simp] theorem State.setCount_queue (s : State) (o n : Nat) (a : Nat) : (s.setCount o n).queue a = s.queue a := rfl
@[simp] theorem State.setCount_bar (s : State) (o n : Nat) (a : Nat) : (s.setCount o n).bar a = s.bar a := rfl
@[simp] theorem State.setCount_port (s : State) (o n : Nat) (a : Nat) : (s.setCount o n).port a = s.port a := rfl
@[simp] theorem State.setCount_cache (s : State) (o n : Nat) (a : Nat) : (s.setCount o n).cache a = s.cache a := rfl
@[simp] theorem State.setCount_chipCtr (s : State) (o n : Nat) (a : Nat) : (s.setCount o n).chipCtr a = s.chipCtr a := rfl
@[simp] theorem State.setCount_t0 (s : State) (o n : Nat) (a b' : Nat) : (s.setCount o n).t0 a b' = s.t0 a b' := rfl
@[simp] theorem State.setCount_t1 (s : State) (o n : Nat) (a b' : Nat) : (s.setCount o n).t1 a b' = s.t1 a b' := rfl
@[simp] theorem State.setCount_flight (s : State) (o n : Nat) (a : Nat) : (s.setCount o n).flight? a = s.flight? a := rfl
@[simp] theorem State.setCount_qp (s : State) (o n : Nat) (a : Nat) : (s.setCount o n).qp a = s.qp a := rfl
@[simp] theorem State.setCount_chipId (s : State) (o n : Nat) : (s.setCount o n).chipId  = s.chipId := rfl
@[simp] theorem State.bump_commit (s : State) (o n : Nat) : (s.bump o n).commit = s.commit := rfl
@[simp] theorem State.bump_time (s : State) (o n : Nat) : (s.bump o n).time = s.time := rfl
@[simp] theorem State.bump_cores (s : State) (o n : Nat) : (s.bump o n).cores = s.cores := rfl
@[simp] theorem State.bump_sync (s : State) (o n : Nat) : (s.bump o n).sync = s.sync := rfl
@[simp] theorem State.bump_mem (s : State) (o n : Nat) : (s.bump o n).mem = s.mem := rfl
@[simp] theorem State.bump_tier (s : State) (o n : Nat) : (s.bump o n).tier = s.tier := rfl
@[simp] theorem State.bump_cmd (s : State) (o n : Nat) : (s.bump o n).cmd = s.cmd := rfl
@[simp] theorem State.bump_host (s : State) (o n : Nat) : (s.bump o n).host = s.host := rfl
@[simp] theorem State.bump_disc (s : State) (o n : Nat) : (s.bump o n).disc = s.disc := rfl
@[simp] theorem State.bump_fatal (s : State) (o n : Nat) : (s.bump o n).fatal = s.fatal := rfl
@[simp] theorem State.bump_links (s : State) (o n : Nat) : (s.bump o n).links = s.links := rfl
@[simp] theorem State.bump_coll (s : State) (o n : Nat) : (s.bump o n).coll = s.coll := rfl
@[simp] theorem State.bump_circ (s : State) (o n : Nat) : (s.bump o n).circ = s.circ := rfl
@[simp] theorem State.bump_queries (s : State) (o n : Nat) : (s.bump o n).queries = s.queries := rfl
@[simp] theorem State.bump_power (s : State) (o n : Nat) : (s.bump o n).power = s.power := rfl
@[simp] theorem State.bump_sec (s : State) (o n : Nat) : (s.bump o n).sec = s.sec := rfl
@[simp] theorem State.bump_side (s : State) (o n : Nat) : (s.bump o n).side = s.side := rfl
@[simp] theorem State.bump_free (s : State) (o n : Nat) : (s.bump o n).free = s.free := rfl
@[simp] theorem State.bump_out (s : State) (o n : Nat) : (s.bump o n).out = s.out := rfl
@[simp] theorem State.bump_pending (s : State) (o n : Nat) : (s.bump o n).pending = s.pending := rfl
@[simp] theorem State.bump_reg (s : State) (o n : Nat) (a : Nat) : (s.bump o n).reg a = s.reg a := rfl
@[simp] theorem State.bump_stg (s : State) (o n : Nat) (a : Nat) : (s.bump o n).stg a = s.stg a := rfl
@[simp] theorem State.bump_shadow (s : State) (o n : Nat) (a : Nat) : (s.bump o n).shadow a = s.shadow a := rfl
@[simp] theorem State.bump_core (s : State) (o n : Nat) (a : Nat) : (s.bump o n).core a = s.core a := rfl
@[simp] theorem State.bump_queue (s : State) (o n : Nat) (a : Nat) : (s.bump o n).queue a = s.queue a := rfl
@[simp] theorem State.bump_bar (s : State) (o n : Nat) (a : Nat) : (s.bump o n).bar a = s.bar a := rfl
@[simp] theorem State.bump_port (s : State) (o n : Nat) (a : Nat) : (s.bump o n).port a = s.port a := rfl
@[simp] theorem State.bump_cache (s : State) (o n : Nat) (a : Nat) : (s.bump o n).cache a = s.cache a := rfl
@[simp] theorem State.bump_chipCtr (s : State) (o n : Nat) (a : Nat) : (s.bump o n).chipCtr a = s.chipCtr a := rfl
@[simp] theorem State.bump_t0 (s : State) (o n : Nat) (a b' : Nat) : (s.bump o n).t0 a b' = s.t0 a b' := rfl
@[simp] theorem State.bump_t1 (s : State) (o n : Nat) (a b' : Nat) : (s.bump o n).t1 a b' = s.t1 a b' := rfl
@[simp] theorem State.bump_flight (s : State) (o n : Nat) (a : Nat) : (s.bump o n).flight? a = s.flight? a := rfl
@[simp] theorem State.bump_qp (s : State) (o n : Nat) (a : Nat) : (s.bump o n).qp a = s.qp a := rfl
@[simp] theorem State.bump_chipId (s : State) (o n : Nat) : (s.bump o n).chipId  = s.chipId := rfl
@[simp] theorem State.bump64_commit (s : State) (o n : Nat) : (s.bump64 o n).commit = s.commit := rfl
@[simp] theorem State.bump64_time (s : State) (o n : Nat) : (s.bump64 o n).time = s.time := rfl
@[simp] theorem State.bump64_cores (s : State) (o n : Nat) : (s.bump64 o n).cores = s.cores := rfl
@[simp] theorem State.bump64_sync (s : State) (o n : Nat) : (s.bump64 o n).sync = s.sync := rfl
@[simp] theorem State.bump64_mem (s : State) (o n : Nat) : (s.bump64 o n).mem = s.mem := rfl
@[simp] theorem State.bump64_tier (s : State) (o n : Nat) : (s.bump64 o n).tier = s.tier := rfl
@[simp] theorem State.bump64_cmd (s : State) (o n : Nat) : (s.bump64 o n).cmd = s.cmd := rfl
@[simp] theorem State.bump64_host (s : State) (o n : Nat) : (s.bump64 o n).host = s.host := rfl
@[simp] theorem State.bump64_disc (s : State) (o n : Nat) : (s.bump64 o n).disc = s.disc := rfl
@[simp] theorem State.bump64_fatal (s : State) (o n : Nat) : (s.bump64 o n).fatal = s.fatal := rfl
@[simp] theorem State.bump64_links (s : State) (o n : Nat) : (s.bump64 o n).links = s.links := rfl
@[simp] theorem State.bump64_coll (s : State) (o n : Nat) : (s.bump64 o n).coll = s.coll := rfl
@[simp] theorem State.bump64_circ (s : State) (o n : Nat) : (s.bump64 o n).circ = s.circ := rfl
@[simp] theorem State.bump64_queries (s : State) (o n : Nat) : (s.bump64 o n).queries = s.queries := rfl
@[simp] theorem State.bump64_power (s : State) (o n : Nat) : (s.bump64 o n).power = s.power := rfl
@[simp] theorem State.bump64_sec (s : State) (o n : Nat) : (s.bump64 o n).sec = s.sec := rfl
@[simp] theorem State.bump64_side (s : State) (o n : Nat) : (s.bump64 o n).side = s.side := rfl
@[simp] theorem State.bump64_free (s : State) (o n : Nat) : (s.bump64 o n).free = s.free := rfl
@[simp] theorem State.bump64_out (s : State) (o n : Nat) : (s.bump64 o n).out = s.out := rfl
@[simp] theorem State.bump64_pending (s : State) (o n : Nat) : (s.bump64 o n).pending = s.pending := rfl
@[simp] theorem State.bump64_reg (s : State) (o n : Nat) (a : Nat) : (s.bump64 o n).reg a = s.reg a := rfl
@[simp] theorem State.bump64_stg (s : State) (o n : Nat) (a : Nat) : (s.bump64 o n).stg a = s.stg a := rfl
@[simp] theorem State.bump64_shadow (s : State) (o n : Nat) (a : Nat) : (s.bump64 o n).shadow a = s.shadow a := rfl
@[simp] theorem State.bump64_core (s : State) (o n : Nat) (a : Nat) : (s.bump64 o n).core a = s.core a := rfl
@[simp] theorem State.bump64_queue (s : State) (o n : Nat) (a : Nat) : (s.bump64 o n).queue a = s.queue a := rfl
@[simp] theorem State.bump64_bar (s : State) (o n : Nat) (a : Nat) : (s.bump64 o n).bar a = s.bar a := rfl
@[simp] theorem State.bump64_port (s : State) (o n : Nat) (a : Nat) : (s.bump64 o n).port a = s.port a := rfl
@[simp] theorem State.bump64_cache (s : State) (o n : Nat) (a : Nat) : (s.bump64 o n).cache a = s.cache a := rfl
@[simp] theorem State.bump64_chipCtr (s : State) (o n : Nat) (a : Nat) : (s.bump64 o n).chipCtr a = s.chipCtr a := rfl
@[simp] theorem State.bump64_t0 (s : State) (o n : Nat) (a b' : Nat) : (s.bump64 o n).t0 a b' = s.t0 a b' := rfl
@[simp] theorem State.bump64_t1 (s : State) (o n : Nat) (a b' : Nat) : (s.bump64 o n).t1 a b' = s.t1 a b' := rfl
@[simp] theorem State.bump64_flight (s : State) (o n : Nat) (a : Nat) : (s.bump64 o n).flight? a = s.flight? a := rfl
@[simp] theorem State.bump64_qp (s : State) (o n : Nat) (a : Nat) : (s.bump64 o n).qp a = s.qp a := rfl
@[simp] theorem State.bump64_chipId (s : State) (o n : Nat) : (s.bump64 o n).chipId  = s.chipId := rfl
@[simp] theorem State.send_win (s : State) (m : Sent) : (s.send m).win = s.win := rfl
@[simp] theorem State.send_commit (s : State) (m : Sent) : (s.send m).commit = s.commit := rfl
@[simp] theorem State.send_time (s : State) (m : Sent) : (s.send m).time = s.time := rfl
@[simp] theorem State.send_cores (s : State) (m : Sent) : (s.send m).cores = s.cores := rfl
@[simp] theorem State.send_sync (s : State) (m : Sent) : (s.send m).sync = s.sync := rfl
@[simp] theorem State.send_mem (s : State) (m : Sent) : (s.send m).mem = s.mem := rfl
@[simp] theorem State.send_tier (s : State) (m : Sent) : (s.send m).tier = s.tier := rfl
@[simp] theorem State.send_cmd (s : State) (m : Sent) : (s.send m).cmd = s.cmd := rfl
@[simp] theorem State.send_host (s : State) (m : Sent) : (s.send m).host = s.host := rfl
@[simp] theorem State.send_disc (s : State) (m : Sent) : (s.send m).disc = s.disc := rfl
@[simp] theorem State.send_fatal (s : State) (m : Sent) : (s.send m).fatal = s.fatal := rfl
@[simp] theorem State.send_links (s : State) (m : Sent) : (s.send m).links = s.links := rfl
@[simp] theorem State.send_coll (s : State) (m : Sent) : (s.send m).coll = s.coll := rfl
@[simp] theorem State.send_circ (s : State) (m : Sent) : (s.send m).circ = s.circ := rfl
@[simp] theorem State.send_queries (s : State) (m : Sent) : (s.send m).queries = s.queries := rfl
@[simp] theorem State.send_power (s : State) (m : Sent) : (s.send m).power = s.power := rfl
@[simp] theorem State.send_sec (s : State) (m : Sent) : (s.send m).sec = s.sec := rfl
@[simp] theorem State.send_side (s : State) (m : Sent) : (s.send m).side = s.side := rfl
@[simp] theorem State.send_free (s : State) (m : Sent) : (s.send m).free = s.free := rfl
@[simp] theorem State.send_pending (s : State) (m : Sent) : (s.send m).pending = s.pending := rfl
@[simp] theorem State.send_reg (s : State) (m : Sent) (a : Nat) : (s.send m).reg a = s.reg a := rfl
@[simp] theorem State.send_stg (s : State) (m : Sent) (a : Nat) : (s.send m).stg a = s.stg a := rfl
@[simp] theorem State.send_shadow (s : State) (m : Sent) (a : Nat) : (s.send m).shadow a = s.shadow a := rfl
@[simp] theorem State.send_count (s : State) (m : Sent) (a : Nat) : (s.send m).count a = s.count a := rfl
@[simp] theorem State.send_core (s : State) (m : Sent) (a : Nat) : (s.send m).core a = s.core a := rfl
@[simp] theorem State.send_queue (s : State) (m : Sent) (a : Nat) : (s.send m).queue a = s.queue a := rfl
@[simp] theorem State.send_bar (s : State) (m : Sent) (a : Nat) : (s.send m).bar a = s.bar a := rfl
@[simp] theorem State.send_port (s : State) (m : Sent) (a : Nat) : (s.send m).port a = s.port a := rfl
@[simp] theorem State.send_cache (s : State) (m : Sent) (a : Nat) : (s.send m).cache a = s.cache a := rfl
@[simp] theorem State.send_chipCtr (s : State) (m : Sent) (a : Nat) : (s.send m).chipCtr a = s.chipCtr a := rfl
@[simp] theorem State.send_t0 (s : State) (m : Sent) (a b' : Nat) : (s.send m).t0 a b' = s.t0 a b' := rfl
@[simp] theorem State.send_t1 (s : State) (m : Sent) (a b' : Nat) : (s.send m).t1 a b' = s.t1 a b' := rfl
@[simp] theorem State.send_flight (s : State) (m : Sent) (a : Nat) : (s.send m).flight? a = s.flight? a := rfl
@[simp] theorem State.send_qp (s : State) (m : Sent) (a : Nat) : (s.send m).qp a = s.qp a := rfl
@[simp] theorem State.send_chipId (s : State) (m : Sent) : (s.send m).chipId  = s.chipId := rfl
@[simp] theorem State.setCore_win (s : State) (n : Nat) (c : Core) : (s.setCore n c).win = s.win := rfl
@[simp] theorem State.setCore_commit (s : State) (n : Nat) (c : Core) : (s.setCore n c).commit = s.commit := rfl
@[simp] theorem State.setCore_time (s : State) (n : Nat) (c : Core) : (s.setCore n c).time = s.time := rfl
@[simp] theorem State.setCore_sync (s : State) (n : Nat) (c : Core) : (s.setCore n c).sync = s.sync := rfl
@[simp] theorem State.setCore_mem (s : State) (n : Nat) (c : Core) : (s.setCore n c).mem = s.mem := rfl
@[simp] theorem State.setCore_tier (s : State) (n : Nat) (c : Core) : (s.setCore n c).tier = s.tier := rfl
@[simp] theorem State.setCore_cmd (s : State) (n : Nat) (c : Core) : (s.setCore n c).cmd = s.cmd := rfl
@[simp] theorem State.setCore_host (s : State) (n : Nat) (c : Core) : (s.setCore n c).host = s.host := rfl
@[simp] theorem State.setCore_disc (s : State) (n : Nat) (c : Core) : (s.setCore n c).disc = s.disc := rfl
@[simp] theorem State.setCore_fatal (s : State) (n : Nat) (c : Core) : (s.setCore n c).fatal = s.fatal := rfl
@[simp] theorem State.setCore_links (s : State) (n : Nat) (c : Core) : (s.setCore n c).links = s.links := rfl
@[simp] theorem State.setCore_coll (s : State) (n : Nat) (c : Core) : (s.setCore n c).coll = s.coll := rfl
@[simp] theorem State.setCore_circ (s : State) (n : Nat) (c : Core) : (s.setCore n c).circ = s.circ := rfl
@[simp] theorem State.setCore_queries (s : State) (n : Nat) (c : Core) : (s.setCore n c).queries = s.queries := rfl
@[simp] theorem State.setCore_power (s : State) (n : Nat) (c : Core) : (s.setCore n c).power = s.power := rfl
@[simp] theorem State.setCore_sec (s : State) (n : Nat) (c : Core) : (s.setCore n c).sec = s.sec := rfl
@[simp] theorem State.setCore_side (s : State) (n : Nat) (c : Core) : (s.setCore n c).side = s.side := rfl
@[simp] theorem State.setCore_free (s : State) (n : Nat) (c : Core) : (s.setCore n c).free = s.free := rfl
@[simp] theorem State.setCore_out (s : State) (n : Nat) (c : Core) : (s.setCore n c).out = s.out := rfl
@[simp] theorem State.setCore_pending (s : State) (n : Nat) (c : Core) : (s.setCore n c).pending = s.pending := rfl
@[simp] theorem State.setCore_reg (s : State) (n : Nat) (c : Core) (a : Nat) : (s.setCore n c).reg a = s.reg a := rfl
@[simp] theorem State.setCore_stg (s : State) (n : Nat) (c : Core) (a : Nat) : (s.setCore n c).stg a = s.stg a := rfl
@[simp] theorem State.setCore_shadow (s : State) (n : Nat) (c : Core) (a : Nat) : (s.setCore n c).shadow a = s.shadow a := rfl
@[simp] theorem State.setCore_count (s : State) (n : Nat) (c : Core) (a : Nat) : (s.setCore n c).count a = s.count a := rfl
@[simp] theorem State.setCore_queue (s : State) (n : Nat) (c : Core) (a : Nat) : (s.setCore n c).queue a = s.queue a := rfl
@[simp] theorem State.setCore_bar (s : State) (n : Nat) (c : Core) (a : Nat) : (s.setCore n c).bar a = s.bar a := rfl
@[simp] theorem State.setCore_port (s : State) (n : Nat) (c : Core) (a : Nat) : (s.setCore n c).port a = s.port a := rfl
@[simp] theorem State.setCore_cache (s : State) (n : Nat) (c : Core) (a : Nat) : (s.setCore n c).cache a = s.cache a := rfl
@[simp] theorem State.setCore_chipCtr (s : State) (n : Nat) (c : Core) (a : Nat) : (s.setCore n c).chipCtr a = s.chipCtr a := rfl
@[simp] theorem State.setCore_t0 (s : State) (n : Nat) (c : Core) (a b' : Nat) : (s.setCore n c).t0 a b' = s.t0 a b' := rfl
@[simp] theorem State.setCore_t1 (s : State) (n : Nat) (c : Core) (a b' : Nat) : (s.setCore n c).t1 a b' = s.t1 a b' := rfl
@[simp] theorem State.setCore_flight (s : State) (n : Nat) (c : Core) (a : Nat) : (s.setCore n c).flight? a = s.flight? a := rfl
@[simp] theorem State.setCore_qp (s : State) (n : Nat) (c : Core) (a : Nat) : (s.setCore n c).qp a = s.qp a := rfl
@[simp] theorem State.setCore_chipId (s : State) (n : Nat) (c : Core) : (s.setCore n c).chipId  = s.chipId := rfl
@[simp] theorem State.onCore_win (s : State) (n : Nat) (f : Core → Core) : (s.onCore n f).win = s.win := rfl
@[simp] theorem State.onCore_commit (s : State) (n : Nat) (f : Core → Core) : (s.onCore n f).commit = s.commit := rfl
@[simp] theorem State.onCore_time (s : State) (n : Nat) (f : Core → Core) : (s.onCore n f).time = s.time := rfl
@[simp] theorem State.onCore_sync (s : State) (n : Nat) (f : Core → Core) : (s.onCore n f).sync = s.sync := rfl
@[simp] theorem State.onCore_mem (s : State) (n : Nat) (f : Core → Core) : (s.onCore n f).mem = s.mem := rfl
@[simp] theorem State.onCore_tier (s : State) (n : Nat) (f : Core → Core) : (s.onCore n f).tier = s.tier := rfl
@[simp] theorem State.onCore_cmd (s : State) (n : Nat) (f : Core → Core) : (s.onCore n f).cmd = s.cmd := rfl
@[simp] theorem State.onCore_host (s : State) (n : Nat) (f : Core → Core) : (s.onCore n f).host = s.host := rfl
@[simp] theorem State.onCore_disc (s : State) (n : Nat) (f : Core → Core) : (s.onCore n f).disc = s.disc := rfl
@[simp] theorem State.onCore_fatal (s : State) (n : Nat) (f : Core → Core) : (s.onCore n f).fatal = s.fatal := rfl
@[simp] theorem State.onCore_links (s : State) (n : Nat) (f : Core → Core) : (s.onCore n f).links = s.links := rfl
@[simp] theorem State.onCore_coll (s : State) (n : Nat) (f : Core → Core) : (s.onCore n f).coll = s.coll := rfl
@[simp] theorem State.onCore_circ (s : State) (n : Nat) (f : Core → Core) : (s.onCore n f).circ = s.circ := rfl
@[simp] theorem State.onCore_queries (s : State) (n : Nat) (f : Core → Core) : (s.onCore n f).queries = s.queries := rfl
@[simp] theorem State.onCore_power (s : State) (n : Nat) (f : Core → Core) : (s.onCore n f).power = s.power := rfl
@[simp] theorem State.onCore_sec (s : State) (n : Nat) (f : Core → Core) : (s.onCore n f).sec = s.sec := rfl
@[simp] theorem State.onCore_side (s : State) (n : Nat) (f : Core → Core) : (s.onCore n f).side = s.side := rfl
@[simp] theorem State.onCore_free (s : State) (n : Nat) (f : Core → Core) : (s.onCore n f).free = s.free := rfl
@[simp] theorem State.onCore_out (s : State) (n : Nat) (f : Core → Core) : (s.onCore n f).out = s.out := rfl
@[simp] theorem State.onCore_pending (s : State) (n : Nat) (f : Core → Core) : (s.onCore n f).pending = s.pending := rfl
@[simp] theorem State.onCore_reg (s : State) (n : Nat) (f : Core → Core) (a : Nat) : (s.onCore n f).reg a = s.reg a := rfl
@[simp] theorem State.onCore_stg (s : State) (n : Nat) (f : Core → Core) (a : Nat) : (s.onCore n f).stg a = s.stg a := rfl
@[simp] theorem State.onCore_shadow (s : State) (n : Nat) (f : Core → Core) (a : Nat) : (s.onCore n f).shadow a = s.shadow a := rfl
@[simp] theorem State.onCore_count (s : State) (n : Nat) (f : Core → Core) (a : Nat) : (s.onCore n f).count a = s.count a := rfl
@[simp] theorem State.onCore_queue (s : State) (n : Nat) (f : Core → Core) (a : Nat) : (s.onCore n f).queue a = s.queue a := rfl
@[simp] theorem State.onCore_bar (s : State) (n : Nat) (f : Core → Core) (a : Nat) : (s.onCore n f).bar a = s.bar a := rfl
@[simp] theorem State.onCore_port (s : State) (n : Nat) (f : Core → Core) (a : Nat) : (s.onCore n f).port a = s.port a := rfl
@[simp] theorem State.onCore_cache (s : State) (n : Nat) (f : Core → Core) (a : Nat) : (s.onCore n f).cache a = s.cache a := rfl
@[simp] theorem State.onCore_chipCtr (s : State) (n : Nat) (f : Core → Core) (a : Nat) : (s.onCore n f).chipCtr a = s.chipCtr a := rfl
@[simp] theorem State.onCore_t0 (s : State) (n : Nat) (f : Core → Core) (a b' : Nat) : (s.onCore n f).t0 a b' = s.t0 a b' := rfl
@[simp] theorem State.onCore_t1 (s : State) (n : Nat) (f : Core → Core) (a b' : Nat) : (s.onCore n f).t1 a b' = s.t1 a b' := rfl
@[simp] theorem State.onCore_flight (s : State) (n : Nat) (f : Core → Core) (a : Nat) : (s.onCore n f).flight? a = s.flight? a := rfl
@[simp] theorem State.onCore_qp (s : State) (n : Nat) (f : Core → Core) (a : Nat) : (s.onCore n f).qp a = s.qp a := rfl
@[simp] theorem State.onCore_chipId (s : State) (n : Nat) (f : Core → Core) : (s.onCore n f).chipId  = s.chipId := rfl
@[simp] theorem State.onEng_win (s : State) (n : Nat) (f : Engines → Engines) : (s.onEng n f).win = s.win := rfl
@[simp] theorem State.onEng_commit (s : State) (n : Nat) (f : Engines → Engines) : (s.onEng n f).commit = s.commit := rfl
@[simp] theorem State.onEng_time (s : State) (n : Nat) (f : Engines → Engines) : (s.onEng n f).time = s.time := rfl
@[simp] theorem State.onEng_sync (s : State) (n : Nat) (f : Engines → Engines) : (s.onEng n f).sync = s.sync := rfl
@[simp] theorem State.onEng_mem (s : State) (n : Nat) (f : Engines → Engines) : (s.onEng n f).mem = s.mem := rfl
@[simp] theorem State.onEng_tier (s : State) (n : Nat) (f : Engines → Engines) : (s.onEng n f).tier = s.tier := rfl
@[simp] theorem State.onEng_cmd (s : State) (n : Nat) (f : Engines → Engines) : (s.onEng n f).cmd = s.cmd := rfl
@[simp] theorem State.onEng_host (s : State) (n : Nat) (f : Engines → Engines) : (s.onEng n f).host = s.host := rfl
@[simp] theorem State.onEng_disc (s : State) (n : Nat) (f : Engines → Engines) : (s.onEng n f).disc = s.disc := rfl
@[simp] theorem State.onEng_fatal (s : State) (n : Nat) (f : Engines → Engines) : (s.onEng n f).fatal = s.fatal := rfl
@[simp] theorem State.onEng_links (s : State) (n : Nat) (f : Engines → Engines) : (s.onEng n f).links = s.links := rfl
@[simp] theorem State.onEng_coll (s : State) (n : Nat) (f : Engines → Engines) : (s.onEng n f).coll = s.coll := rfl
@[simp] theorem State.onEng_circ (s : State) (n : Nat) (f : Engines → Engines) : (s.onEng n f).circ = s.circ := rfl
@[simp] theorem State.onEng_queries (s : State) (n : Nat) (f : Engines → Engines) : (s.onEng n f).queries = s.queries := rfl
@[simp] theorem State.onEng_power (s : State) (n : Nat) (f : Engines → Engines) : (s.onEng n f).power = s.power := rfl
@[simp] theorem State.onEng_sec (s : State) (n : Nat) (f : Engines → Engines) : (s.onEng n f).sec = s.sec := rfl
@[simp] theorem State.onEng_side (s : State) (n : Nat) (f : Engines → Engines) : (s.onEng n f).side = s.side := rfl
@[simp] theorem State.onEng_free (s : State) (n : Nat) (f : Engines → Engines) : (s.onEng n f).free = s.free := rfl
@[simp] theorem State.onEng_out (s : State) (n : Nat) (f : Engines → Engines) : (s.onEng n f).out = s.out := rfl
@[simp] theorem State.onEng_pending (s : State) (n : Nat) (f : Engines → Engines) : (s.onEng n f).pending = s.pending := rfl
@[simp] theorem State.onEng_reg (s : State) (n : Nat) (f : Engines → Engines) (a : Nat) : (s.onEng n f).reg a = s.reg a := rfl
@[simp] theorem State.onEng_stg (s : State) (n : Nat) (f : Engines → Engines) (a : Nat) : (s.onEng n f).stg a = s.stg a := rfl
@[simp] theorem State.onEng_shadow (s : State) (n : Nat) (f : Engines → Engines) (a : Nat) : (s.onEng n f).shadow a = s.shadow a := rfl
@[simp] theorem State.onEng_count (s : State) (n : Nat) (f : Engines → Engines) (a : Nat) : (s.onEng n f).count a = s.count a := rfl
@[simp] theorem State.onEng_queue (s : State) (n : Nat) (f : Engines → Engines) (a : Nat) : (s.onEng n f).queue a = s.queue a := rfl
@[simp] theorem State.onEng_bar (s : State) (n : Nat) (f : Engines → Engines) (a : Nat) : (s.onEng n f).bar a = s.bar a := rfl
@[simp] theorem State.onEng_port (s : State) (n : Nat) (f : Engines → Engines) (a : Nat) : (s.onEng n f).port a = s.port a := rfl
@[simp] theorem State.onEng_cache (s : State) (n : Nat) (f : Engines → Engines) (a : Nat) : (s.onEng n f).cache a = s.cache a := rfl
@[simp] theorem State.onEng_chipCtr (s : State) (n : Nat) (f : Engines → Engines) (a : Nat) : (s.onEng n f).chipCtr a = s.chipCtr a := rfl
@[simp] theorem State.onEng_t0 (s : State) (n : Nat) (f : Engines → Engines) (a b' : Nat) : (s.onEng n f).t0 a b' = s.t0 a b' := rfl
@[simp] theorem State.onEng_t1 (s : State) (n : Nat) (f : Engines → Engines) (a b' : Nat) : (s.onEng n f).t1 a b' = s.t1 a b' := rfl
@[simp] theorem State.onEng_flight (s : State) (n : Nat) (f : Engines → Engines) (a : Nat) : (s.onEng n f).flight? a = s.flight? a := rfl
@[simp] theorem State.onEng_qp (s : State) (n : Nat) (f : Engines → Engines) (a : Nat) : (s.onEng n f).qp a = s.qp a := rfl
@[simp] theorem State.onEng_chipId (s : State) (n : Nat) (f : Engines → Engines) : (s.onEng n f).chipId  = s.chipId := rfl
@[simp] theorem State.onPlane_win (s : State) (n : Nat) (f : Plane → Plane) : (s.onPlane n f).win = s.win := rfl
@[simp] theorem State.onPlane_commit (s : State) (n : Nat) (f : Plane → Plane) : (s.onPlane n f).commit = s.commit := rfl
@[simp] theorem State.onPlane_time (s : State) (n : Nat) (f : Plane → Plane) : (s.onPlane n f).time = s.time := rfl
@[simp] theorem State.onPlane_sync (s : State) (n : Nat) (f : Plane → Plane) : (s.onPlane n f).sync = s.sync := rfl
@[simp] theorem State.onPlane_mem (s : State) (n : Nat) (f : Plane → Plane) : (s.onPlane n f).mem = s.mem := rfl
@[simp] theorem State.onPlane_tier (s : State) (n : Nat) (f : Plane → Plane) : (s.onPlane n f).tier = s.tier := rfl
@[simp] theorem State.onPlane_cmd (s : State) (n : Nat) (f : Plane → Plane) : (s.onPlane n f).cmd = s.cmd := rfl
@[simp] theorem State.onPlane_host (s : State) (n : Nat) (f : Plane → Plane) : (s.onPlane n f).host = s.host := rfl
@[simp] theorem State.onPlane_disc (s : State) (n : Nat) (f : Plane → Plane) : (s.onPlane n f).disc = s.disc := rfl
@[simp] theorem State.onPlane_fatal (s : State) (n : Nat) (f : Plane → Plane) : (s.onPlane n f).fatal = s.fatal := rfl
@[simp] theorem State.onPlane_links (s : State) (n : Nat) (f : Plane → Plane) : (s.onPlane n f).links = s.links := rfl
@[simp] theorem State.onPlane_coll (s : State) (n : Nat) (f : Plane → Plane) : (s.onPlane n f).coll = s.coll := rfl
@[simp] theorem State.onPlane_circ (s : State) (n : Nat) (f : Plane → Plane) : (s.onPlane n f).circ = s.circ := rfl
@[simp] theorem State.onPlane_queries (s : State) (n : Nat) (f : Plane → Plane) : (s.onPlane n f).queries = s.queries := rfl
@[simp] theorem State.onPlane_power (s : State) (n : Nat) (f : Plane → Plane) : (s.onPlane n f).power = s.power := rfl
@[simp] theorem State.onPlane_sec (s : State) (n : Nat) (f : Plane → Plane) : (s.onPlane n f).sec = s.sec := rfl
@[simp] theorem State.onPlane_side (s : State) (n : Nat) (f : Plane → Plane) : (s.onPlane n f).side = s.side := rfl
@[simp] theorem State.onPlane_free (s : State) (n : Nat) (f : Plane → Plane) : (s.onPlane n f).free = s.free := rfl
@[simp] theorem State.onPlane_out (s : State) (n : Nat) (f : Plane → Plane) : (s.onPlane n f).out = s.out := rfl
@[simp] theorem State.onPlane_pending (s : State) (n : Nat) (f : Plane → Plane) : (s.onPlane n f).pending = s.pending := rfl
@[simp] theorem State.onPlane_reg (s : State) (n : Nat) (f : Plane → Plane) (a : Nat) : (s.onPlane n f).reg a = s.reg a := rfl
@[simp] theorem State.onPlane_stg (s : State) (n : Nat) (f : Plane → Plane) (a : Nat) : (s.onPlane n f).stg a = s.stg a := rfl
@[simp] theorem State.onPlane_shadow (s : State) (n : Nat) (f : Plane → Plane) (a : Nat) : (s.onPlane n f).shadow a = s.shadow a := rfl
@[simp] theorem State.onPlane_count (s : State) (n : Nat) (f : Plane → Plane) (a : Nat) : (s.onPlane n f).count a = s.count a := rfl
@[simp] theorem State.onPlane_queue (s : State) (n : Nat) (f : Plane → Plane) (a : Nat) : (s.onPlane n f).queue a = s.queue a := rfl
@[simp] theorem State.onPlane_bar (s : State) (n : Nat) (f : Plane → Plane) (a : Nat) : (s.onPlane n f).bar a = s.bar a := rfl
@[simp] theorem State.onPlane_port (s : State) (n : Nat) (f : Plane → Plane) (a : Nat) : (s.onPlane n f).port a = s.port a := rfl
@[simp] theorem State.onPlane_cache (s : State) (n : Nat) (f : Plane → Plane) (a : Nat) : (s.onPlane n f).cache a = s.cache a := rfl
@[simp] theorem State.onPlane_chipCtr (s : State) (n : Nat) (f : Plane → Plane) (a : Nat) : (s.onPlane n f).chipCtr a = s.chipCtr a := rfl
@[simp] theorem State.onPlane_t0 (s : State) (n : Nat) (f : Plane → Plane) (a b' : Nat) : (s.onPlane n f).t0 a b' = s.t0 a b' := rfl
@[simp] theorem State.onPlane_t1 (s : State) (n : Nat) (f : Plane → Plane) (a b' : Nat) : (s.onPlane n f).t1 a b' = s.t1 a b' := rfl
@[simp] theorem State.onPlane_flight (s : State) (n : Nat) (f : Plane → Plane) (a : Nat) : (s.onPlane n f).flight? a = s.flight? a := rfl
@[simp] theorem State.onPlane_qp (s : State) (n : Nat) (f : Plane → Plane) (a : Nat) : (s.onPlane n f).qp a = s.qp a := rfl
@[simp] theorem State.onPlane_chipId (s : State) (n : Nat) (f : Plane → Plane) : (s.onPlane n f).chipId  = s.chipId := rfl
@[simp] theorem State.setCoreCtr_win (s : State) (n i v : Nat) : (s.setCoreCtr n i v).win = s.win := rfl
@[simp] theorem State.setCoreCtr_commit (s : State) (n i v : Nat) : (s.setCoreCtr n i v).commit = s.commit := rfl
@[simp] theorem State.setCoreCtr_time (s : State) (n i v : Nat) : (s.setCoreCtr n i v).time = s.time := rfl
@[simp] theorem State.setCoreCtr_sync (s : State) (n i v : Nat) : (s.setCoreCtr n i v).sync = s.sync := rfl
@[simp] theorem State.setCoreCtr_mem (s : State) (n i v : Nat) : (s.setCoreCtr n i v).mem = s.mem := rfl
@[simp] theorem State.setCoreCtr_tier (s : State) (n i v : Nat) : (s.setCoreCtr n i v).tier = s.tier := rfl
@[simp] theorem State.setCoreCtr_cmd (s : State) (n i v : Nat) : (s.setCoreCtr n i v).cmd = s.cmd := rfl
@[simp] theorem State.setCoreCtr_host (s : State) (n i v : Nat) : (s.setCoreCtr n i v).host = s.host := rfl
@[simp] theorem State.setCoreCtr_disc (s : State) (n i v : Nat) : (s.setCoreCtr n i v).disc = s.disc := rfl
@[simp] theorem State.setCoreCtr_fatal (s : State) (n i v : Nat) : (s.setCoreCtr n i v).fatal = s.fatal := rfl
@[simp] theorem State.setCoreCtr_links (s : State) (n i v : Nat) : (s.setCoreCtr n i v).links = s.links := rfl
@[simp] theorem State.setCoreCtr_coll (s : State) (n i v : Nat) : (s.setCoreCtr n i v).coll = s.coll := rfl
@[simp] theorem State.setCoreCtr_circ (s : State) (n i v : Nat) : (s.setCoreCtr n i v).circ = s.circ := rfl
@[simp] theorem State.setCoreCtr_queries (s : State) (n i v : Nat) : (s.setCoreCtr n i v).queries = s.queries := rfl
@[simp] theorem State.setCoreCtr_power (s : State) (n i v : Nat) : (s.setCoreCtr n i v).power = s.power := rfl
@[simp] theorem State.setCoreCtr_sec (s : State) (n i v : Nat) : (s.setCoreCtr n i v).sec = s.sec := rfl
@[simp] theorem State.setCoreCtr_side (s : State) (n i v : Nat) : (s.setCoreCtr n i v).side = s.side := rfl
@[simp] theorem State.setCoreCtr_free (s : State) (n i v : Nat) : (s.setCoreCtr n i v).free = s.free := rfl
@[simp] theorem State.setCoreCtr_out (s : State) (n i v : Nat) : (s.setCoreCtr n i v).out = s.out := rfl
@[simp] theorem State.setCoreCtr_pending (s : State) (n i v : Nat) : (s.setCoreCtr n i v).pending = s.pending := rfl
@[simp] theorem State.setCoreCtr_reg (s : State) (n i v : Nat) (a : Nat) : (s.setCoreCtr n i v).reg a = s.reg a := rfl
@[simp] theorem State.setCoreCtr_stg (s : State) (n i v : Nat) (a : Nat) : (s.setCoreCtr n i v).stg a = s.stg a := rfl
@[simp] theorem State.setCoreCtr_shadow (s : State) (n i v : Nat) (a : Nat) : (s.setCoreCtr n i v).shadow a = s.shadow a := rfl
@[simp] theorem State.setCoreCtr_count (s : State) (n i v : Nat) (a : Nat) : (s.setCoreCtr n i v).count a = s.count a := rfl
@[simp] theorem State.setCoreCtr_queue (s : State) (n i v : Nat) (a : Nat) : (s.setCoreCtr n i v).queue a = s.queue a := rfl
@[simp] theorem State.setCoreCtr_bar (s : State) (n i v : Nat) (a : Nat) : (s.setCoreCtr n i v).bar a = s.bar a := rfl
@[simp] theorem State.setCoreCtr_port (s : State) (n i v : Nat) (a : Nat) : (s.setCoreCtr n i v).port a = s.port a := rfl
@[simp] theorem State.setCoreCtr_cache (s : State) (n i v : Nat) (a : Nat) : (s.setCoreCtr n i v).cache a = s.cache a := rfl
@[simp] theorem State.setCoreCtr_chipCtr (s : State) (n i v : Nat) (a : Nat) : (s.setCoreCtr n i v).chipCtr a = s.chipCtr a := rfl
@[simp] theorem State.setCoreCtr_t0 (s : State) (n i v : Nat) (a b' : Nat) : (s.setCoreCtr n i v).t0 a b' = s.t0 a b' := rfl
@[simp] theorem State.setCoreCtr_t1 (s : State) (n i v : Nat) (a b' : Nat) : (s.setCoreCtr n i v).t1 a b' = s.t1 a b' := rfl
@[simp] theorem State.setCoreCtr_flight (s : State) (n i v : Nat) (a : Nat) : (s.setCoreCtr n i v).flight? a = s.flight? a := rfl
@[simp] theorem State.setCoreCtr_qp (s : State) (n i v : Nat) (a : Nat) : (s.setCoreCtr n i v).qp a = s.qp a := rfl
@[simp] theorem State.setCoreCtr_chipId (s : State) (n i v : Nat) : (s.setCoreCtr n i v).chipId  = s.chipId := rfl
@[simp] theorem State.setChipCtr_win (s : State) (i v : Nat) : (s.setChipCtr i v).win = s.win := rfl
@[simp] theorem State.setChipCtr_commit (s : State) (i v : Nat) : (s.setChipCtr i v).commit = s.commit := rfl
@[simp] theorem State.setChipCtr_time (s : State) (i v : Nat) : (s.setChipCtr i v).time = s.time := rfl
@[simp] theorem State.setChipCtr_cores (s : State) (i v : Nat) : (s.setChipCtr i v).cores = s.cores := rfl
@[simp] theorem State.setChipCtr_mem (s : State) (i v : Nat) : (s.setChipCtr i v).mem = s.mem := rfl
@[simp] theorem State.setChipCtr_tier (s : State) (i v : Nat) : (s.setChipCtr i v).tier = s.tier := rfl
@[simp] theorem State.setChipCtr_cmd (s : State) (i v : Nat) : (s.setChipCtr i v).cmd = s.cmd := rfl
@[simp] theorem State.setChipCtr_host (s : State) (i v : Nat) : (s.setChipCtr i v).host = s.host := rfl
@[simp] theorem State.setChipCtr_disc (s : State) (i v : Nat) : (s.setChipCtr i v).disc = s.disc := rfl
@[simp] theorem State.setChipCtr_fatal (s : State) (i v : Nat) : (s.setChipCtr i v).fatal = s.fatal := rfl
@[simp] theorem State.setChipCtr_links (s : State) (i v : Nat) : (s.setChipCtr i v).links = s.links := rfl
@[simp] theorem State.setChipCtr_coll (s : State) (i v : Nat) : (s.setChipCtr i v).coll = s.coll := rfl
@[simp] theorem State.setChipCtr_circ (s : State) (i v : Nat) : (s.setChipCtr i v).circ = s.circ := rfl
@[simp] theorem State.setChipCtr_queries (s : State) (i v : Nat) : (s.setChipCtr i v).queries = s.queries := rfl
@[simp] theorem State.setChipCtr_power (s : State) (i v : Nat) : (s.setChipCtr i v).power = s.power := rfl
@[simp] theorem State.setChipCtr_sec (s : State) (i v : Nat) : (s.setChipCtr i v).sec = s.sec := rfl
@[simp] theorem State.setChipCtr_side (s : State) (i v : Nat) : (s.setChipCtr i v).side = s.side := rfl
@[simp] theorem State.setChipCtr_free (s : State) (i v : Nat) : (s.setChipCtr i v).free = s.free := rfl
@[simp] theorem State.setChipCtr_out (s : State) (i v : Nat) : (s.setChipCtr i v).out = s.out := rfl
@[simp] theorem State.setChipCtr_pending (s : State) (i v : Nat) : (s.setChipCtr i v).pending = s.pending := rfl
@[simp] theorem State.setChipCtr_reg (s : State) (i v : Nat) (a : Nat) : (s.setChipCtr i v).reg a = s.reg a := rfl
@[simp] theorem State.setChipCtr_stg (s : State) (i v : Nat) (a : Nat) : (s.setChipCtr i v).stg a = s.stg a := rfl
@[simp] theorem State.setChipCtr_shadow (s : State) (i v : Nat) (a : Nat) : (s.setChipCtr i v).shadow a = s.shadow a := rfl
@[simp] theorem State.setChipCtr_count (s : State) (i v : Nat) (a : Nat) : (s.setChipCtr i v).count a = s.count a := rfl
@[simp] theorem State.setChipCtr_core (s : State) (i v : Nat) (a : Nat) : (s.setChipCtr i v).core a = s.core a := rfl
@[simp] theorem State.setChipCtr_queue (s : State) (i v : Nat) (a : Nat) : (s.setChipCtr i v).queue a = s.queue a := rfl
@[simp] theorem State.setChipCtr_bar (s : State) (i v : Nat) (a : Nat) : (s.setChipCtr i v).bar a = s.bar a := rfl
@[simp] theorem State.setChipCtr_port (s : State) (i v : Nat) (a : Nat) : (s.setChipCtr i v).port a = s.port a := rfl
@[simp] theorem State.setChipCtr_cache (s : State) (i v : Nat) (a : Nat) : (s.setChipCtr i v).cache a = s.cache a := rfl
@[simp] theorem State.setChipCtr_t0 (s : State) (i v : Nat) (a b' : Nat) : (s.setChipCtr i v).t0 a b' = s.t0 a b' := rfl
@[simp] theorem State.setChipCtr_t1 (s : State) (i v : Nat) (a b' : Nat) : (s.setChipCtr i v).t1 a b' = s.t1 a b' := rfl
@[simp] theorem State.setChipCtr_flight (s : State) (i v : Nat) (a : Nat) : (s.setChipCtr i v).flight? a = s.flight? a := rfl
@[simp] theorem State.setChipCtr_qp (s : State) (i v : Nat) (a : Nat) : (s.setChipCtr i v).qp a = s.qp a := rfl
@[simp] theorem State.setChipCtr_chipId (s : State) (i v : Nat) : (s.setChipCtr i v).chipId  = s.chipId := rfl
@[simp] theorem State.noteLast_win (s : State) (k x m : Nat) : (s.noteLast k x m).win = s.win := rfl
@[simp] theorem State.noteLast_commit (s : State) (k x m : Nat) : (s.noteLast k x m).commit = s.commit := rfl
@[simp] theorem State.noteLast_time (s : State) (k x m : Nat) : (s.noteLast k x m).time = s.time := rfl
@[simp] theorem State.noteLast_cores (s : State) (k x m : Nat) : (s.noteLast k x m).cores = s.cores := rfl
@[simp] theorem State.noteLast_mem (s : State) (k x m : Nat) : (s.noteLast k x m).mem = s.mem := rfl
@[simp] theorem State.noteLast_tier (s : State) (k x m : Nat) : (s.noteLast k x m).tier = s.tier := rfl
@[simp] theorem State.noteLast_cmd (s : State) (k x m : Nat) : (s.noteLast k x m).cmd = s.cmd := rfl
@[simp] theorem State.noteLast_host (s : State) (k x m : Nat) : (s.noteLast k x m).host = s.host := rfl
@[simp] theorem State.noteLast_disc (s : State) (k x m : Nat) : (s.noteLast k x m).disc = s.disc := rfl
@[simp] theorem State.noteLast_fatal (s : State) (k x m : Nat) : (s.noteLast k x m).fatal = s.fatal := rfl
@[simp] theorem State.noteLast_links (s : State) (k x m : Nat) : (s.noteLast k x m).links = s.links := rfl
@[simp] theorem State.noteLast_coll (s : State) (k x m : Nat) : (s.noteLast k x m).coll = s.coll := rfl
@[simp] theorem State.noteLast_circ (s : State) (k x m : Nat) : (s.noteLast k x m).circ = s.circ := rfl
@[simp] theorem State.noteLast_queries (s : State) (k x m : Nat) : (s.noteLast k x m).queries = s.queries := rfl
@[simp] theorem State.noteLast_power (s : State) (k x m : Nat) : (s.noteLast k x m).power = s.power := rfl
@[simp] theorem State.noteLast_sec (s : State) (k x m : Nat) : (s.noteLast k x m).sec = s.sec := rfl
@[simp] theorem State.noteLast_side (s : State) (k x m : Nat) : (s.noteLast k x m).side = s.side := rfl
@[simp] theorem State.noteLast_free (s : State) (k x m : Nat) : (s.noteLast k x m).free = s.free := rfl
@[simp] theorem State.noteLast_out (s : State) (k x m : Nat) : (s.noteLast k x m).out = s.out := rfl
@[simp] theorem State.noteLast_pending (s : State) (k x m : Nat) : (s.noteLast k x m).pending = s.pending := rfl
@[simp] theorem State.noteLast_reg (s : State) (k x m : Nat) (a : Nat) : (s.noteLast k x m).reg a = s.reg a := rfl
@[simp] theorem State.noteLast_stg (s : State) (k x m : Nat) (a : Nat) : (s.noteLast k x m).stg a = s.stg a := rfl
@[simp] theorem State.noteLast_shadow (s : State) (k x m : Nat) (a : Nat) : (s.noteLast k x m).shadow a = s.shadow a := rfl
@[simp] theorem State.noteLast_count (s : State) (k x m : Nat) (a : Nat) : (s.noteLast k x m).count a = s.count a := rfl
@[simp] theorem State.noteLast_core (s : State) (k x m : Nat) (a : Nat) : (s.noteLast k x m).core a = s.core a := rfl
@[simp] theorem State.noteLast_queue (s : State) (k x m : Nat) (a : Nat) : (s.noteLast k x m).queue a = s.queue a := rfl
@[simp] theorem State.noteLast_bar (s : State) (k x m : Nat) (a : Nat) : (s.noteLast k x m).bar a = s.bar a := rfl
@[simp] theorem State.noteLast_port (s : State) (k x m : Nat) (a : Nat) : (s.noteLast k x m).port a = s.port a := rfl
@[simp] theorem State.noteLast_cache (s : State) (k x m : Nat) (a : Nat) : (s.noteLast k x m).cache a = s.cache a := rfl
@[simp] theorem State.noteLast_chipCtr (s : State) (k x m : Nat) (a : Nat) : (s.noteLast k x m).chipCtr a = s.chipCtr a := rfl
@[simp] theorem State.noteLast_t0 (s : State) (k x m : Nat) (a b' : Nat) : (s.noteLast k x m).t0 a b' = s.t0 a b' := rfl
@[simp] theorem State.noteLast_t1 (s : State) (k x m : Nat) (a b' : Nat) : (s.noteLast k x m).t1 a b' = s.t1 a b' := rfl
@[simp] theorem State.noteLast_flight (s : State) (k x m : Nat) (a : Nat) : (s.noteLast k x m).flight? a = s.flight? a := rfl
@[simp] theorem State.noteLast_qp (s : State) (k x m : Nat) (a : Nat) : (s.noteLast k x m).qp a = s.qp a := rfl
@[simp] theorem State.noteLast_chipId (s : State) (k x m : Nat) : (s.noteLast k x m).chipId  = s.chipId := rfl
@[simp] theorem State.onQueue_win (s : State) (q : Nat) (f : Queue → Queue) : (s.onQueue q f).win = s.win := rfl
@[simp] theorem State.onQueue_commit (s : State) (q : Nat) (f : Queue → Queue) : (s.onQueue q f).commit = s.commit := rfl
@[simp] theorem State.onQueue_time (s : State) (q : Nat) (f : Queue → Queue) : (s.onQueue q f).time = s.time := rfl
@[simp] theorem State.onQueue_cores (s : State) (q : Nat) (f : Queue → Queue) : (s.onQueue q f).cores = s.cores := rfl
@[simp] theorem State.onQueue_sync (s : State) (q : Nat) (f : Queue → Queue) : (s.onQueue q f).sync = s.sync := rfl
@[simp] theorem State.onQueue_mem (s : State) (q : Nat) (f : Queue → Queue) : (s.onQueue q f).mem = s.mem := rfl
@[simp] theorem State.onQueue_tier (s : State) (q : Nat) (f : Queue → Queue) : (s.onQueue q f).tier = s.tier := rfl
@[simp] theorem State.onQueue_host (s : State) (q : Nat) (f : Queue → Queue) : (s.onQueue q f).host = s.host := rfl
@[simp] theorem State.onQueue_disc (s : State) (q : Nat) (f : Queue → Queue) : (s.onQueue q f).disc = s.disc := rfl
@[simp] theorem State.onQueue_fatal (s : State) (q : Nat) (f : Queue → Queue) : (s.onQueue q f).fatal = s.fatal := rfl
@[simp] theorem State.onQueue_links (s : State) (q : Nat) (f : Queue → Queue) : (s.onQueue q f).links = s.links := rfl
@[simp] theorem State.onQueue_coll (s : State) (q : Nat) (f : Queue → Queue) : (s.onQueue q f).coll = s.coll := rfl
@[simp] theorem State.onQueue_circ (s : State) (q : Nat) (f : Queue → Queue) : (s.onQueue q f).circ = s.circ := rfl
@[simp] theorem State.onQueue_queries (s : State) (q : Nat) (f : Queue → Queue) : (s.onQueue q f).queries = s.queries := rfl
@[simp] theorem State.onQueue_power (s : State) (q : Nat) (f : Queue → Queue) : (s.onQueue q f).power = s.power := rfl
@[simp] theorem State.onQueue_sec (s : State) (q : Nat) (f : Queue → Queue) : (s.onQueue q f).sec = s.sec := rfl
@[simp] theorem State.onQueue_side (s : State) (q : Nat) (f : Queue → Queue) : (s.onQueue q f).side = s.side := rfl
@[simp] theorem State.onQueue_free (s : State) (q : Nat) (f : Queue → Queue) : (s.onQueue q f).free = s.free := rfl
@[simp] theorem State.onQueue_out (s : State) (q : Nat) (f : Queue → Queue) : (s.onQueue q f).out = s.out := rfl
@[simp] theorem State.onQueue_pending (s : State) (q : Nat) (f : Queue → Queue) : (s.onQueue q f).pending = s.pending := rfl
@[simp] theorem State.onQueue_reg (s : State) (q : Nat) (f : Queue → Queue) (a : Nat) : (s.onQueue q f).reg a = s.reg a := rfl
@[simp] theorem State.onQueue_stg (s : State) (q : Nat) (f : Queue → Queue) (a : Nat) : (s.onQueue q f).stg a = s.stg a := rfl
@[simp] theorem State.onQueue_shadow (s : State) (q : Nat) (f : Queue → Queue) (a : Nat) : (s.onQueue q f).shadow a = s.shadow a := rfl
@[simp] theorem State.onQueue_count (s : State) (q : Nat) (f : Queue → Queue) (a : Nat) : (s.onQueue q f).count a = s.count a := rfl
@[simp] theorem State.onQueue_core (s : State) (q : Nat) (f : Queue → Queue) (a : Nat) : (s.onQueue q f).core a = s.core a := rfl
@[simp] theorem State.onQueue_bar (s : State) (q : Nat) (f : Queue → Queue) (a : Nat) : (s.onQueue q f).bar a = s.bar a := rfl
@[simp] theorem State.onQueue_port (s : State) (q : Nat) (f : Queue → Queue) (a : Nat) : (s.onQueue q f).port a = s.port a := rfl
@[simp] theorem State.onQueue_cache (s : State) (q : Nat) (f : Queue → Queue) (a : Nat) : (s.onQueue q f).cache a = s.cache a := rfl
@[simp] theorem State.onQueue_chipCtr (s : State) (q : Nat) (f : Queue → Queue) (a : Nat) : (s.onQueue q f).chipCtr a = s.chipCtr a := rfl
@[simp] theorem State.onQueue_t0 (s : State) (q : Nat) (f : Queue → Queue) (a b' : Nat) : (s.onQueue q f).t0 a b' = s.t0 a b' := rfl
@[simp] theorem State.onQueue_t1 (s : State) (q : Nat) (f : Queue → Queue) (a b' : Nat) : (s.onQueue q f).t1 a b' = s.t1 a b' := rfl
@[simp] theorem State.onQueue_flight (s : State) (q : Nat) (f : Queue → Queue) (a : Nat) : (s.onQueue q f).flight? a = s.flight? a := rfl
@[simp] theorem State.onQueue_qp (s : State) (q : Nat) (f : Queue → Queue) (a : Nat) : (s.onQueue q f).qp a = s.qp a := rfl
@[simp] theorem State.onQueue_chipId (s : State) (q : Nat) (f : Queue → Queue) : (s.onQueue q f).chipId  = s.chipId := rfl
@[simp] theorem State.onBar_win (s : State) (e : Nat) (f : Barrier → Barrier) : (s.onBar e f).win = s.win := rfl
@[simp] theorem State.onBar_commit (s : State) (e : Nat) (f : Barrier → Barrier) : (s.onBar e f).commit = s.commit := rfl
@[simp] theorem State.onBar_time (s : State) (e : Nat) (f : Barrier → Barrier) : (s.onBar e f).time = s.time := rfl
@[simp] theorem State.onBar_cores (s : State) (e : Nat) (f : Barrier → Barrier) : (s.onBar e f).cores = s.cores := rfl
@[simp] theorem State.onBar_mem (s : State) (e : Nat) (f : Barrier → Barrier) : (s.onBar e f).mem = s.mem := rfl
@[simp] theorem State.onBar_tier (s : State) (e : Nat) (f : Barrier → Barrier) : (s.onBar e f).tier = s.tier := rfl
@[simp] theorem State.onBar_cmd (s : State) (e : Nat) (f : Barrier → Barrier) : (s.onBar e f).cmd = s.cmd := rfl
@[simp] theorem State.onBar_host (s : State) (e : Nat) (f : Barrier → Barrier) : (s.onBar e f).host = s.host := rfl
@[simp] theorem State.onBar_disc (s : State) (e : Nat) (f : Barrier → Barrier) : (s.onBar e f).disc = s.disc := rfl
@[simp] theorem State.onBar_fatal (s : State) (e : Nat) (f : Barrier → Barrier) : (s.onBar e f).fatal = s.fatal := rfl
@[simp] theorem State.onBar_links (s : State) (e : Nat) (f : Barrier → Barrier) : (s.onBar e f).links = s.links := rfl
@[simp] theorem State.onBar_coll (s : State) (e : Nat) (f : Barrier → Barrier) : (s.onBar e f).coll = s.coll := rfl
@[simp] theorem State.onBar_circ (s : State) (e : Nat) (f : Barrier → Barrier) : (s.onBar e f).circ = s.circ := rfl
@[simp] theorem State.onBar_queries (s : State) (e : Nat) (f : Barrier → Barrier) : (s.onBar e f).queries = s.queries := rfl
@[simp] theorem State.onBar_power (s : State) (e : Nat) (f : Barrier → Barrier) : (s.onBar e f).power = s.power := rfl
@[simp] theorem State.onBar_sec (s : State) (e : Nat) (f : Barrier → Barrier) : (s.onBar e f).sec = s.sec := rfl
@[simp] theorem State.onBar_side (s : State) (e : Nat) (f : Barrier → Barrier) : (s.onBar e f).side = s.side := rfl
@[simp] theorem State.onBar_free (s : State) (e : Nat) (f : Barrier → Barrier) : (s.onBar e f).free = s.free := rfl
@[simp] theorem State.onBar_out (s : State) (e : Nat) (f : Barrier → Barrier) : (s.onBar e f).out = s.out := rfl
@[simp] theorem State.onBar_pending (s : State) (e : Nat) (f : Barrier → Barrier) : (s.onBar e f).pending = s.pending := rfl
@[simp] theorem State.onBar_reg (s : State) (e : Nat) (f : Barrier → Barrier) (a : Nat) : (s.onBar e f).reg a = s.reg a := rfl
@[simp] theorem State.onBar_stg (s : State) (e : Nat) (f : Barrier → Barrier) (a : Nat) : (s.onBar e f).stg a = s.stg a := rfl
@[simp] theorem State.onBar_shadow (s : State) (e : Nat) (f : Barrier → Barrier) (a : Nat) : (s.onBar e f).shadow a = s.shadow a := rfl
@[simp] theorem State.onBar_count (s : State) (e : Nat) (f : Barrier → Barrier) (a : Nat) : (s.onBar e f).count a = s.count a := rfl
@[simp] theorem State.onBar_core (s : State) (e : Nat) (f : Barrier → Barrier) (a : Nat) : (s.onBar e f).core a = s.core a := rfl
@[simp] theorem State.onBar_queue (s : State) (e : Nat) (f : Barrier → Barrier) (a : Nat) : (s.onBar e f).queue a = s.queue a := rfl
@[simp] theorem State.onBar_port (s : State) (e : Nat) (f : Barrier → Barrier) (a : Nat) : (s.onBar e f).port a = s.port a := rfl
@[simp] theorem State.onBar_cache (s : State) (e : Nat) (f : Barrier → Barrier) (a : Nat) : (s.onBar e f).cache a = s.cache a := rfl
@[simp] theorem State.onBar_chipCtr (s : State) (e : Nat) (f : Barrier → Barrier) (a : Nat) : (s.onBar e f).chipCtr a = s.chipCtr a := rfl
@[simp] theorem State.onBar_t0 (s : State) (e : Nat) (f : Barrier → Barrier) (a b' : Nat) : (s.onBar e f).t0 a b' = s.t0 a b' := rfl
@[simp] theorem State.onBar_t1 (s : State) (e : Nat) (f : Barrier → Barrier) (a b' : Nat) : (s.onBar e f).t1 a b' = s.t1 a b' := rfl
@[simp] theorem State.onBar_flight (s : State) (e : Nat) (f : Barrier → Barrier) (a : Nat) : (s.onBar e f).flight? a = s.flight? a := rfl
@[simp] theorem State.onBar_qp (s : State) (e : Nat) (f : Barrier → Barrier) (a : Nat) : (s.onBar e f).qp a = s.qp a := rfl
@[simp] theorem State.onBar_chipId (s : State) (e : Nat) (f : Barrier → Barrier) : (s.onBar e f).chipId  = s.chipId := rfl
@[simp] theorem State.onFlight_win (s : State) (i : Nat) (f : Flight → Flight) : (s.onFlight i f).win = s.win := rfl
@[simp] theorem State.onFlight_commit (s : State) (i : Nat) (f : Flight → Flight) : (s.onFlight i f).commit = s.commit := rfl
@[simp] theorem State.onFlight_time (s : State) (i : Nat) (f : Flight → Flight) : (s.onFlight i f).time = s.time := rfl
@[simp] theorem State.onFlight_cores (s : State) (i : Nat) (f : Flight → Flight) : (s.onFlight i f).cores = s.cores := rfl
@[simp] theorem State.onFlight_sync (s : State) (i : Nat) (f : Flight → Flight) : (s.onFlight i f).sync = s.sync := rfl
@[simp] theorem State.onFlight_mem (s : State) (i : Nat) (f : Flight → Flight) : (s.onFlight i f).mem = s.mem := rfl
@[simp] theorem State.onFlight_tier (s : State) (i : Nat) (f : Flight → Flight) : (s.onFlight i f).tier = s.tier := rfl
@[simp] theorem State.onFlight_host (s : State) (i : Nat) (f : Flight → Flight) : (s.onFlight i f).host = s.host := rfl
@[simp] theorem State.onFlight_disc (s : State) (i : Nat) (f : Flight → Flight) : (s.onFlight i f).disc = s.disc := rfl
@[simp] theorem State.onFlight_fatal (s : State) (i : Nat) (f : Flight → Flight) : (s.onFlight i f).fatal = s.fatal := rfl
@[simp] theorem State.onFlight_links (s : State) (i : Nat) (f : Flight → Flight) : (s.onFlight i f).links = s.links := rfl
@[simp] theorem State.onFlight_coll (s : State) (i : Nat) (f : Flight → Flight) : (s.onFlight i f).coll = s.coll := rfl
@[simp] theorem State.onFlight_circ (s : State) (i : Nat) (f : Flight → Flight) : (s.onFlight i f).circ = s.circ := rfl
@[simp] theorem State.onFlight_queries (s : State) (i : Nat) (f : Flight → Flight) : (s.onFlight i f).queries = s.queries := rfl
@[simp] theorem State.onFlight_power (s : State) (i : Nat) (f : Flight → Flight) : (s.onFlight i f).power = s.power := rfl
@[simp] theorem State.onFlight_sec (s : State) (i : Nat) (f : Flight → Flight) : (s.onFlight i f).sec = s.sec := rfl
@[simp] theorem State.onFlight_side (s : State) (i : Nat) (f : Flight → Flight) : (s.onFlight i f).side = s.side := rfl
@[simp] theorem State.onFlight_free (s : State) (i : Nat) (f : Flight → Flight) : (s.onFlight i f).free = s.free := rfl
@[simp] theorem State.onFlight_out (s : State) (i : Nat) (f : Flight → Flight) : (s.onFlight i f).out = s.out := rfl
@[simp] theorem State.onFlight_pending (s : State) (i : Nat) (f : Flight → Flight) : (s.onFlight i f).pending = s.pending := rfl
@[simp] theorem State.onFlight_reg (s : State) (i : Nat) (f : Flight → Flight) (a : Nat) : (s.onFlight i f).reg a = s.reg a := rfl
@[simp] theorem State.onFlight_stg (s : State) (i : Nat) (f : Flight → Flight) (a : Nat) : (s.onFlight i f).stg a = s.stg a := rfl
@[simp] theorem State.onFlight_shadow (s : State) (i : Nat) (f : Flight → Flight) (a : Nat) : (s.onFlight i f).shadow a = s.shadow a := rfl
@[simp] theorem State.onFlight_count (s : State) (i : Nat) (f : Flight → Flight) (a : Nat) : (s.onFlight i f).count a = s.count a := rfl
@[simp] theorem State.onFlight_core (s : State) (i : Nat) (f : Flight → Flight) (a : Nat) : (s.onFlight i f).core a = s.core a := rfl
@[simp] theorem State.onFlight_queue (s : State) (i : Nat) (f : Flight → Flight) (a : Nat) : (s.onFlight i f).queue a = s.queue a := rfl
@[simp] theorem State.onFlight_bar (s : State) (i : Nat) (f : Flight → Flight) (a : Nat) : (s.onFlight i f).bar a = s.bar a := rfl
@[simp] theorem State.onFlight_port (s : State) (i : Nat) (f : Flight → Flight) (a : Nat) : (s.onFlight i f).port a = s.port a := rfl
@[simp] theorem State.onFlight_cache (s : State) (i : Nat) (f : Flight → Flight) (a : Nat) : (s.onFlight i f).cache a = s.cache a := rfl
@[simp] theorem State.onFlight_chipCtr (s : State) (i : Nat) (f : Flight → Flight) (a : Nat) : (s.onFlight i f).chipCtr a = s.chipCtr a := rfl
@[simp] theorem State.onFlight_t0 (s : State) (i : Nat) (f : Flight → Flight) (a b' : Nat) : (s.onFlight i f).t0 a b' = s.t0 a b' := rfl
@[simp] theorem State.onFlight_t1 (s : State) (i : Nat) (f : Flight → Flight) (a b' : Nat) : (s.onFlight i f).t1 a b' = s.t1 a b' := rfl
@[simp] theorem State.onFlight_qp (s : State) (i : Nat) (f : Flight → Flight) (a : Nat) : (s.onFlight i f).qp a = s.qp a := rfl
@[simp] theorem State.onFlight_chipId (s : State) (i : Nat) (f : Flight → Flight) : (s.onFlight i f).chipId  = s.chipId := rfl
@[simp] theorem State.dropRequest_win (s : State) (t : Nat) : (s.dropRequest t).win = s.win := rfl
@[simp] theorem State.dropRequest_commit (s : State) (t : Nat) : (s.dropRequest t).commit = s.commit := rfl
@[simp] theorem State.dropRequest_time (s : State) (t : Nat) : (s.dropRequest t).time = s.time := rfl
@[simp] theorem State.dropRequest_cores (s : State) (t : Nat) : (s.dropRequest t).cores = s.cores := rfl
@[simp] theorem State.dropRequest_sync (s : State) (t : Nat) : (s.dropRequest t).sync = s.sync := rfl
@[simp] theorem State.dropRequest_mem (s : State) (t : Nat) : (s.dropRequest t).mem = s.mem := rfl
@[simp] theorem State.dropRequest_tier (s : State) (t : Nat) : (s.dropRequest t).tier = s.tier := rfl
@[simp] theorem State.dropRequest_host (s : State) (t : Nat) : (s.dropRequest t).host = s.host := rfl
@[simp] theorem State.dropRequest_disc (s : State) (t : Nat) : (s.dropRequest t).disc = s.disc := rfl
@[simp] theorem State.dropRequest_fatal (s : State) (t : Nat) : (s.dropRequest t).fatal = s.fatal := rfl
@[simp] theorem State.dropRequest_links (s : State) (t : Nat) : (s.dropRequest t).links = s.links := rfl
@[simp] theorem State.dropRequest_coll (s : State) (t : Nat) : (s.dropRequest t).coll = s.coll := rfl
@[simp] theorem State.dropRequest_circ (s : State) (t : Nat) : (s.dropRequest t).circ = s.circ := rfl
@[simp] theorem State.dropRequest_queries (s : State) (t : Nat) : (s.dropRequest t).queries = s.queries := rfl
@[simp] theorem State.dropRequest_power (s : State) (t : Nat) : (s.dropRequest t).power = s.power := rfl
@[simp] theorem State.dropRequest_sec (s : State) (t : Nat) : (s.dropRequest t).sec = s.sec := rfl
@[simp] theorem State.dropRequest_side (s : State) (t : Nat) : (s.dropRequest t).side = s.side := rfl
@[simp] theorem State.dropRequest_free (s : State) (t : Nat) : (s.dropRequest t).free = s.free := rfl
@[simp] theorem State.dropRequest_out (s : State) (t : Nat) : (s.dropRequest t).out = s.out := rfl
@[simp] theorem State.dropRequest_pending (s : State) (t : Nat) : (s.dropRequest t).pending = s.pending := rfl
@[simp] theorem State.dropRequest_reg (s : State) (t : Nat) (a : Nat) : (s.dropRequest t).reg a = s.reg a := rfl
@[simp] theorem State.dropRequest_stg (s : State) (t : Nat) (a : Nat) : (s.dropRequest t).stg a = s.stg a := rfl
@[simp] theorem State.dropRequest_shadow (s : State) (t : Nat) (a : Nat) : (s.dropRequest t).shadow a = s.shadow a := rfl
@[simp] theorem State.dropRequest_count (s : State) (t : Nat) (a : Nat) : (s.dropRequest t).count a = s.count a := rfl
@[simp] theorem State.dropRequest_core (s : State) (t : Nat) (a : Nat) : (s.dropRequest t).core a = s.core a := rfl
@[simp] theorem State.dropRequest_queue (s : State) (t : Nat) (a : Nat) : (s.dropRequest t).queue a = s.queue a := rfl
@[simp] theorem State.dropRequest_bar (s : State) (t : Nat) (a : Nat) : (s.dropRequest t).bar a = s.bar a := rfl
@[simp] theorem State.dropRequest_port (s : State) (t : Nat) (a : Nat) : (s.dropRequest t).port a = s.port a := rfl
@[simp] theorem State.dropRequest_cache (s : State) (t : Nat) (a : Nat) : (s.dropRequest t).cache a = s.cache a := rfl
@[simp] theorem State.dropRequest_chipCtr (s : State) (t : Nat) (a : Nat) : (s.dropRequest t).chipCtr a = s.chipCtr a := rfl
@[simp] theorem State.dropRequest_t0 (s : State) (t : Nat) (a b' : Nat) : (s.dropRequest t).t0 a b' = s.t0 a b' := rfl
@[simp] theorem State.dropRequest_t1 (s : State) (t : Nat) (a b' : Nat) : (s.dropRequest t).t1 a b' = s.t1 a b' := rfl
@[simp] theorem State.dropRequest_flight (s : State) (t : Nat) (a : Nat) : (s.dropRequest t).flight? a = s.flight? a := rfl
@[simp] theorem State.dropRequest_qp (s : State) (t : Nat) (a : Nat) : (s.dropRequest t).qp a = s.qp a := rfl
@[simp] theorem State.dropRequest_chipId (s : State) (t : Nat) : (s.dropRequest t).chipId  = s.chipId := rfl
@[simp] theorem State.setT0_win (s : State) (o : Nat) (b : List Byte) : (s.setT0 o b).win = s.win := rfl
@[simp] theorem State.setT0_commit (s : State) (o : Nat) (b : List Byte) : (s.setT0 o b).commit = s.commit := rfl
@[simp] theorem State.setT0_time (s : State) (o : Nat) (b : List Byte) : (s.setT0 o b).time = s.time := rfl
@[simp] theorem State.setT0_cores (s : State) (o : Nat) (b : List Byte) : (s.setT0 o b).cores = s.cores := rfl
@[simp] theorem State.setT0_sync (s : State) (o : Nat) (b : List Byte) : (s.setT0 o b).sync = s.sync := rfl
@[simp] theorem State.setT0_tier (s : State) (o : Nat) (b : List Byte) : (s.setT0 o b).tier = s.tier := rfl
@[simp] theorem State.setT0_cmd (s : State) (o : Nat) (b : List Byte) : (s.setT0 o b).cmd = s.cmd := rfl
@[simp] theorem State.setT0_host (s : State) (o : Nat) (b : List Byte) : (s.setT0 o b).host = s.host := rfl
@[simp] theorem State.setT0_disc (s : State) (o : Nat) (b : List Byte) : (s.setT0 o b).disc = s.disc := rfl
@[simp] theorem State.setT0_fatal (s : State) (o : Nat) (b : List Byte) : (s.setT0 o b).fatal = s.fatal := rfl
@[simp] theorem State.setT0_links (s : State) (o : Nat) (b : List Byte) : (s.setT0 o b).links = s.links := rfl
@[simp] theorem State.setT0_coll (s : State) (o : Nat) (b : List Byte) : (s.setT0 o b).coll = s.coll := rfl
@[simp] theorem State.setT0_circ (s : State) (o : Nat) (b : List Byte) : (s.setT0 o b).circ = s.circ := rfl
@[simp] theorem State.setT0_queries (s : State) (o : Nat) (b : List Byte) : (s.setT0 o b).queries = s.queries := rfl
@[simp] theorem State.setT0_power (s : State) (o : Nat) (b : List Byte) : (s.setT0 o b).power = s.power := rfl
@[simp] theorem State.setT0_sec (s : State) (o : Nat) (b : List Byte) : (s.setT0 o b).sec = s.sec := rfl
@[simp] theorem State.setT0_side (s : State) (o : Nat) (b : List Byte) : (s.setT0 o b).side = s.side := rfl
@[simp] theorem State.setT0_free (s : State) (o : Nat) (b : List Byte) : (s.setT0 o b).free = s.free := rfl
@[simp] theorem State.setT0_out (s : State) (o : Nat) (b : List Byte) : (s.setT0 o b).out = s.out := rfl
@[simp] theorem State.setT0_pending (s : State) (o : Nat) (b : List Byte) : (s.setT0 o b).pending = s.pending := rfl
@[simp] theorem State.setT0_reg (s : State) (o : Nat) (b : List Byte) (a : Nat) : (s.setT0 o b).reg a = s.reg a := rfl
@[simp] theorem State.setT0_stg (s : State) (o : Nat) (b : List Byte) (a : Nat) : (s.setT0 o b).stg a = s.stg a := rfl
@[simp] theorem State.setT0_shadow (s : State) (o : Nat) (b : List Byte) (a : Nat) : (s.setT0 o b).shadow a = s.shadow a := rfl
@[simp] theorem State.setT0_count (s : State) (o : Nat) (b : List Byte) (a : Nat) : (s.setT0 o b).count a = s.count a := rfl
@[simp] theorem State.setT0_core (s : State) (o : Nat) (b : List Byte) (a : Nat) : (s.setT0 o b).core a = s.core a := rfl
@[simp] theorem State.setT0_queue (s : State) (o : Nat) (b : List Byte) (a : Nat) : (s.setT0 o b).queue a = s.queue a := rfl
@[simp] theorem State.setT0_bar (s : State) (o : Nat) (b : List Byte) (a : Nat) : (s.setT0 o b).bar a = s.bar a := rfl
@[simp] theorem State.setT0_port (s : State) (o : Nat) (b : List Byte) (a : Nat) : (s.setT0 o b).port a = s.port a := rfl
@[simp] theorem State.setT0_cache (s : State) (o : Nat) (b : List Byte) (a : Nat) : (s.setT0 o b).cache a = s.cache a := rfl
@[simp] theorem State.setT0_chipCtr (s : State) (o : Nat) (b : List Byte) (a : Nat) : (s.setT0 o b).chipCtr a = s.chipCtr a := rfl
@[simp] theorem State.setT0_t1 (s : State) (o : Nat) (b : List Byte) (a b' : Nat) : (s.setT0 o b).t1 a b' = s.t1 a b' := rfl
@[simp] theorem State.setT0_flight (s : State) (o : Nat) (b : List Byte) (a : Nat) : (s.setT0 o b).flight? a = s.flight? a := rfl
@[simp] theorem State.setT0_qp (s : State) (o : Nat) (b : List Byte) (a : Nat) : (s.setT0 o b).qp a = s.qp a := rfl
@[simp] theorem State.setT0_chipId (s : State) (o : Nat) (b : List Byte) : (s.setT0 o b).chipId  = s.chipId := rfl
@[simp] theorem State.setWs_win (s : State) (n o : Nat) (b : List Byte) : (s.setWs n o b).win = s.win := rfl
@[simp] theorem State.setWs_commit (s : State) (n o : Nat) (b : List Byte) : (s.setWs n o b).commit = s.commit := rfl
@[simp] theorem State.setWs_time (s : State) (n o : Nat) (b : List Byte) : (s.setWs n o b).time = s.time := rfl
@[simp] theorem State.setWs_cores (s : State) (n o : Nat) (b : List Byte) : (s.setWs n o b).cores = s.cores := rfl
@[simp] theorem State.setWs_sync (s : State) (n o : Nat) (b : List Byte) : (s.setWs n o b).sync = s.sync := rfl
@[simp] theorem State.setWs_tier (s : State) (n o : Nat) (b : List Byte) : (s.setWs n o b).tier = s.tier := rfl
@[simp] theorem State.setWs_cmd (s : State) (n o : Nat) (b : List Byte) : (s.setWs n o b).cmd = s.cmd := rfl
@[simp] theorem State.setWs_host (s : State) (n o : Nat) (b : List Byte) : (s.setWs n o b).host = s.host := rfl
@[simp] theorem State.setWs_disc (s : State) (n o : Nat) (b : List Byte) : (s.setWs n o b).disc = s.disc := rfl
@[simp] theorem State.setWs_fatal (s : State) (n o : Nat) (b : List Byte) : (s.setWs n o b).fatal = s.fatal := rfl
@[simp] theorem State.setWs_links (s : State) (n o : Nat) (b : List Byte) : (s.setWs n o b).links = s.links := rfl
@[simp] theorem State.setWs_coll (s : State) (n o : Nat) (b : List Byte) : (s.setWs n o b).coll = s.coll := rfl
@[simp] theorem State.setWs_circ (s : State) (n o : Nat) (b : List Byte) : (s.setWs n o b).circ = s.circ := rfl
@[simp] theorem State.setWs_queries (s : State) (n o : Nat) (b : List Byte) : (s.setWs n o b).queries = s.queries := rfl
@[simp] theorem State.setWs_power (s : State) (n o : Nat) (b : List Byte) : (s.setWs n o b).power = s.power := rfl
@[simp] theorem State.setWs_sec (s : State) (n o : Nat) (b : List Byte) : (s.setWs n o b).sec = s.sec := rfl
@[simp] theorem State.setWs_side (s : State) (n o : Nat) (b : List Byte) : (s.setWs n o b).side = s.side := rfl
@[simp] theorem State.setWs_free (s : State) (n o : Nat) (b : List Byte) : (s.setWs n o b).free = s.free := rfl
@[simp] theorem State.setWs_out (s : State) (n o : Nat) (b : List Byte) : (s.setWs n o b).out = s.out := rfl
@[simp] theorem State.setWs_pending (s : State) (n o : Nat) (b : List Byte) : (s.setWs n o b).pending = s.pending := rfl
@[simp] theorem State.setWs_reg (s : State) (n o : Nat) (b : List Byte) (a : Nat) : (s.setWs n o b).reg a = s.reg a := rfl
@[simp] theorem State.setWs_stg (s : State) (n o : Nat) (b : List Byte) (a : Nat) : (s.setWs n o b).stg a = s.stg a := rfl
@[simp] theorem State.setWs_shadow (s : State) (n o : Nat) (b : List Byte) (a : Nat) : (s.setWs n o b).shadow a = s.shadow a := rfl
@[simp] theorem State.setWs_count (s : State) (n o : Nat) (b : List Byte) (a : Nat) : (s.setWs n o b).count a = s.count a := rfl
@[simp] theorem State.setWs_core (s : State) (n o : Nat) (b : List Byte) (a : Nat) : (s.setWs n o b).core a = s.core a := rfl
@[simp] theorem State.setWs_queue (s : State) (n o : Nat) (b : List Byte) (a : Nat) : (s.setWs n o b).queue a = s.queue a := rfl
@[simp] theorem State.setWs_bar (s : State) (n o : Nat) (b : List Byte) (a : Nat) : (s.setWs n o b).bar a = s.bar a := rfl
@[simp] theorem State.setWs_port (s : State) (n o : Nat) (b : List Byte) (a : Nat) : (s.setWs n o b).port a = s.port a := rfl
@[simp] theorem State.setWs_cache (s : State) (n o : Nat) (b : List Byte) (a : Nat) : (s.setWs n o b).cache a = s.cache a := rfl
@[simp] theorem State.setWs_chipCtr (s : State) (n o : Nat) (b : List Byte) (a : Nat) : (s.setWs n o b).chipCtr a = s.chipCtr a := rfl
@[simp] theorem State.setWs_t1 (s : State) (n o : Nat) (b : List Byte) (a b' : Nat) : (s.setWs n o b).t1 a b' = s.t1 a b' := rfl
@[simp] theorem State.setWs_flight (s : State) (n o : Nat) (b : List Byte) (a : Nat) : (s.setWs n o b).flight? a = s.flight? a := rfl
@[simp] theorem State.setWs_qp (s : State) (n o : Nat) (b : List Byte) (a : Nat) : (s.setWs n o b).qp a = s.qp a := rfl
@[simp] theorem State.setWs_chipId (s : State) (n o : Nat) (b : List Byte) : (s.setWs n o b).chipId  = s.chipId := rfl
@[simp] theorem State.setT1_commit (s : State) (o : Nat) (b : List Byte) : (s.setT1 o b).commit = s.commit := rfl
@[simp] theorem State.setT1_time (s : State) (o : Nat) (b : List Byte) : (s.setT1 o b).time = s.time := rfl
@[simp] theorem State.setT1_cores (s : State) (o : Nat) (b : List Byte) : (s.setT1 o b).cores = s.cores := rfl
@[simp] theorem State.setT1_sync (s : State) (o : Nat) (b : List Byte) : (s.setT1 o b).sync = s.sync := rfl
@[simp] theorem State.setT1_tier (s : State) (o : Nat) (b : List Byte) : (s.setT1 o b).tier = s.tier := rfl
@[simp] theorem State.setT1_cmd (s : State) (o : Nat) (b : List Byte) : (s.setT1 o b).cmd = s.cmd := rfl
@[simp] theorem State.setT1_host (s : State) (o : Nat) (b : List Byte) : (s.setT1 o b).host = s.host := rfl
@[simp] theorem State.setT1_disc (s : State) (o : Nat) (b : List Byte) : (s.setT1 o b).disc = s.disc := rfl
@[simp] theorem State.setT1_fatal (s : State) (o : Nat) (b : List Byte) : (s.setT1 o b).fatal = s.fatal := rfl
@[simp] theorem State.setT1_links (s : State) (o : Nat) (b : List Byte) : (s.setT1 o b).links = s.links := rfl
@[simp] theorem State.setT1_coll (s : State) (o : Nat) (b : List Byte) : (s.setT1 o b).coll = s.coll := rfl
@[simp] theorem State.setT1_circ (s : State) (o : Nat) (b : List Byte) : (s.setT1 o b).circ = s.circ := rfl
@[simp] theorem State.setT1_queries (s : State) (o : Nat) (b : List Byte) : (s.setT1 o b).queries = s.queries := rfl
@[simp] theorem State.setT1_power (s : State) (o : Nat) (b : List Byte) : (s.setT1 o b).power = s.power := rfl
@[simp] theorem State.setT1_sec (s : State) (o : Nat) (b : List Byte) : (s.setT1 o b).sec = s.sec := rfl
@[simp] theorem State.setT1_side (s : State) (o : Nat) (b : List Byte) : (s.setT1 o b).side = s.side := rfl
@[simp] theorem State.setT1_free (s : State) (o : Nat) (b : List Byte) : (s.setT1 o b).free = s.free := rfl
@[simp] theorem State.setT1_out (s : State) (o : Nat) (b : List Byte) : (s.setT1 o b).out = s.out := rfl
@[simp] theorem State.setT1_pending (s : State) (o : Nat) (b : List Byte) : (s.setT1 o b).pending = s.pending := rfl
@[simp] theorem State.setT1_reg (s : State) (o : Nat) (b : List Byte) (a : Nat) : (s.setT1 o b).reg a = s.reg a := rfl
@[simp] theorem State.setT1_stg (s : State) (o : Nat) (b : List Byte) (a : Nat) : (s.setT1 o b).stg a = s.stg a := rfl
@[simp] theorem State.setT1_shadow (s : State) (o : Nat) (b : List Byte) (a : Nat) : (s.setT1 o b).shadow a = s.shadow a := rfl
@[simp] theorem State.setT1_core (s : State) (o : Nat) (b : List Byte) (a : Nat) : (s.setT1 o b).core a = s.core a := rfl
@[simp] theorem State.setT1_queue (s : State) (o : Nat) (b : List Byte) (a : Nat) : (s.setT1 o b).queue a = s.queue a := rfl
@[simp] theorem State.setT1_bar (s : State) (o : Nat) (b : List Byte) (a : Nat) : (s.setT1 o b).bar a = s.bar a := rfl
@[simp] theorem State.setT1_port (s : State) (o : Nat) (b : List Byte) (a : Nat) : (s.setT1 o b).port a = s.port a := rfl
@[simp] theorem State.setT1_cache (s : State) (o : Nat) (b : List Byte) (a : Nat) : (s.setT1 o b).cache a = s.cache a := rfl
@[simp] theorem State.setT1_chipCtr (s : State) (o : Nat) (b : List Byte) (a : Nat) : (s.setT1 o b).chipCtr a = s.chipCtr a := rfl
@[simp] theorem State.setT1_t0 (s : State) (o : Nat) (b : List Byte) (a b' : Nat) : (s.setT1 o b).t0 a b' = s.t0 a b' := rfl
@[simp] theorem State.setT1_flight (s : State) (o : Nat) (b : List Byte) (a : Nat) : (s.setT1 o b).flight? a = s.flight? a := rfl
@[simp] theorem State.setT1_qp (s : State) (o : Nat) (b : List Byte) (a : Nat) : (s.setT1 o b).qp a = s.qp a := rfl
@[simp] theorem State.setT1_chipId (s : State) (o : Nat) (b : List Byte) : (s.setT1 o b).chipId  = s.chipId := rfl
@[simp] theorem State.onPort_win (s : State) (p : Nat) (f : Port → Port) : (s.onPort p f).win = s.win := rfl
@[simp] theorem State.onPort_commit (s : State) (p : Nat) (f : Port → Port) : (s.onPort p f).commit = s.commit := rfl
@[simp] theorem State.onPort_time (s : State) (p : Nat) (f : Port → Port) : (s.onPort p f).time = s.time := rfl
@[simp] theorem State.onPort_cores (s : State) (p : Nat) (f : Port → Port) : (s.onPort p f).cores = s.cores := rfl
@[simp] theorem State.onPort_sync (s : State) (p : Nat) (f : Port → Port) : (s.onPort p f).sync = s.sync := rfl
@[simp] theorem State.onPort_mem (s : State) (p : Nat) (f : Port → Port) : (s.onPort p f).mem = s.mem := rfl
@[simp] theorem State.onPort_tier (s : State) (p : Nat) (f : Port → Port) : (s.onPort p f).tier = s.tier := rfl
@[simp] theorem State.onPort_cmd (s : State) (p : Nat) (f : Port → Port) : (s.onPort p f).cmd = s.cmd := rfl
@[simp] theorem State.onPort_host (s : State) (p : Nat) (f : Port → Port) : (s.onPort p f).host = s.host := rfl
@[simp] theorem State.onPort_disc (s : State) (p : Nat) (f : Port → Port) : (s.onPort p f).disc = s.disc := rfl
@[simp] theorem State.onPort_fatal (s : State) (p : Nat) (f : Port → Port) : (s.onPort p f).fatal = s.fatal := rfl
@[simp] theorem State.onPort_coll (s : State) (p : Nat) (f : Port → Port) : (s.onPort p f).coll = s.coll := rfl
@[simp] theorem State.onPort_circ (s : State) (p : Nat) (f : Port → Port) : (s.onPort p f).circ = s.circ := rfl
@[simp] theorem State.onPort_queries (s : State) (p : Nat) (f : Port → Port) : (s.onPort p f).queries = s.queries := rfl
@[simp] theorem State.onPort_power (s : State) (p : Nat) (f : Port → Port) : (s.onPort p f).power = s.power := rfl
@[simp] theorem State.onPort_sec (s : State) (p : Nat) (f : Port → Port) : (s.onPort p f).sec = s.sec := rfl
@[simp] theorem State.onPort_side (s : State) (p : Nat) (f : Port → Port) : (s.onPort p f).side = s.side := rfl
@[simp] theorem State.onPort_free (s : State) (p : Nat) (f : Port → Port) : (s.onPort p f).free = s.free := rfl
@[simp] theorem State.onPort_out (s : State) (p : Nat) (f : Port → Port) : (s.onPort p f).out = s.out := rfl
@[simp] theorem State.onPort_pending (s : State) (p : Nat) (f : Port → Port) : (s.onPort p f).pending = s.pending := rfl
@[simp] theorem State.onPort_reg (s : State) (p : Nat) (f : Port → Port) (a : Nat) : (s.onPort p f).reg a = s.reg a := rfl
@[simp] theorem State.onPort_stg (s : State) (p : Nat) (f : Port → Port) (a : Nat) : (s.onPort p f).stg a = s.stg a := rfl
@[simp] theorem State.onPort_shadow (s : State) (p : Nat) (f : Port → Port) (a : Nat) : (s.onPort p f).shadow a = s.shadow a := rfl
@[simp] theorem State.onPort_count (s : State) (p : Nat) (f : Port → Port) (a : Nat) : (s.onPort p f).count a = s.count a := rfl
@[simp] theorem State.onPort_core (s : State) (p : Nat) (f : Port → Port) (a : Nat) : (s.onPort p f).core a = s.core a := rfl
@[simp] theorem State.onPort_queue (s : State) (p : Nat) (f : Port → Port) (a : Nat) : (s.onPort p f).queue a = s.queue a := rfl
@[simp] theorem State.onPort_bar (s : State) (p : Nat) (f : Port → Port) (a : Nat) : (s.onPort p f).bar a = s.bar a := rfl
@[simp] theorem State.onPort_cache (s : State) (p : Nat) (f : Port → Port) (a : Nat) : (s.onPort p f).cache a = s.cache a := rfl
@[simp] theorem State.onPort_chipCtr (s : State) (p : Nat) (f : Port → Port) (a : Nat) : (s.onPort p f).chipCtr a = s.chipCtr a := rfl
@[simp] theorem State.onPort_t0 (s : State) (p : Nat) (f : Port → Port) (a b' : Nat) : (s.onPort p f).t0 a b' = s.t0 a b' := rfl
@[simp] theorem State.onPort_t1 (s : State) (p : Nat) (f : Port → Port) (a b' : Nat) : (s.onPort p f).t1 a b' = s.t1 a b' := rfl
@[simp] theorem State.onPort_flight (s : State) (p : Nat) (f : Port → Port) (a : Nat) : (s.onPort p f).flight? a = s.flight? a := rfl
@[simp] theorem State.onPort_qp (s : State) (p : Nat) (f : Port → Port) (a : Nat) : (s.onPort p f).qp a = s.qp a := rfl
@[simp] theorem State.onPort_chipId (s : State) (p : Nat) (f : Port → Port) : (s.onPort p f).chipId  = s.chipId := rfl
@[simp] theorem State.onQp_win (s : State) (q : Nat) (f : Qp → Qp) : (s.onQp q f).win = s.win := rfl
@[simp] theorem State.onQp_commit (s : State) (q : Nat) (f : Qp → Qp) : (s.onQp q f).commit = s.commit := rfl
@[simp] theorem State.onQp_time (s : State) (q : Nat) (f : Qp → Qp) : (s.onQp q f).time = s.time := rfl
@[simp] theorem State.onQp_cores (s : State) (q : Nat) (f : Qp → Qp) : (s.onQp q f).cores = s.cores := rfl
@[simp] theorem State.onQp_sync (s : State) (q : Nat) (f : Qp → Qp) : (s.onQp q f).sync = s.sync := rfl
@[simp] theorem State.onQp_mem (s : State) (q : Nat) (f : Qp → Qp) : (s.onQp q f).mem = s.mem := rfl
@[simp] theorem State.onQp_tier (s : State) (q : Nat) (f : Qp → Qp) : (s.onQp q f).tier = s.tier := rfl
@[simp] theorem State.onQp_cmd (s : State) (q : Nat) (f : Qp → Qp) : (s.onQp q f).cmd = s.cmd := rfl
@[simp] theorem State.onQp_disc (s : State) (q : Nat) (f : Qp → Qp) : (s.onQp q f).disc = s.disc := rfl
@[simp] theorem State.onQp_fatal (s : State) (q : Nat) (f : Qp → Qp) : (s.onQp q f).fatal = s.fatal := rfl
@[simp] theorem State.onQp_links (s : State) (q : Nat) (f : Qp → Qp) : (s.onQp q f).links = s.links := rfl
@[simp] theorem State.onQp_coll (s : State) (q : Nat) (f : Qp → Qp) : (s.onQp q f).coll = s.coll := rfl
@[simp] theorem State.onQp_circ (s : State) (q : Nat) (f : Qp → Qp) : (s.onQp q f).circ = s.circ := rfl
@[simp] theorem State.onQp_queries (s : State) (q : Nat) (f : Qp → Qp) : (s.onQp q f).queries = s.queries := rfl
@[simp] theorem State.onQp_power (s : State) (q : Nat) (f : Qp → Qp) : (s.onQp q f).power = s.power := rfl
@[simp] theorem State.onQp_sec (s : State) (q : Nat) (f : Qp → Qp) : (s.onQp q f).sec = s.sec := rfl
@[simp] theorem State.onQp_side (s : State) (q : Nat) (f : Qp → Qp) : (s.onQp q f).side = s.side := rfl
@[simp] theorem State.onQp_free (s : State) (q : Nat) (f : Qp → Qp) : (s.onQp q f).free = s.free := rfl
@[simp] theorem State.onQp_out (s : State) (q : Nat) (f : Qp → Qp) : (s.onQp q f).out = s.out := rfl
@[simp] theorem State.onQp_pending (s : State) (q : Nat) (f : Qp → Qp) : (s.onQp q f).pending = s.pending := rfl
@[simp] theorem State.onQp_reg (s : State) (q : Nat) (f : Qp → Qp) (a : Nat) : (s.onQp q f).reg a = s.reg a := rfl
@[simp] theorem State.onQp_stg (s : State) (q : Nat) (f : Qp → Qp) (a : Nat) : (s.onQp q f).stg a = s.stg a := rfl
@[simp] theorem State.onQp_shadow (s : State) (q : Nat) (f : Qp → Qp) (a : Nat) : (s.onQp q f).shadow a = s.shadow a := rfl
@[simp] theorem State.onQp_count (s : State) (q : Nat) (f : Qp → Qp) (a : Nat) : (s.onQp q f).count a = s.count a := rfl
@[simp] theorem State.onQp_core (s : State) (q : Nat) (f : Qp → Qp) (a : Nat) : (s.onQp q f).core a = s.core a := rfl
@[simp] theorem State.onQp_queue (s : State) (q : Nat) (f : Qp → Qp) (a : Nat) : (s.onQp q f).queue a = s.queue a := rfl
@[simp] theorem State.onQp_bar (s : State) (q : Nat) (f : Qp → Qp) (a : Nat) : (s.onQp q f).bar a = s.bar a := rfl
@[simp] theorem State.onQp_port (s : State) (q : Nat) (f : Qp → Qp) (a : Nat) : (s.onQp q f).port a = s.port a := rfl
@[simp] theorem State.onQp_cache (s : State) (q : Nat) (f : Qp → Qp) (a : Nat) : (s.onQp q f).cache a = s.cache a := rfl
@[simp] theorem State.onQp_chipCtr (s : State) (q : Nat) (f : Qp → Qp) (a : Nat) : (s.onQp q f).chipCtr a = s.chipCtr a := rfl
@[simp] theorem State.onQp_t0 (s : State) (q : Nat) (f : Qp → Qp) (a b' : Nat) : (s.onQp q f).t0 a b' = s.t0 a b' := rfl
@[simp] theorem State.onQp_t1 (s : State) (q : Nat) (f : Qp → Qp) (a b' : Nat) : (s.onQp q f).t1 a b' = s.t1 a b' := rfl
@[simp] theorem State.onQp_flight (s : State) (q : Nat) (f : Qp → Qp) (a : Nat) : (s.onQp q f).flight? a = s.flight? a := rfl
@[simp] theorem State.onQp_chipId (s : State) (q : Nat) (f : Qp → Qp) : (s.onQp q f).chipId  = s.chipId := rfl
@[simp] theorem State.onPower_win (s : State) (f : Power → Power) : (s.onPower f).win = s.win := rfl
@[simp] theorem State.onPower_commit (s : State) (f : Power → Power) : (s.onPower f).commit = s.commit := rfl
@[simp] theorem State.onPower_time (s : State) (f : Power → Power) : (s.onPower f).time = s.time := rfl
@[simp] theorem State.onPower_cores (s : State) (f : Power → Power) : (s.onPower f).cores = s.cores := rfl
@[simp] theorem State.onPower_sync (s : State) (f : Power → Power) : (s.onPower f).sync = s.sync := rfl
@[simp] theorem State.onPower_mem (s : State) (f : Power → Power) : (s.onPower f).mem = s.mem := rfl
@[simp] theorem State.onPower_tier (s : State) (f : Power → Power) : (s.onPower f).tier = s.tier := rfl
@[simp] theorem State.onPower_cmd (s : State) (f : Power → Power) : (s.onPower f).cmd = s.cmd := rfl
@[simp] theorem State.onPower_host (s : State) (f : Power → Power) : (s.onPower f).host = s.host := rfl
@[simp] theorem State.onPower_disc (s : State) (f : Power → Power) : (s.onPower f).disc = s.disc := rfl
@[simp] theorem State.onPower_fatal (s : State) (f : Power → Power) : (s.onPower f).fatal = s.fatal := rfl
@[simp] theorem State.onPower_links (s : State) (f : Power → Power) : (s.onPower f).links = s.links := rfl
@[simp] theorem State.onPower_coll (s : State) (f : Power → Power) : (s.onPower f).coll = s.coll := rfl
@[simp] theorem State.onPower_circ (s : State) (f : Power → Power) : (s.onPower f).circ = s.circ := rfl
@[simp] theorem State.onPower_queries (s : State) (f : Power → Power) : (s.onPower f).queries = s.queries := rfl
@[simp] theorem State.onPower_sec (s : State) (f : Power → Power) : (s.onPower f).sec = s.sec := rfl
@[simp] theorem State.onPower_side (s : State) (f : Power → Power) : (s.onPower f).side = s.side := rfl
@[simp] theorem State.onPower_free (s : State) (f : Power → Power) : (s.onPower f).free = s.free := rfl
@[simp] theorem State.onPower_out (s : State) (f : Power → Power) : (s.onPower f).out = s.out := rfl
@[simp] theorem State.onPower_pending (s : State) (f : Power → Power) : (s.onPower f).pending = s.pending := rfl
@[simp] theorem State.onPower_reg (s : State) (f : Power → Power) (a : Nat) : (s.onPower f).reg a = s.reg a := rfl
@[simp] theorem State.onPower_stg (s : State) (f : Power → Power) (a : Nat) : (s.onPower f).stg a = s.stg a := rfl
@[simp] theorem State.onPower_shadow (s : State) (f : Power → Power) (a : Nat) : (s.onPower f).shadow a = s.shadow a := rfl
@[simp] theorem State.onPower_count (s : State) (f : Power → Power) (a : Nat) : (s.onPower f).count a = s.count a := rfl
@[simp] theorem State.onPower_core (s : State) (f : Power → Power) (a : Nat) : (s.onPower f).core a = s.core a := rfl
@[simp] theorem State.onPower_queue (s : State) (f : Power → Power) (a : Nat) : (s.onPower f).queue a = s.queue a := rfl
@[simp] theorem State.onPower_bar (s : State) (f : Power → Power) (a : Nat) : (s.onPower f).bar a = s.bar a := rfl
@[simp] theorem State.onPower_port (s : State) (f : Power → Power) (a : Nat) : (s.onPower f).port a = s.port a := rfl
@[simp] theorem State.onPower_cache (s : State) (f : Power → Power) (a : Nat) : (s.onPower f).cache a = s.cache a := rfl
@[simp] theorem State.onPower_chipCtr (s : State) (f : Power → Power) (a : Nat) : (s.onPower f).chipCtr a = s.chipCtr a := rfl
@[simp] theorem State.onPower_t0 (s : State) (f : Power → Power) (a b' : Nat) : (s.onPower f).t0 a b' = s.t0 a b' := rfl
@[simp] theorem State.onPower_t1 (s : State) (f : Power → Power) (a b' : Nat) : (s.onPower f).t1 a b' = s.t1 a b' := rfl
@[simp] theorem State.onPower_flight (s : State) (f : Power → Power) (a : Nat) : (s.onPower f).flight? a = s.flight? a := rfl
@[simp] theorem State.onPower_qp (s : State) (f : Power → Power) (a : Nat) : (s.onPower f).qp a = s.qp a := rfl
@[simp] theorem State.onPower_chipId (s : State) (f : Power → Power) : (s.onPower f).chipId  = s.chipId := rfl
@[simp] theorem State.onSec_win (s : State) (f : Security → Security) : (s.onSec f).win = s.win := rfl
@[simp] theorem State.onSec_commit (s : State) (f : Security → Security) : (s.onSec f).commit = s.commit := rfl
@[simp] theorem State.onSec_time (s : State) (f : Security → Security) : (s.onSec f).time = s.time := rfl
@[simp] theorem State.onSec_cores (s : State) (f : Security → Security) : (s.onSec f).cores = s.cores := rfl
@[simp] theorem State.onSec_sync (s : State) (f : Security → Security) : (s.onSec f).sync = s.sync := rfl
@[simp] theorem State.onSec_mem (s : State) (f : Security → Security) : (s.onSec f).mem = s.mem := rfl
@[simp] theorem State.onSec_tier (s : State) (f : Security → Security) : (s.onSec f).tier = s.tier := rfl
@[simp] theorem State.onSec_cmd (s : State) (f : Security → Security) : (s.onSec f).cmd = s.cmd := rfl
@[simp] theorem State.onSec_host (s : State) (f : Security → Security) : (s.onSec f).host = s.host := rfl
@[simp] theorem State.onSec_disc (s : State) (f : Security → Security) : (s.onSec f).disc = s.disc := rfl
@[simp] theorem State.onSec_fatal (s : State) (f : Security → Security) : (s.onSec f).fatal = s.fatal := rfl
@[simp] theorem State.onSec_links (s : State) (f : Security → Security) : (s.onSec f).links = s.links := rfl
@[simp] theorem State.onSec_coll (s : State) (f : Security → Security) : (s.onSec f).coll = s.coll := rfl
@[simp] theorem State.onSec_circ (s : State) (f : Security → Security) : (s.onSec f).circ = s.circ := rfl
@[simp] theorem State.onSec_queries (s : State) (f : Security → Security) : (s.onSec f).queries = s.queries := rfl
@[simp] theorem State.onSec_power (s : State) (f : Security → Security) : (s.onSec f).power = s.power := rfl
@[simp] theorem State.onSec_side (s : State) (f : Security → Security) : (s.onSec f).side = s.side := rfl
@[simp] theorem State.onSec_free (s : State) (f : Security → Security) : (s.onSec f).free = s.free := rfl
@[simp] theorem State.onSec_out (s : State) (f : Security → Security) : (s.onSec f).out = s.out := rfl
@[simp] theorem State.onSec_pending (s : State) (f : Security → Security) : (s.onSec f).pending = s.pending := rfl
@[simp] theorem State.onSec_reg (s : State) (f : Security → Security) (a : Nat) : (s.onSec f).reg a = s.reg a := rfl
@[simp] theorem State.onSec_stg (s : State) (f : Security → Security) (a : Nat) : (s.onSec f).stg a = s.stg a := rfl
@[simp] theorem State.onSec_shadow (s : State) (f : Security → Security) (a : Nat) : (s.onSec f).shadow a = s.shadow a := rfl
@[simp] theorem State.onSec_count (s : State) (f : Security → Security) (a : Nat) : (s.onSec f).count a = s.count a := rfl
@[simp] theorem State.onSec_core (s : State) (f : Security → Security) (a : Nat) : (s.onSec f).core a = s.core a := rfl
@[simp] theorem State.onSec_queue (s : State) (f : Security → Security) (a : Nat) : (s.onSec f).queue a = s.queue a := rfl
@[simp] theorem State.onSec_bar (s : State) (f : Security → Security) (a : Nat) : (s.onSec f).bar a = s.bar a := rfl
@[simp] theorem State.onSec_port (s : State) (f : Security → Security) (a : Nat) : (s.onSec f).port a = s.port a := rfl
@[simp] theorem State.onSec_cache (s : State) (f : Security → Security) (a : Nat) : (s.onSec f).cache a = s.cache a := rfl
@[simp] theorem State.onSec_chipCtr (s : State) (f : Security → Security) (a : Nat) : (s.onSec f).chipCtr a = s.chipCtr a := rfl
@[simp] theorem State.onSec_t0 (s : State) (f : Security → Security) (a b' : Nat) : (s.onSec f).t0 a b' = s.t0 a b' := rfl
@[simp] theorem State.onSec_t1 (s : State) (f : Security → Security) (a b' : Nat) : (s.onSec f).t1 a b' = s.t1 a b' := rfl
@[simp] theorem State.onSec_flight (s : State) (f : Security → Security) (a : Nat) : (s.onSec f).flight? a = s.flight? a := rfl
@[simp] theorem State.onSec_qp (s : State) (f : Security → Security) (a : Nat) : (s.onSec f).qp a = s.qp a := rfl
@[simp] theorem State.onSec_chipId (s : State) (f : Security → Security) : (s.onSec f).chipId  = s.chipId := rfl

/-! ### What an update writes -/

@[simp] theorem State.reg_setReg (s : State) (o a : Nat) (v : Word) : (s.setReg o v).reg a = if a = o then v else s.reg a :=
  look_store o a v

@[simp] theorem State.stg_setActive (s : State) (o a : Nat) (v : Word) : (s.setActive o v).stg a = if a = o then v else s.stg a :=
  look_store o a v

@[simp] theorem State.shadow_setActive (s : State) (o a : Nat) (v : Word) :
    (s.setActive o v).shadow a = if a = o then v else s.shadow a := look_store o a v

@[simp] theorem State.shadow_setShadow (s : State) (o a : Nat) (v : Word) :
    (s.setShadow o v).shadow a = if a = o then v else s.shadow a := look_store o a v

@[simp] theorem State.count_setCount (s : State) (o a n : Nat) : (s.setCount o n).count a = if a = o then n else s.count a :=
  look_store o a n

@[simp] theorem State.count_bump (s : State) (o a n : Nat) :
    (s.bump o n).count a = if a = o then min (s.count o + n) 0xFFFFFFFF else s.count a := State.count_setCount s o a _

@[simp] theorem State.count_bump64 (s : State) (o a n : Nat) :
    (s.bump64 o n).count a = if a = o then min (s.count o + n) (2 ^ 64 - 1) else s.count a := State.count_setCount s o a _

@[simp] theorem State.out_send (s : State) (m : Sent) : (s.send m).out = s.out ++ [m] := rfl

@[simp] theorem State.core_setCore (s : State) (n a : Nat) (c : Core) : (s.setCore n c).core a = if a = n then c else s.core a :=
  look_store n a c

@[simp] theorem State.core_onCore (s : State) (n a : Nat) (f : Core → Core) :
    (s.onCore n f).core a = if a = n then f (s.core n) else s.core a := State.core_setCore s n a _

@[simp] theorem State.core_onEng (s : State) (n a : Nat) (f : Engines → Engines) :
    (s.onEng n f).core a = if a = n then { s.core n with eng := f (s.core n).eng } else s.core a := State.core_setCore s n a _

@[simp] theorem State.core_onPlane (s : State) (n a : Nat) (f : Plane → Plane) :
    (s.onPlane n f).core a = if a = n then { s.core n with plane := f (s.core n).plane } else s.core a := State.core_setCore s n a _

@[simp] theorem State.core_setCoreCtr (s : State) (n i v a : Nat) :
    (s.setCoreCtr n i v).core a = if a = n then { s.core n with ctr := store noCount (s.core n).ctr i v } else s.core a :=
  State.core_setCore s n a _

theorem State.coreCtr_setCoreCtr (s : State) (n i v m j : Nat) :
    (s.setCoreCtr n i v).coreCtr m j = if m = n ∧ j = i then v else s.coreCtr m j := by
  simp only [State.coreCtr, State.core_setCoreCtr]
  by_cases h : m = n
  · subst h; simp [look_store]
  · simp [h]

@[simp] theorem State.chipCtr_setChipCtr (s : State) (i v a : Nat) : (s.setChipCtr i v).chipCtr a = if a = i then v else s.chipCtr a :=
  look_store i a v

@[simp] theorem State.queue_onQueue (s : State) (q a : Nat) (f : Queue → Queue) :
    (s.onQueue q f).queue a = if a = q then f (s.queue q) else s.queue a := look_store q a _

@[simp] theorem State.bar_onBar (s : State) (e a : Nat) (f : Barrier → Barrier) :
    (s.onBar e f).bar a = if a = e then f (s.bar e) else s.bar a := look_store e a _

@[simp] theorem State.port_onPort (s : State) (p a : Nat) (f : Port → Port) :
    (s.onPort p f).port a = if a = p then f (s.port p) else s.port a := look_store p a _

@[simp] theorem State.qp_onQp (s : State) (q a : Nat) (f : Qp → Qp) : (s.onQp q f).qp a = if a = q then f (s.qp q) else s.qp a :=
  look_store q a _

@[simp] theorem State.power_onPower (s : State) (f : Power → Power) : (s.onPower f).power = f s.power := rfl

@[simp] theorem State.sec_onSec (s : State) (f : Security → Security) : (s.onSec f).sec = f s.sec := rfl

/-- A write of T0 leaves every byte outside it as it was. -/
theorem State.t0_setT0_outside (s : State) (o k : Nat) (b : List Byte) (h : k < o ∨ o + b.length ≤ k) :
    (s.setT0 o b).t0 k 1 = s.t0 k 1 := by
  simp only [State.t0, lookList, State.setT0, look_storeList_outside b h]

/-- A read of T0 gives back what has been written. -/
theorem State.t0_setT0_same (s : State) (o : Nat) (b : List Byte) : (s.setT0 o b).t0 o b.length = b := lookList_storeList o b

/-- A write of T1 leaves every byte outside it as it was. -/
theorem State.t1_setT1_outside (s : State) (o k : Nat) (b : List Byte) (h : k < o ∨ o + b.length ≤ k) :
    (s.setT1 o b).t1 k 1 = s.t1 k 1 := by
  simp only [State.t1, lookList, State.setT1, State.bump64, State.setCount]
  exact congrArg (fun x => [x]) (look_storeList_outside b h)

/-- A read of T1 gives back what has been written. -/
theorem State.t1_setT1_same (s : State) (o : Nat) (b : List Byte) : (s.setT1 o b).t1 o b.length = b := lookList_storeList o b

/-! ### The form of the memories -/

theorem State.setT0_wf (s : State) (o : Nat) (b : List Byte) (h : s.mem.wf = true) : (s.setT0 o b).mem.wf = true := by
  simp only [Memory.wf, Bool.and_eq_true] at h ⊢
  exact ⟨⟨storeList_canonical o b h.1.1, h.1.2⟩, h.2⟩

theorem State.setWs_wf (s : State) (n o : Nat) (b : List Byte) (h : s.mem.wf = true) : (s.setWs n o b).mem.wf = true :=
  s.setT0_wf _ b h

theorem clean_canonical (ws : List Nat) (p : Tab Bool) (h : Canonical (fun _ => false) p = true) :
    Canonical (fun _ => false) (ws.foldl (fun p w => store (fun _ => false) p w false) p) = true := by
  induction ws generalizing p with
  | nil => exact h
  | cons w ws ih => exact ih _ (store_canonical w false h)

theorem State.setT1_wf (s : State) (o : Nat) (b : List Byte) (h : s.mem.wf = true) : (s.setT1 o b).mem.wf = true := by
  simp only [Memory.wf, Bool.and_eq_true] at h ⊢
  exact ⟨⟨h.1.1, storeList_canonical o b h.1.2⟩, clean_canonical _ _ h.2⟩

/-- Outside its table a listed base does not show. -/
theorem t1Default_one_outside (b k : Nat) (h : k < b ∨ b + 0x400000 ≤ k) : t1Default [b] k = 0#8 := by
  have hb : decide (b ≤ k ∧ k < b + 0x400000) = false := by
    rw [decide_eq_false_iff_not]; omega
  rw [t1Default, List.find?_cons_of_neg (by rw [hb]; exact Bool.false_ne_true)]
  rfl

theorem free_table_canonical (b : Nat) (t : Tab Byte) (h : Canonical (t1Default []) t = true) :
    Canonical (t1Default [b]) (restrict (fun k => decide (k < b ∨ b + 0x400000 ≤ k)) t) = true := by
  refine restrict_canonical _ h fun k hk => ?_
  rw [t1Default_one_outside b k (of_decide_eq_true hk)]
  rfl

/-- The end of a wipe keeps the form, when a wipe has left no table listed. -/
theorem State.endWipe_wf (s : State) (h : s.mem.wf = true) (ht : s.mem.tables = []) : s.endWipe.mem.wf = true := by
  simp only [Memory.wf, Bool.and_eq_true] at h
  rw [ht] at h
  have key := free_table_canonical s.ptBase s.mem.t1 h.1.2
  simp only [Memory.wf, State.endWipe, h.1.1, h.2, key, Bool.and_self]

/-- The memories after reset have the canonical form. -/
theorem State.reset_mem_wf : State.reset.mem.wf = true := rfl

end Sys2Proof.Machine
end

