-- ==== Sys2Proof/Laws/Shared.lean ====
section
/-! SUPPORT. What the shared operations can do. Recording an error touches the register window and what the chip sends (`Records`). Ending a
command, stopping a core, a discard and a message to a port leave T1, the counters, the tiers, the power controller, the security core and the
stop of R445 alone (`Stays`): of the memories only T0 may change, where read data that a stopped core has still held lands. The issue of an
instruction whose checks pass is its effect on the state that has taken it. -/

namespace Sys2Proof.Machine

/-- Nothing but the register window and what was sent differs. -/
def State.Records (s t : State) : Prop := t = { s with win := t.win, out := t.out }

/-- Memory but for T0, counters, tiers, power, security, the stop of R445 and the queue of waiting commands are the same. -/
structure State.Stays (s t : State) : Prop where
  mem     : t.mem = { s.mem with t0 := t.mem.t0 }
  sync    : t.sync = s.sync
  tier    : t.tier = s.tier
  power   : t.power = s.power
  sec     : t.sec = s.sec
  fatal   : t.fatal = s.fatal
  pending : t.pending = s.pending

namespace State

theorem Records.refl (s : State) : s.Records s := rfl

theorem Records.trans {s t u : State} (h : s.Records t) (k : t.Records u) : s.Records u := by
  unfold Records at *
  rw [k, h]

theorem Stays.refl (s : State) : s.Stays s := ⟨rfl, rfl, rfl, rfl, rfl, rfl, rfl⟩

theorem Stays.trans {s t u : State} (h : s.Stays t) (k : t.Stays u) : s.Stays u :=
  ⟨by rw [k.mem, h.mem], k.sync.trans h.sync, k.tier.trans h.tier, k.power.trans h.power, k.sec.trans h.sec, k.fatal.trans h.fatal,
   k.pending.trans h.pending⟩

theorem Records.stays {s t : State} (h : s.Records t) : s.Stays t := by
  unfold Records at h
  constructor <;> rw [h]

theorem Stays.foldl {α : Type} {f : State → α → State} (h : ∀ (s : State) (x : α), s.Stays (f s x)) (l : List α) (s : State) :
    s.Stays (l.foldl f s) := by
  induction l generalizing s with
  | nil => exact .refl s
  | cons x l ih => exact (h s x).trans (ih _)

theorem Records.foldl {α : Type} {f : State → α → State} (h : ∀ (s : State) (x : α), s.Records (f s x)) (l : List α) (s : State) :
    s.Records (l.foldl f s) := by
  induction l generalizing s with
  | nil => exact .refl s
  | cons x l ih => exact (h s x).trans (ih _)

/-! ### The register window and what is sent -/

theorem setReg_records (s : State) (o : Nat) (v : Word) : s.Records (s.setReg o v) := rfl
theorem setCount_records (s : State) (o v : Nat) : s.Records (s.setCount o v) := rfl
theorem bump_records (s : State) (o n : Nat) : s.Records (s.bump o n) := rfl
theorem bump64_records (s : State) (o n : Nat) : s.Records (s.bump64 o n) := rfl
theorem send_records (s : State) (m : Sent) : s.Records (s.send m) := rfl

theorem Records.ite {s t u : State} {c : Prop} [Decidable c] (h : s.Records t) (k : s.Records u) : s.Records (if c then t else u) := by
  split
  · exact h
  · exact k

theorem Stays.ite {s t u : State} {c : Prop} [Decidable c] (h : s.Stays t) (k : s.Stays u) : s.Stays (if c then t else u) := by
  split
  · exact h
  · exact k

theorem perf_records (s : State) (b e n : Nat) : s.Records (s.perf b e n) := .ite (bump64_records ..) (.refl s)

theorem errBit_records (s : State) (page bit : Nat) : s.Records (s.errBit page bit) := by
  have key : ∀ (u : State) (a b : Nat) (v w : Word) (m : Sent), s.Records u →
      s.Records (if (u.setReg a v).reg b &&& w ≠ 0#32 then (u.setReg a v).send m else u.setReg a v) :=
    fun u a b v w m h => .ite ((h.trans (setReg_records ..)).trans (send_records ..)) (h.trans (setReg_records ..))
  unfold State.errBit
  refine key _ _ _ _ _ _ ?_
  split
  · exact perf_records ..
  · exact .refl s

theorem blockErr_records (s : State) (page bit o : Nat) (v : Word) : s.Records (s.blockErr page bit o v) :=
  Records.trans (.ite (setReg_records ..) (.refl s)) (errBit_records ..)

theorem recordCode_records (s : State) (code more : Nat) : s.Records (s.recordCode code more) := by
  have sfu : ∀ (u : State) (a b : Nat) (v w : Word) (m : Sent), s.Records u →
      s.Records (if (u.setReg a v).reg b &&& w ≠ 0#32 then (u.setReg a v).send m else u.setReg a v) :=
    fun u a b v w m h => .ite ((h.trans (setReg_records ..)).trans (send_records ..)) (h.trans (setReg_records ..))
  unfold State.recordCode
  refine .ite (errBit_records ..) <| .ite (blockErr_records ..) <| .ite ?_ <| .ite (blockErr_records ..) <| .ite (blockErr_records ..) <|
    .ite (blockErr_records ..) <| .ite (blockErr_records ..) <| .ite (blockErr_records ..) <| .ite (blockErr_records ..) <|
    .ite (blockErr_records ..) <| .ite (blockErr_records ..) <| .ite ?_ <| .ite (blockErr_records ..) (.refl s)
  · exact (Records.trans (.ite (setReg_records ..) (.refl s)) (setReg_records ..)).trans (send_records ..)
  · exact sfu _ _ _ _ _ _ (.ite (setReg_records ..) (.refl s))

theorem logError_records (s : State) (code q : Nat) (b : Bool) (w : Word) : s.Records (s.logError code q b w) :=
  .ite (.refl s) (((((setReg_records ..).trans (setReg_records ..)).trans (setReg_records ..)).trans (setReg_records ..)).trans
    (setReg_records ..))

theorem traceEvent_records (s : State) (n e w pc : Nat) (b : Bool) : s.Records (s.traceEvent n e w pc b) :=
  .ite (send_records ..) (.refl s)

/-! ### Commands, cores, ports, messages -/

theorem onFlight_stays (s : State) (id : Nat) (f : Flight → Flight) : s.Stays (s.onFlight id f) := ⟨rfl, rfl, rfl, rfl, rfl, rfl, rfl⟩
theorem onEng_stays (s : State) (n : Nat) (f : Engines → Engines) : s.Stays (s.onEng n f) := ⟨rfl, rfl, rfl, rfl, rfl, rfl, rfl⟩
theorem onPort_stays (s : State) (p : Nat) (f : Port → Port) : s.Stays (s.onPort p f) := ⟨rfl, rfl, rfl, rfl, rfl, rfl, rfl⟩
theorem setCoreCtr_stays (s : State) (n i v : Nat) : s.Stays (s.setCoreCtr n i v) := ⟨rfl, rfl, rfl, rfl, rfl, rfl, rfl⟩
theorem setT0_stays (s : State) (o : Nat) (b : List Byte) : s.Stays (s.setT0 o b) := ⟨rfl, rfl, rfl, rfl, rfl, rfl, rfl⟩
theorem draw_stays (s : State) : s.Stays s.draw.2 := ⟨rfl, rfl, rfl, rfl, rfl, rfl, rfl⟩

theorem drainPort_stays (s : State) (p : Nat) : s.Stays (s.drainPort p) :=
  .ite (.refl s) ⟨rfl, rfl, rfl, rfl, rfl, rfl, rfl⟩

theorem transmit_stays (s : State) (p : Nat) (m : LinkMsg) : s.Stays (s.transmit p m) := (onPort_stays ..).trans (drainPort_stays ..)

theorem sendMsg_stays (s : State) (ty src dst h tag a n x : Nat) (e d : List Byte) : s.Stays (s.sendMsg ty src dst h tag a n x e d).1 := by
  unfold State.sendMsg
  split
  · exact .refl s
  · exact (send_records ..).stays.trans (transmit_stays ..)

theorem request_stays (s : State) (o : Owner) (ty chip a n x : Nat) (d : List Byte) (l : Option Nat) :
    s.Stays (s.request o ty chip a n x d l).1 := by
  have h := sendMsg_stays s ty s.chipId chip 0 s.cmd.nextTag a n x [] d
  unfold State.request
  dsimp only
  split
  · rename_i e; rw [e] at h; exact h
  · rename_i e; rw [e] at h
    exact h.trans ⟨rfl, rfl, rfl, rfl, rfl, rfl, rfl⟩

theorem refuseTo_stays (s : State) (c : Nat) (t : Word) (code : Nat) : s.Stays (s.refuseTo c t code) := sendMsg_stays ..

/-- What is done for the members of a group leaves alone what each single act leaves alone. -/
theorem eachMember_stays {f : State → Nat → List Byte → State} (h : ∀ (s : State) c b, s.Stays (f s c b)) (s : State) (gid level : Nat) :
    s.Stays (s.eachMember gid level f) := by
  unfold State.eachMember
  split
  · exact .refl s
  · exact Stays.foldl (fun s x => Stays.foldl (fun s i => .ite (.refl s) (h ..)) _ s) _ s

theorem awlOn_stays (s : State) (p chip q : Nat) (e d : List Byte) (o : Sent) : s.Stays (s.awlOn p chip q e d o) := by
  unfold State.awlOn
  dsimp only
  have h : s.Stays { s with cmd := { s.cmd with nextTag := (s.cmd.nextTag + 1) % 2 ^ 32 } } := ⟨rfl, rfl, rfl, rfl, rfl, rfl, rfl⟩
  exact (h.trans (send_records ..).stays).trans (transmit_stays ..)

theorem sendFan_stays (s : State) (chip k tag q : Nat) (e d : List Byte) : s.Stays (s.sendFan chip k tag q e d) := by
  unfold State.sendFan State.sendAwl
  split
  · exact .refl s
  · exact awlOn_stays ..

theorem tellEnd_stays (s : State) (gid level tag q code : Nat) : s.Stays (s.tellEnd gid level tag q code) :=
  eachMember_stays (fun _ _ _ => sendFan_stays ..) ..

theorem toMembers_stays (s : State) (gid level kind tag : Nat) (b : List Byte) : s.Stays (s.toMembers gid level kind tag b) :=
  eachMember_stays (fun _ _ _ => sendFan_stays ..) ..

/-! ### The end of a command's part -/

theorem landAll_stays (s : State) (l : List (Nat × List Byte)) : s.Stays (s.landAll l) := Stays.foldl (fun _ _ => setT0_stays ..) l s

theorem stopCore_stays (s : State) (n : Nat) : s.Stays (s.stopCore n) := (landAll_stays ..).trans (onEng_stays ..)

theorem settle_stays (s : State) (id : Nat) : s.Stays (s.settle id) := by
  unfold State.settle
  split
  · exact .refl s
  · rename_i f _
    have h : s.Stays ((s.coresOf id).foldl (fun s n =>
        let g := (s.core n).eng
        let done := f.cut || (decide (g.halted = 15) && g.failed.isNone)
        if g.drained && done then
          let ls := s.scanLists f n
          (s.onFlight id fun f => { f with lists := f.lists ++ ls }).onEng n Engines.release
        else s) s) :=
      Stays.foldl (fun s n => .ite ((onFlight_stays ..).trans (onEng_stays ..)) (.refl s)) _ s
    exact .ite (h.trans (onFlight_stays ..)) h

theorem notePort_stays (s : State) (p k : Nat) (b : List Byte) : s.Stays (s.notePort p k b) := onPort_stays ..

theorem laceNote_stays (s : State) (l : Nat) (d : Dir) (p k : Nat) (b : List Byte) : s.Stays (s.laceNote l d p k b) :=
  .ite (.refl s) (notePort_stays ..)

theorem sendCircAbort_stays (s : State) (ls : List Nat) (code pos : Nat) (came : Option Nat) : s.Stays (s.sendCircAbort ls code pos came) :=
  (Stays.foldl (fun _ _ => (laceNote_stays ..).trans (laceNote_stays ..)) ls s).trans ⟨rfl, rfl, rfl, rfl, rfl, rfl, rfl⟩

theorem collAbort_stays (s : State) (l : Nat) (d : Dir) (a : CollAbort) : s.Stays (s.collAbort l d a) := by
  unfold State.collAbort
  dsimp only
  split
  · exact ((laceNote_stays ..).trans (laceNote_stays ..)).trans (laceNote_stays ..)
  · exact (laceNote_stays ..).trans (laceNote_stays ..)

theorem sendCollAbort_stays (s : State) (ls : List Nat) (a : CollAbort) (came : Option Nat) : s.Stays (s.sendCollAbort ls a came) :=
  (Stays.foldl (fun _ _ => (collAbort_stays ..).trans (collAbort_stays ..)) ls s).trans ⟨rfl, rfl, rfl, rfl, rfl, rfl, rfl⟩

theorem ownAbort_stays (s : State) (ls : List Nat) (code l : Nat) : s.Stays (s.ownAbort ls code l) :=
  ((setReg_records ..).trans (setReg_records ..)).stays.trans (sendCollAbort_stays ..)

theorem dropCirc_stays (s : State) (id : Nat) : s.Stays (s.dropCirc id) := ⟨rfl, rfl, rfl, rfl, rfl, rfl, rfl⟩
theorem dropMerge_stays (s : State) (id : Nat) : s.Stays (s.dropMerge id) := ⟨rfl, rfl, rfl, rfl, rfl, rfl, rfl⟩
theorem dropColl_stays (s : State) (r : CollRun) : s.Stays (s.dropColl r) := ⟨rfl, rfl, rfl, rfl, rfl, rfl, rfl⟩

theorem abortUnbegun_stays (s : State) (id code : Nat) : s.Stays (s.abortUnbegun id code) := by
  unfold State.abortUnbegun
  split
  · exact .refl s
  · exact .ite (.refl s) (.ite (sendCircAbort_stays ..) (.ite (ownAbort_stays ..) (.refl s)))

theorem endEngines_stays (s : State) (id code : Nat) : s.Stays (s.endEngines id code) := by
  unfold State.endEngines
  refine Stays.trans (Stays.trans (Stays.trans (abortUnbegun_stays s id code) (Stays.foldl (fun s r => ?_) _ _)) (dropMerge_stays ..))
    (Stays.foldl (fun s r => ?_) _ _)
  · exact (sendCircAbort_stays ..).trans (dropCirc_stays ..)
  · exact Stays.trans (.ite (ownAbort_stays ..) (.refl s)) (dropColl_stays ..)

theorem abortLaces_stays (s : State) (code : Nat) : s.Stays (s.abortLaces code) :=
  ((Stays.foldl (fun s id => endEngines_stays s id code) _ s).trans (Stays.foldl (fun s l => ownAbort_stays s [l] code l) _ _)).trans
    ⟨rfl, rfl, rfl, rfl, rfl, rfl, rfl⟩

/-- The end of a command's part (R441) leaves T1 alone. -/
theorem endPart_stays (s : State) (id code : Nat) : s.Stays (s.endPart id code) := by
  unfold State.endPart
  have h : ∀ u : State, s.Stays u → s.Stays ((((u.coresOf id).foldl State.stopCore u).endEngines id code).settle id) :=
    fun u hu => ((hu.trans (Stays.foldl stopCore_stays _ u)).trans (endEngines_stays ..)).trans (settle_stays ..)
  have k := h _ (onFlight_stays s id fun f => { f with cut := true })
  exact .ite (k.trans (onFlight_stays ..)) k

theorem endCommand_stays (s : State) (id code : Nat) (v : Word) : s.Stays (s.endCommand id code v) := by
  unfold State.endCommand
  split
  · exact .refl s
  · exact .ite (.refl s) ((Stays.trans (.ite (tellEnd_stays ..) (.refl s)) (onFlight_stays ..)).trans (endPart_stays ..))

theorem failCommand_stays (s : State) (id code : Nat) (v : Word) (more : Nat) : s.Stays (s.failCommand id code v more) := by
  unfold State.failCommand
  refine Stays.trans ?_ (endCommand_stays ..)
  split <;> exact ((recordCode_records ..).trans (logError_records ..)).stays

/-! ### Device discard -/

theorem withDisc_stays (s : State) (c : Commands) (d : Discard) : s.Stays { s with cmd := c, disc := d } :=
  ⟨rfl, rfl, rfl, rfl, rfl, rfl, rfl⟩

/-- A discard (R443) leaves T1 alone. -/
theorem startDiscard_stays (s : State) (code : Nat) (own silent : Option Nat) : s.Stays (s.startDiscard code own silent) := by
  unfold State.startDiscard
  refine .ite (withDisc_stays s s.cmd _) ?_
  refine Stays.trans ?_ (Stays.foldl (fun s g => toMembers_stays ..) _ _)
  have h : s.Stays ((allCores.foldl State.stopCore (s.setDiscardStat true code)).abortLaces code) :=
    ((setReg_records ..).stays.trans (Stays.foldl stopCore_stays _ _)).trans (abortLaces_stays ..)
  exact h.trans (withDisc_stays ..)

/-! ### Errors of a core -/

theorem coreInfo_records (s : State) (n e code pc : Nat) : s.Records (s.coreInfo n e code pc) :=
  .ite (((setReg_records ..).trans (setReg_records ..)).trans (setReg_records ..)) (.refl s)

theorem coreRecord_records (s : State) (n : Nat) (x : CoreFault) : s.Records (s.coreRecord n x) :=
  .ite (coreInfo_records ..) ((coreInfo_records ..).trans (recordCode_records ..))

theorem coreLog_records (s : State) (n code : Nat) : s.Records (s.coreLog n code) := by
  unfold State.coreLog
  split <;> exact logError_records ..

theorem coreReport_stays (s : State) (n : Nat) : s.Stays (s.coreReport n) := by
  unfold State.coreReport
  dsimp only
  split
  · exact .refl s
  · rename_i x _
    refine .ite (.refl s) ?_
    have h := ((coreRecord_records s n x).stays).trans (onEng_stays _ n fun g => { g with failed := none })
    refine .ite (h.trans (startDiscard_stays ..)) ?_
    split
    · exact h.trans (endCommand_stays ..)
    · exact h

/-- A core that stops with an error (R102) leaves T1 alone. -/
theorem coreStop_stays (s : State) (n : Nat) (x : CoreFault) : s.Stays (s.coreStop n x) :=
  .ite (.refl s) (((Stays.trans (.ite (.refl s) (coreLog_records ..).stays) (stopCore_stays ..)).trans (onEng_stays ..)).trans
    (coreReport_stays ..))

theorem coreFail_stays (s : State) (n e code pc more : Nat) : s.Stays (s.coreFail n e code pc more) := coreStop_stays ..

theorem coreRefused_stays (s : State) (n e code pc : Nat) : s.Stays (s.coreRefused n e code pc) := coreStop_stays ..

theorem failIssued_stays (s : State) (n e code pc more : Nat) : s.Stays (s.failIssued n e code pc more) :=
  (onEng_stays ..).trans (coreFail_stays ..)

theorem coreClass2_stays (s : State) (n code : Nat) : s.Stays (s.coreClass2 n code) := by
  have h : ∀ u : State, s.Stays u → s.Stays (((u.coreLog n code).draw.2)) :=
    fun u hu => (hu.trans (coreLog_records ..).stays).trans (draw_stays ..)
  unfold State.coreClass2
  refine Stays.trans (Stays.trans (Stays.trans (h _ ?_) (stopCore_stays ..)) (onEng_stays ..)) (coreReport_stays ..)
  split
  · exact (coreRecord_records ..).stays
  · exact .refl s

/-! ### Events of class 2 and 4, and reads of T1 -/

theorem class2_stays (s : State) (code more : Nat) (own : Option Nat) : s.Stays (s.class2 code more own) := by
  unfold State.class2
  refine Stays.trans (Records.stays ?_) (startDiscard_stays ..)
  split <;> exact (recordCode_records ..).trans (logError_records ..)

theorem advisory_stays (s : State) (code more : Nat) (own : Option Nat) : s.Stays (s.advisory code more own) := by
  unfold State.advisory
  have h : ∀ u : State, s.Stays u → s.Stays (match own with
      | some id => u.onFlight id fun f => f.fail code u.unit 0#32
      | none => u) := by
    intro u hu
    split
    · exact hu.trans (onFlight_stays ..)
    · exact hu
  refine h _ (Records.stays ?_)
  split <;> exact (recordCode_records ..).trans (logError_records ..)

theorem reportUe_stays (s : State) (w : Nat) (own : Option Nat) : s.Stays (s.reportUe w own) :=
  ((bump_records ..).trans (setCount_records ..)).stays.trans (class2_stays ..)

theorem readT1_stays (s : State) (o n : Nat) (own : Option Nat) : s.Stays (s.readT1 o n own).2 := by
  unfold State.readT1
  split
  · exact reportUe_stays ..
  · exact (bump64_records ..).stays

/-! ### Issue (R81) -/

theorem take_stays (s : State) (n e : Nat) (w : BitVec 128) (pc : Nat) : s.Stays (s.take n e w pc) := by
  unfold State.take
  exact (Stays.trans (.ite (setCoreCtr_stays ..) (.refl s)) (onEng_stays ..)).trans (traceEvent_records ..).stays

theorem take_core_ne (s : State) (n e : Nat) (w : BitVec 128) (pc m : Nat) (h : m ≠ n) : (s.take n e w pc).core m = s.core m := by
  have k : ∀ u : State, (u.traceEvent n e w.toNat pc false).core m = u.core m := by
    intro u
    unfold State.core
    rw [show (u.traceEvent n e w.toNat pc false).cores = u.cores by rw [traceEvent_records u n e w.toNat pc false]]
  unfold State.take
  dsimp only
  rw [k, State.core_onEng, if_neg h]
  split
  · rw [State.core_setCoreCtr, if_neg h]
  · rfl

/-- An instruction at the head of its queue that may issue and passes its checks takes effect on the state that
has taken it. -/
theorem issue_effect {s : State} {n e op : Nat} {w : BitVec 128} {pc : Nat} (check : Nat → State → Option Nat)
    (effect : Nat → Nat → Nat → State → State) (h1 : s.head n e = some (w, pc)) (h2 : s.mayIssue n e op = true)
    (h3 : (breakFlag w.toNat && s.coreCtrl n 2 && !(s.core n).eng.pastBreak.testBit e) = false)
    (hc : check w.toNat s = none) :
    s.issue n e op check effect = effect w.toNat pc (s.core n).eng.nextIid (s.take n e w pc) := by
  simp only [State.issue, h1, h2, hc, h3]
  simp

end State
end Sys2Proof.Machine
end

