-- ==== Sys2Proof/Tests/Slice0.lean ====
section
/-! SUPPORT. Tests: ill-formed commands are refused, the worked examples of the spec come out as it gives them, and, for each statement
with hypotheses, states and operands that meet them, clause by clause (`hyps_<statement>`). -/

namespace Sys2Proof.Machine.Tests

set_option maxRecDepth 100000
-- one theorem at a time: each evaluation in the kernel needs a thread with a deep stack
set_option Elab.async false

/-! ### Well-formedness: one ill-formed command for each check, and one that passes it -/

def msgOf (n : Nat) : Msg := ⟨0, 0#20, 0#20, 0, 0#32, 0#64, n, 0#32⟩
def circOf (n : BitVec 32) : CircHdr := ⟨9, 1, 1, 1, 0, 0, 1, 0, n, 0, 0⟩

theorem test_wf_write : Instr.wf (.msgWrite (msgOf 2) [1#8]) = false ∧ Instr.wf (.msgWrite (msgOf 1) [1#8]) = true := by decide
theorem test_wf_write_long : Instr.wf (.msgWrite (msgOf 4097) (List.replicate 4097 0#8)) = false := by
  simp [Instr.wf, Msg.holds, msgOf]
theorem test_wf_read : Instr.wf (.msgRead (msgOf 4097)) = false ∧ Instr.wf (.msgRead (msgOf 4096)) = true := by decide
theorem test_wf_read_data : Instr.wf (.msgReadData (msgOf 2) [1#8]) = false ∧ Instr.wf (.msgReadData (msgOf 1) [1#8]) = true := by decide
theorem test_wf_awl : Instr.wf (.msgAwl (msgOf 257) (List.replicate 257 0#8)) = false ∧
    Instr.wf (.msgAwl (msgOf 256) (List.replicate 256 0#8)) = true := by decide +kernel
theorem test_wf_fanout : Instr.wf (.msgFanout (msgOf 3) ⟨0, 0, 0⟩ []) = false ∧ Instr.wf (.msgFanout (msgOf 0) ⟨0, 0, 0⟩ []) = true := by
  decide
theorem test_wf_forward : Instr.wf (.messageForward .write (msgOf 0) []) = false ∧
    Instr.wf (.messageForward .write (msgOf 0) [0#512]) = true := by decide
theorem test_wf_block : Instr.wf (.circBlock 0 .next (circOf 1) [] 0#32) = false ∧
    Instr.wf (.circBlock 0 .next (circOf 1) [0#8] 0#32) = true := by decide
theorem test_wf_frame : Instr.wf (.frameReceive 0 ⟨0, 0, 0, false, 0, []⟩ ⟨1, [16]⟩) = false ∧
    Instr.wf (.frameReceive 0 ⟨0, 0, 0, false, 0, []⟩ ⟨1, [15]⟩) = true := by decide

/-! ### Worked examples of the spec -/

/-- Chapter 1, composing an address: chip 0x176, tier 1. -/
theorem test_device_address : Dev.of 0x17641234567800 = ⟨0x176, 1, 0x1234567800⟩ := by decide

/-- Chapter 2, a row of 4,096 copies of 1.5 × 2^127: the mean is that value and the variance is +0. -/
theorem test_identical_row :
    let x : Int := 3 * 2 ^ (126 + 149)
    let r : RowState := ⟨4096, 4096 * x, (4096 * x * x).toNat, 0⟩
    (r.record.finish).1 = 0x7F400000#32 ∧ r.record.finish.2.2.1 = 0#32 ∧
      RowState.empty.feed (f32 0x7F400000#32) = ⟨1, x, (x * x).toNat, 0⟩ := by decide +kernel

/-- Chapter 2, order dependence: ordered FP32 sums differ by order, the AIR64 sum of the same four values is 3 × 2^-31 in any order. -/
theorem test_order_dependence :
    let v (w : Word) : Val := f32 w
    let one := v 0x3F800000#32
    let a := v 0x30C00000#32
    let minus := v 0xBF800000#32
    let tiny := v 0x26800000#32
    let word := airWord 47 0
    rne ((rne ((rne (one.add a)).add minus)).add tiny) = rne tiny ∧ rne ((rne ((rne (minus.add tiny)).add one)).add a) = rne a ∧
      word a = 196608 ∧ word tiny = 0 ∧ airAdd (airAdd (airAdd (word one) (word a)) (word minus)) (word tiny) = 196608 ∧
      toF32 (airValue 47 0 196608) = 0x30C00000#32 := by decide +kernel

/-- Chapter 5, the hard-swish micro-program on x = 1.5 gives 1.125. -/
theorem test_hard_swish :
    let b : SfuBank := ⟨[(0x10, 0x72000100#32), (0x11, 0x74000101#32), (0x12, 0xA4080000#32), (0x13, 0x76000102#32), (0x14, 0xB4980000#32),
      (0x15, 0x76000103#32), (0x16, 0xC4980000#32), (0x17, 0x94100000#32), (0x18, 0x00800000#32)],
      [(0x100, 0x3E2AAAAB#32), (0x101, 0x3F000000#32), (0x103, 0x3F800000#32)], 0#64⟩
    (match microprogram b 0x10 (f32 0x3FC00000#32) with
      | .ok v => (convert .bf16 v.1).bits
      | .error _ => 0) = 0x3F90 := by decide +kernel

/-! ### Builders -/

/-- A chip that runs: out of reset, the boot sequence over, its first voltage commanded; whatever its variant. -/
def live : State := { State.reset with
  sec := { State.reset.sec with lc := 0, inReset := false, stage := 4 }, power := { State.reset.power with lit := true } }

/-- A core instruction word: opcode, engine, the bits of the control fields, operands. -/
def word (op eng ctl operands : Nat) : BitVec 128 := BitVec.ofNat 128 (op * 2 ^ 120 + eng * 2 ^ 118 + ctl + operands)

/-- A core that runs command 1 in a phase with one instruction at the head of a queue. -/
def coreWith (eng phase : Nat) (w : BitVec 128) : Core :=
  { Core.reset with eng := { Engines.reset with flight := some 1, phase := phase, queues := [(eng, [(w, 0x400)])] } }

/-- A chip whose core 0 is such a core. -/
def atHead (eng phase : Nat) (w : BitVec 128) : State := { live with cores := [(0, coreWith eng phase w)] }

/-- A command in flight. -/
def fl (id q op : Nat) (st : Stage) (body : Nat) : Flight :=
  { id := id, queue := q, origin := .ring 0 1, fmt1 := false, body := bytesOf 128 (op + 2 * 2 ^ 8 + body), stage := st, cores := [],
    laces := [], error := 0, advisory := 0, unit := 0#32, detail := 0#32, result := 0, started := 0, branches := [], round := 0,
    halted := none, pos := 0, errPos := 0, parts := [], scratch := [], lists := [], dropped := false, walked := [], cut := false }
/-- A chip with one command in flight. -/
def withCmd (s : State) (f : Flight) : State := { s with cmd := { s.cmd with flights := [f], nextId := 9 } }
/-- A chip whose port 0 is UP and leads to chip 5. -/
def linked : State := { live with
  win := { Window.reset with regs := [(pageLink 0 + 0x40, 2#32)], active := [(pageLinks + 0x1000, 0xFFF00005#32), (pageLinks + 0x1004, 0x40001FF#32)] }
  links := [(0, { Port.reset with granted := [(0, 1000), (1, 1000), (2, 1000), (3, 1000)] })] }
/-- Staged words in force. -/
def act (s : State) (l : List (Nat × Nat)) : State :=
  { s with win := { s.win with active := l.foldl (fun t x => store stgReset t x.1 (BitVec.ofNat 32 x.2)) s.win.active } }
/-- The same chip with its plan: it is chip 6, and hears port 0. -/
def onBench : State := (act linked [(pageLinks + 0x100, 6)]).setReg 0x40 6#32
/-- Group entry `e`: id, members, position, release counter, lace, member list, EPOCH. -/
def grp (e id n pos ctr lace list epoch : Nat) : List (Nat × Nat) :=
  [(0x2000 + 32 * e, id + 2 ^ 20), (0x2004 + 32 * e, n + pos * 2 ^ 16), (0x2008 + 32 * e, ctr + lace * 2 ^ 12),
   (0x200C + 32 * e, list % 2 ^ 32), (0x2010 + 32 * e, list / 2 ^ 32), (0x2014 + 32 * e, epoch)]
/-- Bytes of T1, written by no one. -/
def t1At (s : State) (off : Nat) (bs : List Byte) : State :=
  { s with mem := { s.mem with t1 := (s.mem.t1.filter fun e => e.1 < off) ++
      (bs.zipIdx.filterMap fun b => if b.1 = t1Default s.mem.tables (off + b.2) then none else some (off + b.2, b.1)) ++
      (s.mem.t1.filter fun e => off + bs.length ≤ e.1) } }
/-- A valid placement entry of policy 1. -/
def resident (s : State) (i len base : Nat) : State :=
  t1At s (64 * i) (bytesOf 64 (i + 2 ^ 16 + 2 ^ 32 + len * 2 ^ 64 + base * 2 ^ 128 + len * 2 ^ 192))
/-- The state an outcome answers. -/
def nextOf (o : Out) : State := match o with
  | .next s => s
  | _ => live
def pool0 : Pool := Pool.of (Entry.ofBytes 0 []) (Entry.ofBytes 0 []) []
def almanac0 : Almanac := ⟨pool0, 0, 0, 0, 0, 0, 0, []⟩
def index0 : IndexRef := ⟨Entry.ofBytes 0 [], Entry.ofBytes 0 [], Entry.ofBytes 0 [], Index.of []⟩
/-- The value of a step that may stop. -/
def okOf {ε α : Type} (d : α) (x : Except ε α × State) : α := match x.1 with
  | .ok a => a
  | .error _ => d
def kvOf {ε α : Type} (d : α) (x : Except ε α) : α := match x with
  | .ok a => a
  | .error _ => d
def isOk {ε α : Type} (x : Except ε α) : Bool := match x with
  | .ok _ => true
  | .error _ => false
def errIs {ε α : Type} [DecidableEq ε] (x : Except ε α) (p : ε) : Bool := match x with
  | .ok _ => false
  | .error q => decide (q = p)
def isNext (o : Out) : Bool := match o with
  | .next _ => true
  | _ => false
theorem okSelf {ε α : Type} {x : Except ε α} {d : α} (h : isOk x = true) : x = .ok (kvOf d x) := by
  cases x
  · cases h
  · rfl
theorem errEq {ε α : Type} [DecidableEq ε] {x : Except ε α} {p : ε} (h : errIs x p = true) : x = .error p := by
  cases x <;> simp_all [errIs]
theorem pairSelf {ε α : Type} {x : Except ε α × State} {d : α} (h : isOk x.1 = true) : x = (.ok (okOf d x), x.2) := by
  obtain ⟨a, b⟩ := x
  cases a
  · cases h
  · rfl
def okIs {ε α : Type} [DecidableEq α] (x : Except ε α) (p : α) : Bool := match x with
  | .ok q => decide (q = p)
  | .error _ => false
theorem okEq {ε α : Type} [DecidableEq α] {x : Except ε α} {p : α} (h : okIs x p = true) : x = .ok p := by
  cases x <;> simp_all [okIs]
theorem pairOk {ε α β : Type} [DecidableEq α] {x : Except ε α × β} {p : α} (h : okIs x.1 p = true) : x = (.ok p, x.2) :=
  Prod.ext (okEq h) rfl
theorem pairSnd {α β : Type} {x : α × β} {b : β} (h : x.2 = b) : x = (x.1, b) := Prod.ext rfl h
theorem tripSelf {α β γ : Type} {x : α × β × γ} {c : γ} (h : x.2.2 = c) : x = (x.1, x.2.1, c) := Prod.ext rfl (Prod.ext rfl h)
theorem succ_ne (x : Dword) : x + 1 ≠ x := by bv_omega
theorem nextSelf {o : Out} (h : isNext o = true) : o = .next (nextOf o) := by
  cases o <;> first | rfl | cases h

/-- The record of a small KV pool: 4 pages, 1 layer, 1 group, E4M3 rows of 64 keys and 64 values, 4 sequences, 1,024 nodes, page 0 free. -/
def poolRec : List Byte := bytesOf 128 (0x10006 + 4 * 2 ^ 32 + 1 * 2 ^ 64 + 1 * 2 ^ 80 + 3 * 2 ^ 88 + 64 * 2 ^ 96 + 64 * 2 ^ 112 + 1 * 2 ^ 128 +
  128 * 2 ^ 192 + 128 * 2 ^ 224 + 131072 * 2 ^ 256 + 4 * 2 ^ 320 + 1024 * 2 ^ 352 + 0x1000 * 2 ^ 384 + 0x2000 * 2 ^ 448 + 0x3000 * 2 ^ 512 +
  0 * 2 ^ 576 + 3 * 2 ^ 608)
/-- A chip with that pool: sequence 0 holds `len` positions in `n` pages, sequence 1 is empty. -/
def withPool (s : State) (n len : Nat) (list : List Byte) : State :=
  let s := resident (resident s 5 0x200000 0x1000000) 6 0x200000 0x2000000
  let s := t1At s 0x1000000 poolRec
  let s := t1At s 0x1001000 (bytesOf 32 (0x1100 + 4 * 2 ^ 64 + n * 2 ^ 96 + len * 2 ^ 128 + 2 ^ 192))
  let s := t1At s 0x1001020 (bytesOf 32 (0x1140 + 4 * 2 ^ 64 + 2 ^ 192))
  let s := t1At s 0x1001100 list
  t1At s 0x1002000 (bytesOf 16 (1 * 2 ^ 40 + (1 + 0xFFFFFF * 2 ^ 40) * 2 ^ 64))

/-! ### Core programs -/

namespace CoreFlow

def nopW := word 0 0 0 0
def nopS := atHead 0 0 nopW
def nopCW := word 0 0 (2^117 + 100*2^109 + 2*2^72) 0
def nopCS : State := { live with cores := [(0, { coreWith 0 0 nopCW with ctr := [(100, 5)] })] }
def addW := word 1 1 0 (3 + 7 * 256)
def addS := atHead 1 0 addW
def subW := word 1 1 0 (100 + (2^24-2) * 256)
def subS : State := { live with cores := [(0, { coreWith 1 0 subW with ctr := [(100, 5)] })] }
def decW := word 1 1 0 (3 + (2^24-1) * 256)
def decS := atHead 1 0 decW
def haltW := word 2 3 0 0
def haltS := atHead 3 0 haltW
def limW := word 3 3 0 32
def limS := atHead 3 0 limW
def limFW := word 3 0 0 32
def limFS := atHead 0 0 limFW
def dispG : Engines := { Engines.reset with flight := some 1, base := 0x800000, count := 4 }
def dispS : State := { live with cores := [(0, { Core.reset with eng := dispG })] }
def dispBadS : State := { dispS with mem := { State.reset.mem with t1 := [(0x80000F, 0xFF#8)] } }
def fetW := word 0x10 0 0 (0x100 + 2^20)
def phS := atHead 0 0 fetW
def sigW := word 0 0 (2^116 + 5 * 2^102) 0
def fly (e : Nat) (i : InFlight) : Core := { Core.reset with eng := { Engines.reset with flight := some 1, fly := [(e, [i])], nextIid := 1 } }
def sigS : State := { live with cores := [(0, fly 0 (InFlight.new 0 sigW 0x400))] }
def unW := word 0x34 3 0 0
def unI : InFlight := { InFlight.new 0 unW 0x400 with owed := [7] }
def unS : State := { live with cores := [(0, fly 3 unI)] }
def gatedS : State := { live with cores := [(0, { Core.reset with eng := { Engines.reset with gated := true, flight := some 1 } })] }
def resettingS : State := { live with
  cores := [(1, { Core.reset with eng := { Engines.reset with resetting := true } })]
  mem := { State.reset.mem with t0 := [(5, 1#8), (0x4000005, 2#8)] } }
def brokenS : State := { live with cores := [(0, { Core.reset with eng := { Engines.reset with flight := some 1, broken := true } })] }
def hangS : State := { live with cores := [(0, { Core.reset with eng := { Engines.reset with flight := some 1 } })] }

/-- The hypotheses of CommonInstructions hold, clause by clause. -/
theorem hyps_commonInstructions :
    (nopS.ready (0) Engine.fetch.idx 0 nopW 1024) ∧
    (nopCS.ready (0) Engine.fetch.idx 0 nopCW 1024) ∧
    (addS.ready (0) Engine.plane.idx 1 addW 1024) ∧ (0 ≤ decodeInt 24 (bitsOf addW.toNat 31 8)) ∧
    ((addS.take (0) Engine.plane.idx addW 1024).coreCtr (0) (bitsOf addW.toNat 6 0) + (decodeInt 24 (bitsOf addW.toNat 31 8)).toNat < if 96 ≤
          bitsOf addW.toNat 6 0 then 2 ^ 32 else 2 ^ 48) ∧
    (subS.ready (0) Engine.plane.idx 1 subW 1024) ∧ (decodeInt 24 (bitsOf subW.toNat 31 8) < 0) ∧ (96 ≤ bitsOf subW.toNat 6 0) ∧
    ((decodeInt 24 (bitsOf subW.toNat 31 8)).natAbs ≤ (subS.take (0) Engine.plane.idx subW 1024).coreCtr (0) (bitsOf subW.toNat 6 0)) ∧
    (decS.ready (0) Engine.plane.idx 1 decW 1024) ∧ (decodeInt 24 (bitsOf decW.toNat 31 8) < 0) ∧ (bitsOf decW.toNat 6 0 < 96) ∧
    (haltS.ready (0) Engine.put.idx 2 haltW 1024) ∧
    (limS.ready (0) Engine.put.idx 3 limW 1024) ∧
    (limFS.ready (0) Engine.fetch.idx 3 limFW 1024) := by
  and_intros <;> decide +kernel

/-- The hypotheses of DispatchAndPhase hold, clause by clause. -/
theorem hyps_dispatchAndPhase :
    (dispS.dispatchReady 0 = true) ∧ (dispS.poisonIn ((dispS.core 0).eng.base + 16 * (dispS.core 0).eng.next) 16 = none) ∧
    (wordOk (natOf (dispS.t1Seen ((dispS.core 0).eng.base + 16 * (dispS.core 0).eng.next) 16)) = true) ∧
    (((dispS.core 0).eng.queueOf (engOf (natOf (dispS.t1Seen ((dispS.core 0).eng.base + 16 * (dispS.core 0).eng.next) 16)))).length < 64) ∧
    (dispBadS.dispatchReady 0 = true) ∧ (dispBadS.poisonIn ((dispBadS.core 0).eng.base + 16 * (dispBadS.core 0).eng.next) 16 = none) ∧
    (wordOk (natOf (dispBadS.t1Seen ((dispBadS.core 0).eng.base + 16 * (dispBadS.core 0).eng.next) 16)) = false) ∧
    (phS.coreLive 0 = true) ∧ (phS.phaseEnded 0 = true) ∧
    (phS.nextPhase (0) (if (phS.core 0).eng.phase = 0 then (phS.core 0).eng.lastPhase else (phS.core 0).eng.phase) = some 1) := by
  and_intros <;> decide +kernel

/-- The hypotheses of CompletionSignals hold, clause by clause. -/
theorem hyps_completionSignals :
    ((sigS.core 0).eng.flyOf Engine.fetch.idx = [InFlight.new 0 sigW 1024]) ∧ (sigS.fatal = false) ∧
    ((sigS.core 0).eng.complete (InFlight.new 0 sigW 1024) = true) ∧ ((sigS.core 0).eng.flight = some 1) ∧ ((sigS.core 0).eng.failed = none) ∧
    (traceFlag (InFlight.new 0 sigW 1024).word.toNat = false) ∧ (sigEn (InFlight.new 0 sigW 1024).word.toNat = true) ∧
    ((InFlight.new 0 sigW 1024).cut = false) ∧
    (sigS.coreCtr (0) (sigCtr (InFlight.new 0 sigW 1024).word.toNat) + 1 < if 96 ≤ sigCtr (InFlight.new 0 sigW 1024).word.toNat then 2 ^ 32 else
          2 ^ 48) ∧
    ((unS.core 0).eng.flyOf Engine.put.idx = [unI]) ∧ ((unS.core 0).eng.complete unI = false) := by
  and_intros <;> decide +kernel

/-- The hypotheses of CorePowerAndReset hold, clause by clause. -/
theorem hyps_corePowerAndReset :
    (live.fatal = false) ∧ ((live.core 0).eng.flight = none) ∧ ((live.core 0).eng.gated = false) ∧ ((live.core 0).eng.resetting = false) ∧
    (live.coreCtrl (0) 1 = false) ∧
    (gatedS.fatal = false) ∧ ((gatedS.core 0).eng.gated = true) ∧ (((gatedS.core 0).eng.flight.isSome || gatedS.coreCtrl (0) 1) = true) ∧
    (resettingS.fatal = false) ∧ ((resettingS.core 1).eng.resetting = true) ∧
    (brokenS.fatal = false) ∧ ((brokenS.core 0).eng.broken = true) ∧
    (hangS.fatal = false) ∧ ((hangS.core 0).eng.flight = some 1) ∧ ((hangS.core 0).eng.broken = false) ∧ ((hangS.core 0).eng.failed = none) ∧
    (BitVec.toNat (hangS.reg (pageCore 0 + 80)) % 2 ^ 24 ≠ 0) := by
  and_intros <;> decide +kernel

/-- The hypotheses of StepRunsFrontCommand hold, clause by clause. -/
theorem hyps_stepRunsFrontCommand :
    (live.pending = []) := by
  decide +kernel

end CoreFlow

/-! ### FETCH, PUT and the put queue; banks and tallies -/

namespace Blocks

def fetW := word 0x10 0 0 (0x100 + 2^20)
def fetFarW := word 0x10 0 0 (0xFFFFF + 2*2^20)
def putW := word 0x30 3 0 (0x100 + 2^20)
def putFarW := word 0x30 3 0 (0xFFFFF + 2*2^20)
def fly (e : Nat) (i : InFlight) : Core := { Core.reset with eng := { Engines.reset with flight := some 1, fly := [(e, [i])], nextIid := 1 } }
def blk (far near len c1 flags : Nat) : List Byte := bytesOf 64 (far + near*2^128 + len*2^160 + c1*2^192 + 2^208 + 2^224 + flags*2^240)
def blkS (e : Nat) (w : BitVec 128) (b : List Byte) : State :=
  ({ live with cores := [(0, fly e (InFlight.new 0 w 0x400))], mem := { State.reset.mem with t1 := [(0x800000, 7#8), (0x80000F, 0xFF#8)] } }).setWs 0 0x4000 b |>.setT0 0x5010 [9#8, 1#8]
def rsW := word 0x31 3 0 (0x40 + 1*2^20 + 0x80*2^23 + 1*2^43)
def rsDW := word 0x31 3 0 (0x40 + 1*2^20 + 0x80*2^23 + 1*2^43 + 5*2^63 + 2^70)
def rsS (w : BitVec 128) : State := { live with cores := [(0, coreWith 3 3 w), (1, { Core.reset with eng := { Engines.reset with flight := some 1 } })], mem := { State.reset.mem with t0 := [(0x1000, 7#8), (0x100F, 0xFF#8)] } }
def feW := word 0x33 3 0 0
def srW := word 0x34 3 0 (0xFFFFF + 7 * 2^21 + 3 * 2^33)
def linkedAt (e p : Nat) (w : BitVec 128) : State := { linked with cores := [(0, coreWith e p w)] }
def srFW := word 0x34 3 0 (5 + 7 * 2^21 + 3 * 2^33)
def awW := word 0x32 3 0 0x100
def awRec : List Byte := bytesOf 64 (5 * 2^44 + 2^42 + 0x100 + 4 * 2^64) ++ [1#8,2#8,3#8,4#8]
def awS : State := (linkedAt 3 3 awW).setWs 0 0x4000 awRec
def awOwnS : State := (atHead 3 3 awW).setWs 0 0x4000 (bytesOf 64 (0xFFFFF * 2^44 + 2^42 + 0x800000 + 4 * 2^64) ++ [1#8,2#8,3#8,4#8])
def lwW := word 0x20 1 0 (0x100 + 1 * 2^40 + 2 * 2^44 + 3 * 2^54)
def lwS : State := (atHead 1 2 lwW).setWs 0 0x4000 [1#8, 2#8, 3#8]
def tcW := word 0x45 2 0 3
def tcS : State := { live with cores := [(0, { coreWith 2 0 tcW with plane := { Plane.reset with tally := [(3, 7#32), (2 * 262144 + 4, 7#32)] } })] }
def mmW := word 0x21 1 (2^98) (0x100 + 2 * 2^40 + 1 * 2^52 + 2 * 2^55 + 2^59)
def mmB : Bank := { valid := true, cols := [(0, [(0x4000, 127), (0x3C00, 127)]), (1, [(0x3C00, 127), (0x4200, 127)])], kvalid := [(1, 2)], nvalid := [(1, 2)], fmt := [(1, some 2)] }
def mmS : State := ({ live with cores := [(0, { coreWith 1 2 mmW with plane := { Plane.reset with bank1 := mmB, tally := [(262144, 0x3F800000#32), (5, 3#32)] } })] }).setWs 0 0x4000 [0#8, 0x3C#8, 0#8, 0x40#8]

/-- The hypotheses of FetchPutIssueAndCheck hold, clause by clause. -/
theorem hyps_fetchPutIssueAndCheck :
    ((atHead 0 1 fetW).ready (0) 0 16 fetW 1024) ∧ (64 * bitsOf fetW.toNat 19 0 + 64 * bitsOf fetW.toNat 35 20 ≤ 67108864) ∧
    ((atHead 0 1 fetFarW).ready (0) 0 16 fetFarW 1024) ∧ (¬64 * bitsOf fetFarW.toNat 19 0 + 64 * bitsOf fetFarW.toNat 35 20 ≤ 67108864) ∧
    ((atHead 3 3 putW).ready (0) 3 48 putW 1024) ∧ (64 * bitsOf putW.toNat 19 0 + 64 * bitsOf putW.toNat 35 20 ≤ 67108864) ∧
    ((atHead 3 3 putFarW).ready (0) 3 48 putFarW 1024) ∧ (¬64 * bitsOf putFarW.toNat 19 0 + 64 * bitsOf putFarW.toNat 35 20 ≤ 67108864) ∧
    (Engine.fetch = Engine.fetch ∨ Engine.fetch = Engine.put) ∧ ((blkS 0 fetW (blk 8388608 20480 0 1 0)).blocksLive 0 = true) ∧
    (List.find? (fun i => i.halted.isNone && decide (i.block < i.blocks)) (((blkS 0 fetW (blk 8388608 20480 0 1 0)).core 0).eng.flyOf
          Engine.fetch.idx) = some (InFlight.new 0 fetW 1024)) ∧
    ((InFlight.new 0 fetW 1024).open_ = []) ∧
    (((blkS 0 fetW (blk 8388608 20480 0 1 0)).transfers (0) Engine.fetch.idx).length < ((blkS 0 fetW (blk 8388608 20480 0 1 0)).core
          0).eng.limit Engine.fetch.idx) ∧
    ((blkS 0 fetW (blk 8388608 20480 0 1 0)).blockCheck ((blkS 0 fetW (blk 8388608 20480 0 1 0)).blockOf (0) (InFlight.new 0 fetW 1024))
          (Engine.fetch == Engine.put) ((blkS 0 fetW (blk 8388608 20480 0 1 0)).core 0).eng.flight = (some (eBlockBad, 0),
          blkS 0 fetW (blk 8388608 20480 0 1 0))) ∧
    (errClass eBlockBad = 1) := by
  and_intros <;> decide +kernel

/-- The hypotheses of BlockIssueMoves hold, clause by clause. -/
theorem hyps_blockIssueMoves :
    (Engine.fetch = Engine.fetch ∨ Engine.fetch = Engine.put) ∧ ((blkS 0 fetW (blk 8388608 20480 100 1 0)).blocksLive 0 = true) ∧
    (List.find? (fun i => i.halted.isNone && decide (i.block < i.blocks)) (((blkS 0 fetW (blk 8388608 20480 100 1 0)).core 0).eng.flyOf
          Engine.fetch.idx) = some (InFlight.new 0 fetW 1024)) ∧
    ((InFlight.new 0 fetW 1024).open_ = []) ∧
    (((blkS 0 fetW (blk 8388608 20480 100 1 0)).transfers (0) Engine.fetch.idx).length < ((blkS 0 fetW (blk 8388608 20480 100 1 0)).core
          0).eng.limit Engine.fetch.idx) ∧
    (((blkS 0 fetW (blk 8388608 20480 100 1 0)).blockOf (0) (InFlight.new 0 fetW 1024)).kind = 0) ∧
    (((blkS 0 fetW (blk 8388608 20480 100 1 0)).blockOf (0) (InFlight.new 0 fetW 1024)).c1 = 1) ∧
    (((blkS 0 fetW (blk 8388608 20480 100 1 0)).blockOf (0) (InFlight.new 0 fetW 1024)).c2 = 1) ∧
    (((blkS 0 fetW (blk 8388608 20480 100 1 0)).blockOf (0) (InFlight.new 0 fetW 1024)).c3 = 1) ∧
    (1 ≤ ((blkS 0 fetW (blk 8388608 20480 100 1 0)).blockOf (0) (InFlight.new 0 fetW 1024)).len) ∧
    (((blkS 0 fetW (blk 8388608 20480 100 1 0)).blockOf (0) (InFlight.new 0 fetW 1024)).farOff % 4096 + ((blkS 0 fetW (blk 8388608 20480 100 1
          0)).blockOf (0) (InFlight.new 0 fetW 1024)).len ≤ 4096) ∧
    ((blkS 0 fetW (blk 8388608 20480 100 1 0)).blockCheck ((blkS 0 fetW (blk 8388608 20480 100 1 0)).blockOf (0) (InFlight.new 0 fetW 1024))
          (Engine.fetch == Engine.put) ((blkS 0 fetW (blk 8388608 20480 100 1 0)).core 0).eng.flight = (none,
          blkS 0 fetW (blk 8388608 20480 100 1 0))) ∧
    ((blkS 0 fetW (blk 8388608 20480 100 1 0)).dstBusy (0) Engine.fetch.idx ((blkS 0 fetW (blk 8388608 20480 100 1 0)).blockDst ((blkS 0 fetW
          (blk 8388608 20480 100 1 0)).blockOf (0) (InFlight.new 0 fetW 1024)) (Engine.fetch == Engine.put)) = false) ∧
    (Engine.fetch = Engine.fetch) ∧ (((blkS 0 fetW (blk 8388608 20480 100 1 0)).blockOf (0) (InFlight.new 0 fetW 1024)).zero = false) ∧
    ((blkS 0 fetW (blk 8388608 20480 100 1 0)).poisonIn ((blkS 0 fetW (blk 8388608 20480 100 1 0)).blockOf (0) (InFlight.new 0 fetW
          1024)).farOff ((blkS 0 fetW (blk 8388608 20480 100 1 0)).blockOf (0) (InFlight.new 0 fetW 1024)).len = none) ∧
    ((blkS 0 fetW (blk 8388608 20480 100 1 1)).blocksLive 0 = true) ∧
    (List.find? (fun i => i.halted.isNone && decide (i.block < i.blocks)) (((blkS 0 fetW (blk 8388608 20480 100 1 1)).core 0).eng.flyOf
          Engine.fetch.idx) = some (InFlight.new 0 fetW 1024)) ∧
    (((blkS 0 fetW (blk 8388608 20480 100 1 1)).transfers (0) Engine.fetch.idx).length < ((blkS 0 fetW (blk 8388608 20480 100 1 1)).core
          0).eng.limit Engine.fetch.idx) ∧
    (((blkS 0 fetW (blk 8388608 20480 100 1 1)).blockOf (0) (InFlight.new 0 fetW 1024)).kind = 0) ∧
    (((blkS 0 fetW (blk 8388608 20480 100 1 1)).blockOf (0) (InFlight.new 0 fetW 1024)).c1 = 1) ∧
    (((blkS 0 fetW (blk 8388608 20480 100 1 1)).blockOf (0) (InFlight.new 0 fetW 1024)).c2 = 1) ∧
    (((blkS 0 fetW (blk 8388608 20480 100 1 1)).blockOf (0) (InFlight.new 0 fetW 1024)).c3 = 1) ∧
    (1 ≤ ((blkS 0 fetW (blk 8388608 20480 100 1 1)).blockOf (0) (InFlight.new 0 fetW 1024)).len) ∧
    (((blkS 0 fetW (blk 8388608 20480 100 1 1)).blockOf (0) (InFlight.new 0 fetW 1024)).farOff % 4096 + ((blkS 0 fetW (blk 8388608 20480 100 1
          1)).blockOf (0) (InFlight.new 0 fetW 1024)).len ≤ 4096) ∧
    ((blkS 0 fetW (blk 8388608 20480 100 1 1)).blockCheck ((blkS 0 fetW (blk 8388608 20480 100 1 1)).blockOf (0) (InFlight.new 0 fetW 1024))
          (Engine.fetch == Engine.put) ((blkS 0 fetW (blk 8388608 20480 100 1 1)).core 0).eng.flight = (none,
          blkS 0 fetW (blk 8388608 20480 100 1 1))) ∧
    ((blkS 0 fetW (blk 8388608 20480 100 1 1)).dstBusy (0) Engine.fetch.idx ((blkS 0 fetW (blk 8388608 20480 100 1 1)).blockDst ((blkS 0 fetW
          (blk 8388608 20480 100 1 1)).blockOf (0) (InFlight.new 0 fetW 1024)) (Engine.fetch == Engine.put)) = false) ∧
    (((blkS 0 fetW (blk 8388608 20480 100 1 1)).blockOf (0) (InFlight.new 0 fetW 1024)).zero = true) ∧
    (Engine.put = Engine.fetch ∨ Engine.put = Engine.put) ∧ ((blkS 3 putW (blk 8388608 20480 100 1 0)).blocksLive 0 = true) ∧
    (List.find? (fun i => i.halted.isNone && decide (i.block < i.blocks)) (((blkS 3 putW (blk 8388608 20480 100 1 0)).core 0).eng.flyOf
          Engine.put.idx) = some (InFlight.new 0 putW 1024)) ∧
    ((InFlight.new 0 putW 1024).open_ = []) ∧
    (((blkS 3 putW (blk 8388608 20480 100 1 0)).transfers (0) Engine.put.idx).length < ((blkS 3 putW (blk 8388608 20480 100 1 0)).core
          0).eng.limit Engine.put.idx) ∧
    (((blkS 3 putW (blk 8388608 20480 100 1 0)).blockOf (0) (InFlight.new 0 putW 1024)).kind = 0) ∧
    (((blkS 3 putW (blk 8388608 20480 100 1 0)).blockOf (0) (InFlight.new 0 putW 1024)).c1 = 1) ∧
    (((blkS 3 putW (blk 8388608 20480 100 1 0)).blockOf (0) (InFlight.new 0 putW 1024)).c2 = 1) ∧
    (((blkS 3 putW (blk 8388608 20480 100 1 0)).blockOf (0) (InFlight.new 0 putW 1024)).c3 = 1) ∧
    (1 ≤ ((blkS 3 putW (blk 8388608 20480 100 1 0)).blockOf (0) (InFlight.new 0 putW 1024)).len) ∧
    (((blkS 3 putW (blk 8388608 20480 100 1 0)).blockOf (0) (InFlight.new 0 putW 1024)).farOff % 4096 + ((blkS 3 putW (blk 8388608 20480 100 1
          0)).blockOf (0) (InFlight.new 0 putW 1024)).len ≤ 4096) ∧
    ((blkS 3 putW (blk 8388608 20480 100 1 0)).blockCheck ((blkS 3 putW (blk 8388608 20480 100 1 0)).blockOf (0) (InFlight.new 0 putW 1024))
          (Engine.put == Engine.put) ((blkS 3 putW (blk 8388608 20480 100 1 0)).core 0).eng.flight = (none,
          blkS 3 putW (blk 8388608 20480 100 1 0))) ∧
    ((blkS 3 putW (blk 8388608 20480 100 1 0)).dstBusy (0) Engine.put.idx ((blkS 3 putW (blk 8388608 20480 100 1 0)).blockDst ((blkS 3 putW (blk
          8388608 20480 100 1 0)).blockOf (0) (InFlight.new 0 putW 1024)) (Engine.put == Engine.put)) = false) ∧
    (Engine.put = Engine.put) := by
  and_intros <;> decide +kernel

/-- The hypotheses of PutQueueSends hold, clause by clause. -/
theorem hyps_putQueueSends :
    ((rsS rsW).ready (0) 3 49 rsW 1024) ∧ ((RingSend.of rsW.toNat).src + (RingSend.of rsW.toNat).len ≤ 67108864) ∧
    ((RingSend.of rsW.toNat).dst + (RingSend.of rsW.toNat).len ≤ 67108864) ∧ ((RingSend.of rsW.toNat).dsig = false) ∧
    ((rsS rsDW).ready (0) 3 49 rsDW 1024) ∧ ((RingSend.of rsDW.toNat).src + (RingSend.of rsDW.toNat).len ≤ 67108864) ∧
    ((RingSend.of rsDW.toNat).dst + (RingSend.of rsDW.toNat).len ≤ 67108864) ∧ ((RingSend.of rsDW.toNat).dsig = true) ∧
    ((((rsS rsDW).take (0) 3 rsDW 1024).core (RingSend.of rsDW.toNat).dcore).eng.flight ≠ none) ∧
    (((rsS rsDW).take (0) 3 rsDW 1024).coreCtr (RingSend.of rsDW.toNat).dcore (RingSend.of rsDW.toNat).dctr + 1 < if 96 ≤ (RingSend.of
          rsDW.toNat).dctr then 2 ^ 32 else 2 ^ 48) ∧
    ((atHead 3 3 feW).ready (0) 3 51 feW 1024) ∧
    ((atHead 3 3 srW).ready (0) 3 52 srW 1024) ∧ (sigRemoteCheck srW.toNat (atHead 3 3 srW) = none) ∧
    ((SigTarget.of srW.toNat).onCore = false) ∧ (((atHead 3 3 srW).take (0) 3 srW 1024).isSelf (SigTarget.of srW.toNat).chip = true) ∧
    (((atHead 3 3 srW).take (0) 3 srW 1024).chipCtr (SigTarget.of srW.toNat).index + (SigTarget.of srW.toNat).amount < if ((atHead 3 3 srW).take
          (0) 3 srW 1024).isCredit (SigTarget.of srW.toNat).index = true then 2 ^ 32 else 2 ^ 48) ∧
    (awOwnS.ready (0) 3 50 awW 1024) ∧ (awOwnS.awlCheck (0) awW.toNat = none) ∧
    ((awOwnS.take (0) 3 awW 1024).isSelf (Dev.of (field (awOwnS.ws (0) (64 * bitsOf awW.toNat 19 0) 320) 0 8)).chip = true) ∧
    ((Dev.of (field (awOwnS.ws (0) (64 * bitsOf awW.toNat 19 0) 320) 0 8)).tier = 1) ∧
    ((linkedAt 3 3 srFW).ready (0) 3 52 srFW 1024) ∧ (sigRemoteCheck srFW.toNat (linkedAt 3 3 srFW) = none) ∧
    (((linkedAt 3 3 srFW).take (0) 3 srFW 1024).isSelf (SigTarget.of srFW.toNat).chip = false) ∧
    ((((linkedAt 3 3 srFW).take (0) 3 srFW 1024).request (Owner.signal (0) ((linkedAt 3 3 srFW).core 0).eng.nextIid) 3 (SigTarget.of
          srFW.toNat).chip (bitsOf srFW.toNat 32 20 * 2 ^ 20) 0 (SigTarget.of srFW.toNat).amount [] none).2 = some 0) ∧
    (awS.ready (0) 3 50 awW 1024) ∧ (awS.awlCheck (0) awW.toNat = none) ∧
    ((awS.take (0) 3 awW 1024).isSelf (Dev.of (field (awS.ws (0) (64 * bitsOf awW.toNat 19 0) 320) 0 8)).chip = false) ∧
    (((awS.take (0) 3 awW 1024).request (Owner.awl (0) (((awS.take (0) 3 awW 1024).core 0).eng.flight.getD 0) 1024) 4 (Dev.of (field (awS.ws (0) (64 * bitsOf awW.toNat 19 0) 320) 0 8)).chip (field (awS.ws (0) (64 * bitsOf awW.toNat 19 0) 320) 0 8) (slice (awS.ws (0) (64 * bitsOf awW.toNat 19 0) 320) 64 (field (awS.ws (0) (64 * bitsOf awW.toNat 19 0) 320) 8 2)).length 0 (slice (awS.ws (0) (64 * bitsOf awW.toNat 19 0) 320) 64 (field (awS.ws (0) (64 * bitsOf awW.toNat 19 0) 320) 8 2)) none).2 = some 0) := by
  and_intros <;> decide +kernel

/-- The hypotheses of BanksAndTallies hold, clause by clause. -/
theorem hyps_banksAndTallies :
    (lwS.ready (0) 1 32 lwW 1024) ∧ (loadWCheck lwW.toNat (0) lwS = none) ∧
    (tcS.ready (0) 2 69 tcW 1024) := by
  and_intros <;> decide +kernel

/-- The hypotheses of MatmulFillsTally hold, clause by clause. -/
theorem hyps_matmulFillsTally :
    (mmS.ready (0) 1 33 mmW 1024) ∧ (matmulCheck mmW.toNat (0) mmS = none) := by
  and_intros <;> decide +kernel

end Blocks

/-! ### The plane, vector and special function units -/

namespace Engines

def attRec (flags : Nat) : List Byte := bytesOf 128 (0x8000 + 64*2^32 + 1*2^64 + 1*2^80 + 3*2^96 + 3*2^104 + 3*2^112 + 3*2^120 + 64*2^128 + 64*2^144 + flags*2^176 + 64*2^192 + 64*2^224 + 0x3F800000*2^256 + 1*2^320 + 4*2^352 + 1*2^384)
def acW := word 0x22 1 0 0x100
def acS : State := (atHead 1 2 acW).setWs 0 0x4000 (attRec 0)
def acBadS : State := (atHead 1 2 acW).setWs 0 0x4000 (attRec 4)
def akW := word 0x23 1 0 (0x200 + 0x300 * 2^20 + 2 * 2^40 + 2 * 2^52)
def akS : State := ({ live with cores := [(0, { coreWith 1 2 akW with plane := { Plane.reset with record := some (attRec 0) } })] }).setWs 0 0x8000 ([0,0,0,0].map (BitVec.ofNat 8) ++ List.replicate 60 0#8 ++ List.replicate 64 0x38#8 ++ List.replicate 64 0x30#8)
def akIS (unit : Nat) : State := { akS with cores := [(0, { coreWith 1 2 akW with plane := { Plane.reset with record := some (bytesOf 128 (natOf (attRec 1) + unit * 2^448)) } })] }
/-- What ATTN_KV takes of its blocks in invariant mode. -/
def akTakes (s : State) (b : List Byte) : Bool :=
  let r := AttRec.of b
  let u := s.take 0 1 akW 0x400
  r.invariant && (takeBlocks r.unit (u.attSet 0 (AttKv.of akW.toNat).tile).lastPos (u.keyBlocks 0 r (AttKv.of akW.toNat)) []).2.2
def aeW := word 0x24 1 0 (0x400 + 2 * 2^20 + 1 * 2^23)
def aeS : State := { live with cores := [(0, { coreWith 1 2 aeW with plane := { Plane.reset with record := some (attRec 0), att := [(2*512, ⟨0#32, 0x3F800000#32⟩)], tally := [(2*262144, 0x3F800000#32)], sets := [(2, ⟨attRec 0, [2], some 3⟩)] } })] }
def scRec (mode flags n : Nat) : List Byte := bytesOf 128 (0x8000 + 64*2^32 + 1*2^64 + mode*2^80 + 3*2^88 + 64*2^96 + flags*2^120 + 0x10000*2^128 + 128*2^160 + n*2^192 + 0x9000*2^256 + 5*2^352/2^32 + 3*2^352 + 0xA000*2^384 + 32*2^432)
def scW := word 0x25 1 0 0x100
def scS (mode n : Nat) (flags : Nat := 0) : State := ((atHead 1 2 scW).setWs 0 0x4000 (scRec mode flags n)).setWs 0 0x10000 [0x38#8,0x30#8]
def vcW := word 0x40 2 0 (3 + 2 * 2^13 + 1 * 2^26 + 1 * 2^30 + 0 * 2^34)
def shape1 (rows : Nat) : BitVec 72 := BitVec.ofNat 72 (3 + rows * 2^13 + 1 * 2^26 + 1 * 2^30 + 0 * 2^34)
def vS (rows : Nat) (w : BitVec 128) : State := ({ live with cores := [(0, { coreWith 2 0 w with vcfg := some (shape1 rows) })] }).setWs 0 0x4000 [0#8, 0x3F#8, 0x80#8, 0x3F#8, 0#8, 0x40#8]
def voW := word 0x41 2 0 (0x200 + 0x100 * 2^20 + 0x100 * 2^40 + 3 * 2^61)
def vrW := word 0x41 2 0 (0x200 + 0x100 * 2^20 + 0x10 * 2^61)
def rsW := word 0x42 2 (2 * 2^98) (0x100)
def rsNW := word 0x42 2 0 (0x100 + 0x200 * 2^20)
def rsFW := word 0x42 2 (12 * 2^98) (0x100 + 0x200 * 2^20)
def rsFS : State := { vS 1 rsFW with cores := [(0, { coreWith 2 0 rsFW with vcfg := some (BitVec.ofNat 72 (1 + 1 * 2^13 + 1 * 2^26 + 1 * 2^30)) })] }
def sfW := word 0x43 2 0 (0x200 + 0x100 * 2^20 + 0 * 2^41)
def upW := word 0x44 2 0 (0x200 + 0x100 * 2^20 + 0 * 2^40)
def upRows : List (List (Nat × List Byte) × Nat) := match ((vS 2 upW).take 0 2 upW 0x400).uprogRows 0 (Uprog.of upW.toNat) (Shape.of (shape1 2)) (Shape.of (shape1 2)).rows 0 with
 | .ok r => r
 | .error _ => []
def upES : State := { vS 2 upW with cores := [(0, { (vS 2 upW).core 0 with sfu := { Sfu.reset with bank0 := ⟨[(0, 0xE0000000#32)], [], 0#64⟩ } })] }
/-- The record in force in invariant mode, and what ATTN_KV takes of its blocks. -/
abbrev akB (unit : Nat) : List Byte := ((((akIS unit).core 0).plane.record).getD [])
abbrev akT (unit : Nat) : List KeyBlock × Option Nat × Bool :=
  let u := (akIS unit).take 0 1 akW 0x400
  takeBlocks (AttRec.of (akB unit)).unit (u.attSet 0 (AttKv.of akW.toNat).tile).lastPos (u.keyBlocks 0 (AttRec.of (akB unit)) (AttKv.of akW.toNat)) []
/-- Two rows of three elements whose results are BF16. -/
def shapeB (rows : Nat) : BitVec 72 := BitVec.ofNat 72 (3 + rows * 2^13 + 1 * 2^26 + 1 * 2^30 + 1 * 2^34)
def sfB : State := { vS 2 sfW with cores := [(0, { (vS 2 sfW).core 0 with vcfg := some (shapeB 2) })] }
def sfI : Itv := match nativeFinite 0 (f32 0x3F000000#32) with
  | .within i => i
  | _ => ⟨0, 0⟩
abbrev sfR : Option Conv := roundItv .bf16 sfI

/-- The hypotheses of AttentionSequence hold, clause by clause. -/
theorem hyps_attentionSequence :
    (acS.ready (0) 1 34 acW 1024) ∧ (64 * bitsOf acW.toNat 19 0 + 128 ≤ 67108864) ∧
    (attRecOk (acS.ws (0) (64 * bitsOf acW.toNat 19 0) 128) = true) ∧
    (acBadS.ready (0) 1 34 acW 1024) ∧ (attRecOk (acBadS.ws (0) (64 * bitsOf acW.toNat 19 0) 128) = false) ∧
    (akS.ready (0) 1 35 akW 1024) ∧ (attnKvCheck akW.toNat (0) akS = none) ∧ ((akS.core 0).plane.record = some (attRec 0)) ∧
    ((AttRec.of (attRec 0)).invariant = false) ∧
    ((akIS 0).ready (0) 1 35 akW 1024) ∧ (attnKvCheck akW.toNat (0) (akIS 0) = none) ∧ (((akIS 0).core 0).plane.record = some (akB 0)) ∧
    ((AttRec.of (akB 0)).invariant = true) ∧
    (takeBlocks (AttRec.of (akB 0)).unit (((akIS 0).take (0) 1 akW 1024).attSet (0) (AttKv.of akW.toNat).tile).lastPos (((akIS 0).take (0) 1 akW
          1024).keyBlocks (0) (AttRec.of (akB 0)) (AttKv.of akW.toNat)) [] = ((akT 0).fst, (akT 0).snd.fst, false)) ∧
    ((akIS 1).ready (0) 1 35 akW 1024) ∧ (attnKvCheck akW.toNat (0) (akIS 1) = none) ∧ (((akIS 1).core 0).plane.record = some (akB 1)) ∧
    ((AttRec.of (akB 1)).invariant = true) ∧
    (takeBlocks (AttRec.of (akB 1)).unit (((akIS 1).take (0) 1 akW 1024).attSet (0) (AttKv.of akW.toNat).tile).lastPos (((akIS 1).take (0) 1 akW
          1024).keyBlocks (0) (AttRec.of (akB 1)) (AttKv.of akW.toNat)) [] = ((akT 1).fst, (akT 1).snd.fst, true)) ∧
    (aeS.ready (0) 1 36 aeW 1024) ∧ (attnEndCheck aeW.toNat (0) aeS = none) ∧ (aeS.endRec (0) (AttEnd.of aeW.toNat).tile = some (attRec 0)) := by
  and_intros <;> first
    | (with_reducible refine tripSelf ?_; decide +kernel)
    | decide +kernel

/-- The hypotheses of ScanScoresItems hold, clause by clause. -/
theorem hyps_scanScoresItems :
    ((scS 4 256).ready (0) 1 37 scW 1024) ∧ (scanCheck scW.toNat (0) (scS 4 256) = none) ∧
    ((ScanRec.of ((scS 4 256).ws (0) (64 * bitsOf scW.toNat 19 0) 128)).mode = 4) ∧
    ((scS 0 4).ready (0) 1 37 scW 1024) ∧ (scanCheck scW.toNat (0) (scS 0 4) = none) ∧
    ((ScanRec.of ((scS 0 4).ws (0) (64 * bitsOf scW.toNat 19 0) 128)).mode ≠ 4) ∧
    ((ScanRec.of ((scS 0 4).ws (0) (64 * bitsOf scW.toNat 19 0) 128)).final = false) ∧
    ((ScanRec.of ((scS 0 4).ws (0) (64 * bitsOf scW.toNat 19 0) 128)).depth ≤ 512) ∧
    (0 < (ScanRec.of ((scS 0 4 2).ws 0 (64 * bitsOf scW.toNat 19 0) 128)).lists ∧
    (look (fun _ => []) ((nextOf (exec (.scan 0) (scS 0 4 2))).core 0).scan.lists 0).length ≤ (ScanRec.of ((scS 0 4 2).ws 0 (64 * bitsOf
          scW.toNat 19 0) 128)).k) ∧
    ((scS 0 4 2).ready (0) 1 37 scW 1024) ∧ (scanCheck scW.toNat (0) (scS 0 4 2) = none) ∧
    ((ScanRec.of ((scS 0 4 2).ws (0) (64 * bitsOf scW.toNat 19 0) 128)).mode ≠ 4) ∧
    ((ScanRec.of ((scS 0 4 2).ws (0) (64 * bitsOf scW.toNat 19 0) 128)).final = true) := by
  and_intros <;> first
    | (with_reducible refine nextSelf ?_; decide +kernel)
    | decide +kernel

/-- The hypotheses of VectorUnit hold, clause by clause. -/
theorem hyps_vectorUnit :
    ((atHead 2 0 vcW).ready (0) 2 64 vcW 1024) ∧
    ((vS 2 voW).ready (0) 2 65 voW 1024) ∧ (vopCheck voW.toNat (0) (vS 2 voW) = none) ∧ ((vS 2 voW).shape 0 = some (Shape.of (shape1 2))) ∧
    ((vS 1 vrW).ready (0) 2 65 vrW 1024) ∧ (vopCheck vrW.toNat (0) (vS 1 vrW) = none) ∧ ((vS 1 vrW).shape 0 = some (Shape.of (shape1 1))) ∧
    ((Shape.of (shape1 1)).rows = 1) ∧ ((Vop.of vrW.toNat).op = 16) ∧ ((Shape.of (shape1 1)).fmtD = Fmt.fp32) ∧
    (exec (Instr.vop 0) (vS 1 vrW) = Host.Outcome.next (nextOf (exec (Instr.vop 0) (vS 1 vrW)))) ∧
    ((atHead 2 0 voW).ready (0) 2 65 voW 1024) ∧ ((atHead 2 0 voW).shape 0 = none) ∧
    ((vS 2 rsW).ready (0) 2 66 rsW 1024) ∧ (rstatCheck rsW.toNat (0) (vS 2 rsW) = none) ∧ ((vS 2 rsW).shape 0 = some (Shape.of (shape1 2))) ∧
    ((Rstat.of rsW.toNat).mode ≠ 3) ∧ ((Rstat.of rsW.toNat).keep = true) ∧
    ((vS 2 rsNW).ready (0) 2 66 rsNW 1024) ∧ (rstatCheck rsNW.toNat (0) (vS 2 rsNW) = none) ∧
    ((vS 2 rsNW).shape 0 = some (Shape.of (shape1 2))) ∧ ((Rstat.of rsNW.toNat).mode ≠ 3) ∧ ((Rstat.of rsNW.toNat).keep = false) ∧
    (rsFS.ready (0) 2 66 rsFW 1024) ∧ (rstatCheck rsFW.toNat (0) rsFS = none) ∧
    (rsFS.shape 0 = some (Shape.of (BitVec.ofNat 72 (1 + 2 ^ 13 + 2 ^ 26 + 2 ^ 30)))) ∧ ((Rstat.of rsFW.toNat).mode = 3) := by
  and_intros <;> first
    | with_reducible rfl
    | rfl
    | (with_reducible refine nextSelf ?_; decide +kernel)
    | decide +kernel

/-- The hypotheses of SpecialFunctions hold, clause by clause. -/
theorem hyps_specialFunctions :
    ((vS 2 sfW).shape 0 = some (Shape.of (shape1 2))) ∧ ((vS 2 sfW).ready (0) 2 67 sfW 1024) ∧ (sfuCheck sfW.toNat (0) (vS 2 sfW) = none) ∧
    (sfB.shape 0 = some (Shape.of (shapeB 2))) ∧ ((sfB.core 0).sfu.compat = false) ∧ ((Shape.of (shapeB 2)).fmtD ≠ Fmt.fp32) ∧
    (Fmt.bf16 ≠ Fmt.fp32) ∧ ((f32 1056964608#32).isFinite = true) ∧ ((f32 1056964608#32).isZero = false) ∧
    (nativeFinite 0 (f32 1056964608#32) = Known.within sfI) ∧ (roundItv Fmt.bf16 sfI = some (sfR.getD (convert Fmt.bf16 (f32 0#32)))) ∧
    ((vS 2 upW).shape 0 = some (Shape.of (shape1 2))) ∧ ((vS 2 upW).ready (0) 2 68 upW 1024) ∧ (uprogCheck upW.toNat (0) (vS 2 upW) = none) ∧
    (((vS 2 upW).take (0) 2 upW 1024).uprogRows (0) (Uprog.of upW.toNat) (Shape.of (shape1 2)) (Shape.of (shape1 2)).rows 0 = Except.ok upRows) ∧
    (upES.shape 0 = some (Shape.of (shape1 2))) ∧ (upES.ready (0) 2 68 upW 1024) ∧ (uprogCheck upW.toNat (0) upES = none) ∧
    ((upES.take (0) 2 upW 1024).uprogRows (0) (Uprog.of upW.toNat) (Shape.of (shape1 2)) (Shape.of (shape1 2)).rows 0 = Except.error (1, 0)) := by
  and_intros <;> first
    | with_reducible rfl
    | rfl
    | (with_reducible refine okSelf ?_; decide +kernel)
    | (with_reducible refine okEq ?_; decide +kernel)
    | (with_reducible refine errEq ?_; decide +kernel)
    | decide +kernel

end Engines

/-! ### Commands of the queues -/

namespace Commands

def ringS (rec_ : List Byte) : State :=
  let s := act live [(cqPage 0, 1 + 2 * 2 + 4 * 8), (cqPage 0 + 4, 0x800000)]
  let s := t1At s 0x800000 rec_
  { s with win := { s.win with counts := [(cqPage 0 + 0x20, 1)] }, cmd := { s.cmd with queues := [(0, { Queue.reset with arrivals := [.host 1] })] } }
def waitRec (flags : Nat) : List Byte := bytesOf 64 (0x43 + 2 * 2^8 + 1 * 2^16 + flags * 2^24 + 5 * 2^160)
def headOf (s : State) : Head := (s.startable 0).getD ⟨[], false, .ring 0 0, [], 0⟩
def imgBytes : List Byte := bytesOf 320 (0x1234 * 2^64 + 1 * 2^192 + 2 * 2^224 + (2 + 0 * 2^16 + 0x120 * 2^64 + 64 * 2^96) * 2^2048 + (3 + 0x200 * 2^64 + 64 * 2^96) * 2^2176 + 7 * 2^(8*0x120))
def imgS (op : Nat) : State := t1At (resident (withCmd live { fl 1 0 op .started (0x10005 * 2^128) with cores := [0] }) 5 0x200000 0x800000) 0x800000 imgBytes
def imgF (op : Nat) : Flight := { fl 1 0 op .started (0x10005 * 2^128) with cores := [0] }
def imgM (op : Nat) : Image := ((imgS op).imageOf (imgF op).body).getD ⟨(imgS op).entry 0, false, 0, 0, 0, 0, 0⟩
def mvF : Flight := fl 1 0 0x40 .started (100 * 2^192 + 0x800000 * 2^256 + 0x900000 * 2^384)
def mvS : State := t1At (withCmd live mvF) 0x800000 [1#8, 2#8, 3#8]
def sgF (chip i a : Nat) : Flight := fl 1 0 0x42 .started (chip * 2^128 + i * 2^160 + a * 2^192)
def sgCS : State := let s := act (withCmd live (sgF 0xFFFFF 4000 (2^64-3))) [(pageSync + 0x200 + 4 * 125, 1)]; { s with sync := { s.sync with ctr := [(4000, 10)] } }
def sgL : State := withCmd linked (sgF 5 7 3)
def wtF (e to_ : Nat) (st : Stage) : Flight := fl 1 0 0x43 st (4000 * 2^160 + e * 2^192 + to_ * 2^256)
def wtS (f : Flight) : State := let s := act (withCmd live f) [(pageSync + 0x200 + 4 * 125, 1)]; { s with sync := { s.sync with ctr := [(4000, 10)] } }
def htF : Flight := fl 1 0 0x44 .started (1 * 2^128 + 5 * 2^136 + 100 * 2^160 + 200 * 2^192)
def noHint (s : State) : State := act s [(0x0100118, 0)]
def bdF : Flight := fl 1 0 0x99 .started 0
def baF : Flight := fl 1 0 0x41 .started (1 * 2^128 + 3 * 2^64)
def baF0 : Flight := fl 1 0 0x41 .started (3 * 2^64)
def baS (f : Flight := baF) : State := t1At (act (withCmd linked f) (grp 2 3 2 1 7 0 0x800000 0)) 0x800000 (bytesOf 8 (5 + 0 * 2^32))
def gOf (s : State) (i : Nat) : Group := (s.group? i).getD ⟨0, 0, 0, 0, 0, 0, 0, 0#32⟩
def enF (e : Nat) : Flight := { fl 1 0 0x43 .ended 0 with error := e }
def enS (e : Nat) (b : Bool) (st : Nat) : State := let s := withCmd live (enF e)
  { s with cmd := { s.cmd with queues := [(0, { Queue.reset with blocked := b })] }, host := { s.host with qps := [(0, { Qp.reset with state := st })] } }
def stS : State := let s := live; { s with cmd := { s.cmd with queues := [(0, { Queue.reset with stopped := true, arrivals := [.host 3] })] }, host := { s.host with qps := [(0, { Qp.reset with state := 1 })] } }
def stGS : State := { onBench with cmd := { onBench.cmd with queues := [(0, { Queue.reset with stopped := true, arrivals := [.host 3], stopGroups := [3] })] }, host := { onBench.host with qps := [(0, { Qp.reset with state := 1 })] } }
def brF : Flight := { fl 1 0 0x43 .running 0 with branches := [⟨8, 4096, 5⟩] }
def brS : State := withCmd onBench brF
def brMF : Flight := { fl 1 0 0x14 .running 0 with branches := [⟨8, 4096, 5⟩] }
/-- A member's completion: without an error, with a class 1 code, with a class 2 code. -/
def rep0 : MemberReport := ⟨0#16, 0#16, 0#32, 0#32, 0#64, 0⟩
def rep1 : MemberReport := ⟨0x1061#16, 0#16, 0#32, 0#32, 0#64, 0⟩
def rep2 : MemberReport := ⟨0x2009#16, 0#16, 0#32, 0#32, 0#64, 0⟩
def brR : State := { brS with sec := { brS.sec with softReset := true } }
/-- A BARRIER of a group whose list names a unit of a kind that R523 forbids there. -/
def barLS : State := t1At (act (ringS (bytesOf 64 (0x41 + 2 * 2^8 + 1 * 2^16 + 3 * 2^64)))
  (grp 2 3 2 1 7 0 0x900000 0 ++ [(cqPage 0, 1 + 2 * 2 + 4 * 8), (cqPage 0 + 4, 0x800000)])) 0x900000 (bytesOf 8 (5 + 3 * 2 ^ 62))

/-- The hypotheses of CommandStartTakesHead hold, clause by clause. -/
theorem hyps_commandStartTakesHead :
    ((ringS (waitRec 0)).startable 0 = some (headOf (ringS (waitRec 0)))) ∧
    ((ringS (waitRec 0)).served (0) (headOf (ringS (waitRec 0))) = true) ∧
    ((ringS (waitRec 0)).slotPoison (0) (headOf (ringS (waitRec 0))) = none) ∧
    (((ringS (waitRec 0)).takeHead (0) (headOf (ringS (waitRec 0)))).startCode (headOf (ringS (waitRec 0))) = none) ∧
    (((ringS (waitRec 0)).takeHead (0) (headOf (ringS (waitRec 0)))).listPoison (headOf (ringS (waitRec 0))) = none) ∧
    ((headOf (ringS (waitRec 0))).scope = false) ∧ (hasImage (headOf (ringS (waitRec 0))).body = false) ∧
    ((ringS (waitRec 4)).startable 0 = some (headOf (ringS (waitRec 4)))) ∧
    ((ringS (waitRec 4)).served (0) (headOf (ringS (waitRec 4))) = true) ∧
    ((ringS (waitRec 4)).slotPoison (0) (headOf (ringS (waitRec 4))) = none) ∧
    (((ringS (waitRec 4)).takeHead (0) (headOf (ringS (waitRec 4)))).startCode (headOf (ringS (waitRec 4))) = some eCmdBadField) ∧
    (barLS.startable 0 = some (headOf barLS)) ∧ (barLS.served (0) (headOf barLS) = true) ∧ (barLS.slotPoison (0) (headOf barLS) = none) ∧
    ((barLS.takeHead (0) (headOf barLS)).tellList (headOf barLS) eGroupList = (barLS.takeHead 0 (headOf barLS)).tellList (headOf barLS) eGroupList) := by
  and_intros <;> decide +kernel

/-- The hypotheses of ImageOperatorsRun hold, clause by clause. -/
theorem hyps_imageOperatorsRun :
    ((Instr.cmdMatmul 0, 1) ∈ [(Instr.cmdMatmul 0, 1), (Instr.norm 0, 2), (Instr.sfuApply 0, 3), (Instr.coreProgram 0, 4)]) ∧
    ((imgS 1).flightAt (0) 1 Stage.started = some (imgF 1)) ∧ (0 < 8) ∧ ((imgF 1).cores = [0]) ∧
    ((imgS 1).imageOf (imgF 1).body = some (imgM 1)) ∧ ((imgS 1).imageSection (imgM 1) 2 0 = some (288, 64)) ∧
    ((imgS 1).imageSection (imgM 1) 3 0 = some (512, 64)) ∧
    ((Instr.norm 0, 2) ∈ [(Instr.cmdMatmul 0, 1), (Instr.norm 0, 2), (Instr.sfuApply 0, 3), (Instr.coreProgram 0, 4)]) ∧
    ((imgS 2).flightAt (0) 2 Stage.started = some (imgF 2)) ∧ ((imgF 2).cores = [0]) ∧ ((imgS 2).imageOf (imgF 2).body = some (imgM 2)) ∧
    ((imgS 2).imageSection (imgM 2) 2 0 = some (288, 64)) ∧ ((imgS 2).imageSection (imgM 2) 3 0 = some (512, 64)) ∧
    ((Instr.sfuApply 0, 3) ∈ [(Instr.cmdMatmul 0, 1), (Instr.norm 0, 2), (Instr.sfuApply 0, 3), (Instr.coreProgram 0, 4)]) ∧
    ((imgS 3).flightAt (0) 3 Stage.started = some (imgF 3)) ∧ ((imgF 3).cores = [0]) ∧ ((imgS 3).imageOf (imgF 3).body = some (imgM 3)) ∧
    ((imgS 3).imageSection (imgM 3) 2 0 = some (288, 64)) ∧ ((imgS 3).imageSection (imgM 3) 3 0 = some (512, 64)) ∧
    ((Instr.coreProgram 0, 4) ∈ [(Instr.cmdMatmul 0, 1), (Instr.norm 0, 2), (Instr.sfuApply 0, 3), (Instr.coreProgram 0, 4)]) ∧
    ((imgS 4).flightAt (0) 4 Stage.started = some (imgF 4)) ∧ ((imgF 4).cores = [0]) ∧ ((imgS 4).imageOf (imgF 4).body = some (imgM 4)) ∧
    ((imgS 4).imageSection (imgM 4) 2 0 = some (288, 64)) ∧ ((imgS 4).imageSection (imgM 4) 3 0 = some (512, 64)) ∧
    ((withCmd live (fl 1 0 4 Stage.started 0)).flightAt (0) 4 Stage.started = some (fl 1 0 4 Stage.started 0)) ∧
    ((fl 1 0 4 Stage.started 0).cores = []) := by
  and_intros <;> decide +kernel

/-- The hypotheses of MoveCopies hold, clause by clause. -/
theorem hyps_moveCopies :
    (mvS.mem.wiping = false) ∧ (mvS.flightAt (0) 64 Stage.started = some mvF) ∧ (mvS.cmd.flights = [mvF]) ∧ (mvS.cmd.requests = []) ∧
    (mvF.halted = none) ∧ (mvF.parts = []) ∧ (mvF.round = 0) ∧ (mvF.get 16 1 = 0) ∧ (mvF.get 17 1 = 0) ∧ (8388608 = mvF.get 32 8) ∧
    (9437184 = mvF.get 48 8) ∧ (1 ≤ mvF.get 24 8) ∧ (8388608 % 4096 + mvF.get 24 8 ≤ 4096) ∧ (9437184 % 4096 + mvF.get 24 8 ≤ 4096) ∧
    (mvS.poisonIn 8388608 (mvF.get 24 8) = none) ∧ (mvS.moveCheck mvF 16 32 false = (none, mvS)) ∧
    (mvS.moveCheck mvF 17 48 true = (none, mvS)) := by
  and_intros <;> decide +kernel

/-- The hypotheses of SignalsWaitsHints hold, clause by clause. -/
theorem hyps_signalsWaitsHints :
    ((withCmd live (sgF 1048575 7 3)).flightAt (0) 66 Stage.started = some (sgF 1048575 7 3)) ∧ (¬(1048512 ≤ (sgF 1048575 7 3).get 16 4 ∧
    (sgF 1048575 7 3).get 16 4 < 1048575)) ∧ ((withCmd live (sgF 1048575 7 3)).isSelf ((sgF 1048575 7 3).get 16 4) = true) ∧
    (0 ≤ signedOf 64 ((sgF 1048575 7 3).get 24 8)) ∧
    ((withCmd live (sgF 1048575 7 3)).chipCtr ((sgF 1048575 7 3).get 20 2) + (signedOf 64 ((sgF 1048575 7 3).get 24 8)).toNat < if (withCmd live
          (sgF 1048575 7 3)).isCredit ((sgF 1048575 7 3).get 20 2) = true then 2 ^ 32 else 2 ^ 48) ∧
    (sgCS.flightAt (0) 66 Stage.started = some (sgF 1048575 4000 (2 ^ 64 - 3))) ∧ (¬(1048512 ≤ (sgF 1048575 4000 (2 ^ 64 - 3)).get 16 4 ∧
    (sgF 1048575 4000 (2 ^ 64 - 3)).get 16 4 < 1048575)) ∧ (sgCS.isSelf ((sgF 1048575 4000 (2 ^ 64 - 3)).get 16 4) = true) ∧
    (signedOf 64 ((sgF 1048575 4000 (2 ^ 64 - 3)).get 24 8) < 0) ∧ (sgCS.isCredit ((sgF 1048575 4000 (2 ^ 64 - 3)).get 20 2) = true) ∧
    ((signedOf 64 ((sgF 1048575 4000 (2 ^ 64 - 3)).get 24 8)).natAbs ≤ ((sgCS.onFlight (sgF 1048575 4000 (2 ^ 64 - 3)).id fun f => { f with stage := Stage.running }).takeWaits ((sgF 1048575 4000 (2 ^ 64 - 3)).get 20 2) 64).chipCtr ((sgF 1048575 4000 (2 ^ 64 - 3)).get 20 2)) ∧
    (sgL.flightAt (0) 66 Stage.started = some (sgF 5 7 3)) ∧ (¬(1048512 ≤ (sgF 5 7 3).get 16 4 ∧ (sgF 5 7 3).get 16 4 < 1048575)) ∧
    (sgL.isSelf ((sgF 5 7 3).get 16 4) = false) ∧
    (((sgL.onFlight (sgF 5 7 3).id fun f => { f with stage := Stage.running }).request (Owner.command (sgF 5 7 3).id) 3 ((sgF 5 7 3).get 16 4) (signalAddr false ((sgF 5 7 3).get 20 2) (signedOf 64 ((sgF 5 7 3).get 24 8))) 0 (signalAux (signedOf 64 ((sgF 5 7 3).get 24 8))) [] none).2 = some 0) ∧
    (List.find? (fun f => decide (f.queue = 0) && decide (f.opcode = 67) && f.stage != Stage.ended) (wtS (wtF 4 0 Stage.started)).cmd.flights =
          some (wtF 4 0 Stage.started)) ∧
    ((wtF 4 0 Stage.started).get 24 8 ≤ ((wtS (wtF 4 0 Stage.started)).takeWaits ((wtF 4 0 Stage.started).get 20 2) (if (wtF 4 0
          Stage.started).stage = Stage.started then 64 else 0)).chipCtr ((wtF 4 0 Stage.started).get 20 2)) ∧
    (List.find? (fun f => decide (f.queue = 0) && decide (f.opcode = 67) && f.stage != Stage.ended) (wtS (wtF 40 0 Stage.started)).cmd.flights =
          some (wtF 40 0 Stage.started)) ∧
    (((wtS (wtF 40 0 Stage.started)).takeWaits ((wtF 40 0 Stage.started).get 20 2) (if (wtF 40 0 Stage.started).stage = Stage.started then 64
          else 0)).chipCtr ((wtF 40 0 Stage.started).get 20 2) < (wtF 40 0 Stage.started).get 24 8) ∧
    ((wtS (wtF 40 5 Stage.running)).flightAt (0) 67 Stage.running = some (wtF 40 5 Stage.running)) ∧
    ((wtF 40 5 Stage.running).get 32 4 ≠ 0) ∧
    ((wtS (wtF 40 0 Stage.running)).flightAt (0) 67 Stage.running = some (wtF 40 0 Stage.running)) ∧
    ((wtF 40 0 Stage.running).get 32 4 = 0) ∧
    ((noHint (withCmd live htF)).flightAt (0) 68 Stage.started = some htF) ∧ ((noHint (withCmd live htF)).hintEn = false) ∧
    ((withCmd live htF).flightAt (0) 68 Stage.started = some htF) ∧ ((withCmd live htF).hintEn = true) ∧ (htF.get 16 1 ≠ 0) ∧
    (List.find? (fun f => decide (f.queue = 0) && decide (recsOf f.opcode = 0) && f.stage == Stage.started) (withCmd live bdF).cmd.flights = some bdF) := by
  and_intros <;> first
    | with_reducible rfl
    | decide +kernel

/-- The hypotheses of BarrierEnters hold, clause by clause. -/
theorem hyps_barrierEnters :
    (baS.flightAt (0) 65 Stage.started = some baF) ∧ (baS.group? baF.group = some (gOf baS 3)) ∧ (baS.isCredit (gOf baS 3).ctr = false) ∧
    (baS.broken (gOf baS 3).entry = false) ∧ (((baS.chain (gOf baS 3)).getLastD (gOf baS 3)).position ≠ 0) ∧ (baS.cmd.flights = [baF]) ∧
    (baS.arrivalWay (gOf baS 3) = true) ∧
    ((baS baF0).flightAt (0) 65 Stage.started = some baF0) ∧ ((baS baF0).group? baF0.group = some (gOf (baS baF0) 3)) ∧
    ((baS baF0).isCredit (gOf (baS baF0) 3).ctr = false) ∧ ((baS baF0).broken (gOf (baS baF0) 3).entry = false) ∧
    ((((baS baF0).chain (gOf (baS baF0) 3)).getLastD (gOf (baS baF0) 3)).position ≠ 0) ∧ ((baS baF0).cmd.flights = [baF0]) ∧
    ((baS baF0).arrivalWay (gOf (baS baF0) 3) = true) ∧
    ((baF.get 16 1).testBit 0 = true) ∧
    ((baF0.get 16 1).testBit 0 = false) ∧
    ((baS baF0).chipCtr (gOf (baS baF0) 3).ctr < ((baS baF0).bar (barKey (gOf (baS baF0) 3) (gOf (baS baF0) 3))).localRound + 1) := by
  and_intros <;> decide +kernel

/-- The hypotheses of CompletionRecords hold, clause by clause. -/
theorem hyps_completionRecords :
    (List.find? ((enS eCmdBadField false 1).reportable 0) (enS eCmdBadField false 1).cmd.flights = some (enF eCmdBadField)) ∧
    ((enF eCmdBadField).origin = Origin.ring 0 1) ∧ (((enS eCmdBadField false 1).queue 0).blocked = false) ∧
    (((enS eCmdBadField false 1).qp ((enS eCmdBadField false 1).cqQp 0)).state = 1) ∧
    (List.find? ((enS eCmdBadField true 1).reportable 0) (enS eCmdBadField true 1).cmd.flights = some (enF eCmdBadField)) ∧
    (((enS eCmdBadField true 1).queue 0).blocked = true) ∧
    (List.find? ((enS eCmdBadField false 2).reportable 0) (enS eCmdBadField false 2).cmd.flights = some (enF eCmdBadField)) ∧
    (((enS eCmdBadField false 2).queue 0).blocked = false) ∧
    (((enS eCmdBadField false 2).qp ((enS eCmdBadField false 2).cqQp 0)).state ≠ 1) ∧
    (live.linked = false ∨ live.sec.softReset = false ∧ live.branchOf (9#32).toNat = none) ∧
    (brS.linked = false ∨ brS.sec.softReset = false ∧ brS.branchOf (9#32).toNat = none) ∧
    (brR.linked = true) ∧ (brR.sec.softReset = true) ∧
    (brS.linked = true) ∧ (brS.sec.softReset = false) ∧ (brS.branchOf (8#32).toNat = some (brF, (⟨8, 4096, 5⟩ : Branch))) ∧
    ((fun f => f.opcode == 20 && f.get 20 1 == 0 && f.stage != Stage.ended && decide (f.round ≤ 1) && rep1.error == 0#16) brF = false) ∧
    (errClass rep1.error.toNat = 1) ∧ (brF.cut = false) ∧
    ((fun f => f.opcode == 20 && f.get 20 1 == 0 && f.stage != Stage.ended && decide (f.round ≤ 1) && rep2.error == 0#16) brF = false) ∧
    (errClass rep2.error.toNat ≠ 1 ∨ brF.cut = true) ∧
    ((withCmd onBench brMF).linked = true) ∧ ((withCmd onBench brMF).sec.softReset = false) ∧
    ((withCmd onBench brMF).branchOf (8#32).toNat = some (brMF, (⟨8, 4096, 5⟩ : Branch))) ∧
    ((fun f => f.opcode == 20 && f.get 20 1 == 0 && f.stage != Stage.ended && decide (f.round ≤ 1) && rep0.error == 0#16) brMF = true) ∧
    (errRank 4097 ≤ errRank ({ brF with error := 8201 }).error) ∧ (errClass ({ brF with error := 8201 }).error ≠ 4) ∧ (errClass 4097 ≠ 4) ∧
    (({ brF with error := 8201 }).errPos ≤ 4096) := by
  and_intros <;> decide +kernel

/-- The hypotheses of RestartAndDrop hold, clause by clause. -/
theorem hyps_restartAndDrop :
    (((live.queue 0).stopped || (live.queue 0).blocked) = false) ∧
    (((onBench.queue 0).stopped || (onBench.queue 0).blocked) = false) ∧ ((fun g => onBench.linked = true ∧ onBench.sec.softReset = false ∧
    (onBench.group? g.toNat).bind onBench.listsUe = none) 3#20) ∧
    ((stS.queue 0).stopped = true) ∧ ((stS.queue 0).kept = []) ∧ ((stS.qp (stS.cqQp 0)).state = 1) ∧
    ((stGS.queue 0).stopped = true) ∧ ((stGS.queue 0).kept = []) ∧ ((stGS.qp (stGS.cqQp 0)).state = 1) ∧
    ((stS.queue 0).stopGroups = []) ∧
    ((stGS.queue 0).stopGroups = [3]) ∧
    (stGS.linked = true) ∧
    (stGS.sec.softReset = false) ∧
    ((stGS.group? (3#20).toNat).bind stGS.listsUe = none) := by
  and_intros <;> decide +kernel

end Commands

/-! ### Attention, KV pools, prefixes, the Almanac, collectives, vector search, barriers -/

namespace Units

def atF (op : Nat) (more : Nat) : Flight := { fl 1 0 op .started (0x10005 * 2^384 + (0xA00000 + 2^48) * 2^448 + more) with cores := [0] }
def atS (op more tab : Nat) : State := t1At (withPool (withCmd live (atF op more)) 0 0 []) 0xA00000 (bytesOf 16 tab)
abbrev poolOf (s : State) (f : Flight) : Pool := okOf pool0 (s.pool (f.get 48 4) f.id)
abbrev poolU (s : State) (f : Flight) : State := (s.pool (f.get 48 4) f.id).2
abbrev tabOf (s : State) (f : Flight) : List LenEntry := kvOf [] (s.lenTab f)
def at1 := atS 0x10 0 0
def dcM : Nat := 0x10007 * 2^576 + 1 * 2^608 + 64 * 2^640 + 1 * 2^544 + 0x10007 * 2^704
def dcS : State := resident (atS 0x11 dcM 0) 7 0x200000 0x4000000
def dcF := atF 0x11 dcM
abbrev dcU := poolU dcS dcF
def dcR := mergeOf dcF (tabOf dcS dcF) (dcU.mergePlace dcF) (kvOf [] (dcU.heldUnits (poolOf dcS dcF) (tabOf dcS dcF)))
def kvM (flag _qc _kl : Nat) : Nat := 0 * 2^416 + flag * 2^440 + 0xB00000 * 2^512 + 128 * 2^576 + 3 * 2^608
def kvF (flag : Nat) : Flight := atF 0x13 (kvM flag 0 0)
def kvS (flag tab n len : Nat) (list : List Byte) : State := t1At (withPool (withCmd live (kvF flag)) n len list) 0xA00000 (bytesOf 16 tab)
abbrev kvR (s : State) (f : Flight) := s.runCores f
def k1 := kvS 0 (1 * 2^32 + 1 * 2^64) 0 0 []
def k3 := kvS 1 (0 * 2^32 + 1 * 2^64) 1 2 (bytesOf 16 (1 + 2 * 2^64))
abbrev k3U := poolU (kvR k3 (kvF 1)) (kvF 1)
def ciM : Nat := 1 * 2^512 + 1 * 2^520 + 1 * 2^528 + 1 * 2^544
def ciF := atF 0x12 ciM
def ciS : State := act (atS 0x12 ciM (1 * 2^96)) [(pageCirc + 0x100, 2 + 2^20), (pageCirc + 0x100 + 24, 600)]
def pxF (mode more : Nat) : Flight := fl 1 0 0x14 .started (0x10005 * 2^128 + mode * 2^160 + more)
def pxS (mode more : Nat) : State := withPool (withCmd live (pxF mode more)) 1 2 (bytesOf 16 (1 + 2 * 2^64))
abbrev runF (s : State) (f : Flight) : State := s.onFlight f.id fun f => { f with stage := .running }
abbrev pxPool (s : State) (f : Flight) : Pool := okOf pool0 ((runF s f).prefixPool f)
abbrev pxU (s : State) (f : Flight) : State := ((runF s f).prefixPool f).2
abbrev opR (x : Kv (Nat × State)) : Nat × State := kvOf (0, live) x
def pxOp : Nat → State → Pool → Flight → Kv (Nat × State)
  | 1 => State.prefixInsert | 2 => State.prefixFork | 3 => State.prefixRelease | _ => fun s p f => s.evictNodes p (min (f.get 32 4) p.nodes) 0
def pxM (mode : Nat) : Nat := if mode = 2 then 1 * 2^224 else if mode = 4 then 5 * 2^256 else if mode = 1 then 0x800000 * 2^320 else 0
def pxB : Nat := 0
def mtM : Nat := 1 * 2^192
abbrev mtU := pxU (pxS 0 mtM) (pxF 0 mtM)
abbrev mtP := pxPool (pxS 0 mtM) (pxF 0 mtM)
abbrev mtV := (mtU.onFlight 1 fun f => { f with round := 1, scratch := [0] ++ f.scratch })
def mtG : Flight := (mtV.flight? 1).getD (pxF 0 0)
abbrev mtR : Machine.Seq := kvOf ⟨0,0,0,0,0⟩ (mtU.emptySeq mtP 1)
/-- A core is at work on command 1. -/
def busy (s : State) : State := { s with cores := [(0, { Core.reset with eng := { Engines.reset with flight := some 1 } })] }
def alM : Nat := 0x10005 * 2^384 + 1 * 2^480 + 1 * 2^512 + 0x10006 * 2^576 + 4 * 2^608 + 0x100000 * 2^640
def alF : Flight := fl 1 0 0x15 .started alM
def alS : State := busy (withPool (withCmd live alF) 1 2 (bytesOf 16 (1 + 2 * 2^64)))
abbrev alU := poolU (kvR alS alF) alF
abbrev alP := poolOf (kvR alS alF) alF
abbrev alA : Almanac := kvOf almanac0 (alU.almanac alF alP)
/-- The command once its cores are done (round 4), or its best entries are known (round 5). -/
def awF (r : Nat) : Flight := { alF with stage := .running, round := r, scratch := [1, 0] }
def awS (r : Nat) : State := withPool (withCmd live (awF r)) 1 2 (bytesOf 16 (1 + 2 * 2^64))
abbrev awU (r : Nat) := poolU (awS r) (awF r)
abbrev awP (r : Nat) := poolOf (awS r) (awF r)
abbrev awA (r : Nat) : Almanac := kvOf almanac0 ((awU r).almanac (awF r) (awP r))
abbrev awL (r : Nat) : List PageEntry :=
  if (awF r).round = 4 then (awA r).list else (awA r).list.filter fun x => (awA r).forced (awU r) x || ((awF r).scratch.drop 1).contains (x.base
        / 256)
abbrev awC (r : Nat) := (awU r).checkRange ((awF r).get 72 4) ((awF r).get 80 8) ((awF r).get 80 8 + 16 * (awL r).length) true (some (awF r).id)
def wkF : Flight := { atF 0x11 0 with stage := .running, cores := [0] }
def wkS : State :=
  let s := t1At (t1At (withPool (withCmd live wkF) 1 2 (bytesOf 16 (1 + 2 * 2^64))) 0xA00000 (bytesOf 16 (2^32 + 2 * 2^64))) 0x900000
    (bytesOf 16 ((word 0x10 0 0 (0x100 + 16*2^20 + 2*2^36)).toNat + 2^117 + 5*2^109) ++ bytesOf 16 (word 0x23 1 0 0x200).toNat)
  { s with cores := [(0, { Core.reset with eng := { Engines.reset with flight := some 1, base := 0x900000, count := 2 } })] }
abbrev wkU := poolU wkS wkF
abbrev wkRs : List Run := kvOf [] (wkU.walkPlan (poolOf wkS wkF) wkF (tabOf wkS wkF) 0 0 1)
def wkW : WalkSlot := (wkU.walkSlots wkF 0).headD ⟨0,0,0,0,0⟩
/-- Group 3 is this chip and one other, on lace 0. -/
def c4M : Nat := 3 * 2^64 + 15 * 2^152 + 4 * 2^192 + 512 * 2^256 + (0xFFFFF * 2^44 + 2^42 + 0x1000) * 2^320 + (0xFFFFF * 2^44 + 2^42 + 0x2000) * 2^384 + 0xFFFF * 2^464
def c4F : Flight := fl 1 0 0x20 .started c4M
def c4S : State := t1At (act (withCmd live c4F) (grp 2 3 2 1 7 0 0x800000 0 ++ [(pageCirc + 0x100, 2 + 2^20), (pageCirc + 0x100 + 24, 600)])) 0x800000 (bytesOf 8 (5 + 0 * 2^32))
abbrev c4G : Group := (c4S.group? 3).getD ⟨0, 0, 0, 0, 0, 0, 0, 0#32⟩
abbrev c4V : CollLevel := ((c4S.collLevels c4G false).getD []).headD ⟨[], 0⟩
abbrev c4R : CollRun := c4S.newColl 1 (collSpec c4F) c4G [c4V]
def coF (op : Nat) : Flight := fl 1 0 op .started (3 * 2^64 + 8 * 2^192 + 2 * 2^256)
def coS (op : Nat) : State := withCmd live (coF op)
def co2S : State := t1At (act (coS 0x21) (grp 2 3 2 1 7 7 0x800000 0)) 0x800000 (bytesOf 8 (5 + 0 * 2^32))
def vsF (o more : Nat) : Flight := fl 1 0 0x30 .started (0x10005 * 2^384 + o * 2^416 + more)
def ixRec : List Byte := bytesOf 256 (0x10006 + 0x10007 * 2^32 + 1 * 2^64 + 3 * 2^72 + 64 * 2^96 + 16 * 2^160 + 4 * 2^256 + 4 * 2^288 + 0x10005 * 2^512 + 0x10005 * 2^1024)
def vsS (o more : Nat) : State :=
  let s := resident (resident (resident (withCmd live (vsF o more)) 5 0x200000 0x1000000) 6 0x200000 0x2000000) 7 0x200000 0x4000000
  t1At (t1At s 0x1000000 ixRec) (0x4000000 + 448) (bytesOf 16 (1 + 5 * 2^64))
abbrev ixOf (s : State) (f : Flight) : IndexRef := okOf index0 (s.indexOf f)
abbrev ixU (s : State) (f : Flight) : State := (s.indexOf f).2
def qyM : Nat := 1 * 2^424 + 1 * 2^432 + 1 * 2^448 + 0x10007 * 2^832 + 1024 * 2^896
def qyS : State := busy (vsS 0 qyM)
def qzF : Flight := { vsF 0 qyM with stage := .running, round := 6, scratch := [0, 1] }
def qzS : State := { vsS 0 qyM with
  cmd := { live.cmd with flights := [qzF], nextId := 9 }
  queries := [⟨1, 5, 0, 0, 0, 0, 0, 0, false⟩] }
abbrev qyR := ixOf (kvR qyS (vsF 0 qyM)) (vsF 0 qyM)
abbrev qyU := ixU (kvR qyS (vsF 0 qyM)) (vsF 0 qyM)
abbrev qzR := ixOf qzS qzF
abbrev qzU := ixU qzS qzF
def puM : Nat := 1 * 2^512 + 1 * 2^576
/-- A query of the former view still reads the side slot that the next insert takes. -/
def phS : State := { t1At (vsS 1 puM) (0x1000000 + 40) (bytesOf 8 8) with queries := [⟨7, 5, 0, 0, 0, 4, 0, 0, true⟩] }
abbrev puU := ixU (runF (vsS 1 puM) (vsF 1 puM)) (vsF 1 puM)
abbrev puR := ixOf (runF (vsS 1 puM) (vsF 1 puM)) (vsF 1 puM)
def puL := puU.logEntries puR.index puR.side 1
def swM : Nat := 1 * 2^512
def gOf (s : State) (i : Nat) : Group := (s.group? i).getD ⟨0, 0, 0, 0, 0, 0, 0, 0#32⟩
def bgS (pos : Nat) : State := t1At (act onBench (grp 2 3 3 pos 7 0 0x800000 9)) 0x800000 (bytesOf 12 (0 + 5 * 2^32 + 6 * 2^64))
def btF : Flight := fl 1 0 0x41 .running (3 * 2^64)
def btS (n : Nat) : State := act (withCmd (bgS 1) btF) [(pageSync + 0x100, n)]
def bkS : State := { bgS 0 with sync := { (bgS 0).sync with bars := store (fun _ => Barrier.reset) (bgS 0).sync.bars (2 * 256 + 2) { Barrier.reset with broken := true } } }
def hsS (lc : Nat) : State := { live with sec := { live.sec with lc := lc } }
/-- ALMANAC_SELECT whose core has a FETCH of a buffer and the SCAN that scores it. -/
def waF : Flight := { alF with stage := .running, cores := [0] }
def waS : State :=
  let s := t1At (withPool (withCmd live waF) 1 2 (bytesOf 16 (1 + 2 * 2^64))) 0x900000
    (bytesOf 16 ((word 0x10 0 0 (0x100 + 16*2^20 + 2*2^36)).toNat + 2^117 + 5*2^109) ++ bytesOf 16 (word 0x25 1 0 0x200).toNat)
  let s := s.setWs 0 0x8010 (bytesOf 4 0x20080)
  { s with cores := [(0, { Core.reset with eng := { Engines.reset with flight := some 1, base := 0x900000, count := 2 } })] }
abbrev waU := poolU waS waF
abbrev waRs : List Run := kvOf [] (waU.walkPlan (poolOf waS waF) waF [] 0 0 1)
def waW : WalkSlot := (waU.walkSlots waF 0).headD ⟨0,0,0,0,0⟩
/-- The item of a query that its view holds first. -/
abbrev qsQ : Query := ⟨1, 5, 0, 1, 0, 0, 0, 0, false⟩
/-- A WAIT on counter 0 is running. -/
def hwF : Flight := fl 1 0 0x43 .running (7 * 2^192)
def hwS : State := withCmd (hsS 0) hwF
abbrev k1U := poolU (kvR k1 (kvF 0)) (kvF 0)
abbrev k1P := poolOf (kvR k1 (kvF 0)) (kvF 0)
def k1F : Flight := { kvF 0 with stage := .running }
def k1R : AppendRow := ((k1U.appendRows (kvF 0) (tabOf k1 (kvF 0)))).headD ⟨0, 0, 0⟩
abbrev k1N : AppendNeeds := kvOf ⟨[], []⟩ (k1U.appendNeeds k1P (k1F.get 52 2) k1R)
abbrev k1A : State := (k1U.appendRow k1P k1F k1R).1
abbrev k1V : State := k1A.onFlight k1F.id fun g => { g with round := g.round + 1 }
abbrev k3V : State := kvOf live ((tabOf k3 (kvF 1)).foldlM (fun x e => x.trimSeq (poolOf (kvR k3 (kvF 1)) (kvF 1)) e.seq e.kvLen) k3U)
abbrev mtQ : Pool := okOf pool0 (mtV.pool (mtG.get 16 4) (pxF 0 mtM).id)
abbrev mtW : State := (mtV.pool (mtG.get 16 4) (pxF 0 mtM).id).2
abbrev mtZ : State := kvOf live (mtW.attachBlocks mtQ mtG 0)
abbrev qzC := qzS.checkRange (qzF.get 104 4) (qzF.get 112 8) (qzF.get 112 8 + listStride (QueryArgs.of qzF).k * (QueryArgs.of qzF).nq) true (some qzF.id)
def hkS : State := (hsS 0).setReg (pageSync + 0x48) (BitVec.ofNat 32 (2 ^ 15 + 3 * 2 ^ 12 + 0x7F))

def brS : State := (live.setWs 0 0x408 (bytesOf 2 8)).setWs 0 0x428 (bytesOf 2 2)
def brE : LenEntry := ⟨0, 5, 300, 1⟩
/-- Records of four positions take an entry of five. -/
def brU : List RecordUse := assign (fun _ => 4) [0x400, 0x480, 0x500] [⟨brE, []⟩] 0

/-- The hypotheses of BatchRecords hold, clause by clause. -/
theorem hyps_batchRecords :
    ((⟨0x400, some brE, 0, 4, []⟩ : RecordUse) ∈ brU) ∧ ((⟨0x480, some brE, 4, 1, []⟩ : RecordUse) ∈ brU) ∧
    ((⟨0x500, none, 0, 0, []⟩ : RecordUse) ∈ brU) ∧ (brS.recordRows 0 0x400 = some (8, 2)) ∧
    (∀ o, o ∈ [10, 11, 36, 37, 38, 39, 44, 45, 46, 47] → 0x40C ≠ 0 * wsBytes + 0x400 + o) := by
  and_intros <;> decide +kernel

/-- KV_APPEND stores the one row of its table. -/
theorem hyps_storesRows : k1U.storesRows k1P k1F (k1U.appendRows (kvF 0) (tabOf k1 (kvF 0))) k1V := by
  have h : k1U.appendRows (kvF 0) (tabOf k1 (kvF 0)) = [k1R] := by decide +kernel
  rw [h]
  exact ⟨k1N, k1A, okSelf (by decide +kernel), by decide +kernel, by decide +kernel, pairSnd (by decide +kernel), rfl⟩

/-- The hypotheses of AttentionOperatorsRun hold, clause by clause. -/
theorem hyps_attentionOperatorsRun :
    ((Instr.attnPrefill 0, 16) ∈ [(Instr.attnPrefill 0, 16), (Instr.attnDecode 0, 17), (Instr.circulate 0, 18)]) ∧ (at1.mem.wiping = false) ∧
    (at1.flightAt (0) 16 Stage.started = some (atF 16 0)) ∧ (at1.flight? (atF 16 0).id = some (atF 16 0)) ∧ ((atF 16 0).cores ≠ []) ∧
    (∀ (l : Nat), l ∈ (atF 16 0).laces → look noDead at1.circ.dead l = none) ∧
    (at1.pool ((atF 16 0).get 48 4) (atF 16 0).id = (Except.ok (poolOf at1 (atF 16 0)), poolU at1 (atF 16 0))) ∧
    ((poolU at1 (atF 16 0)).lenTab (atF 16 0) = Except.ok (tabOf at1 (atF 16 0))) ∧
    ((poolU at1 (atF 16 0)).attnCode (atF 16 0) (poolOf at1 (atF 16 0)) (tabOf at1 (atF 16 0)) = none) ∧ (circulates (atF 16 0) = false) ∧
    (merges (atF 0x10 0) = false) ∧
    ((Instr.attnDecode 0, 17) ∈ [(Instr.attnPrefill 0, 16), (Instr.attnDecode 0, 17), (Instr.circulate 0, 18)]) ∧ (dcS.mem.wiping = false) ∧
    (dcS.flightAt (0) 17 Stage.started = some dcF) ∧ (dcS.flight? dcF.id = some dcF) ∧ (dcF.cores ≠ []) ∧
    (∀ (l : Nat), l ∈ dcF.laces → look noDead dcS.circ.dead l = none) ∧ (dcS.pool (dcF.get 48 4) dcF.id = (Except.ok (poolOf dcS dcF), dcU)) ∧
    (dcU.lenTab dcF = Except.ok (tabOf dcS dcF)) ∧ (dcU.attnCode dcF (poolOf dcS dcF) (tabOf dcS dcF) = none) ∧ (circulates dcF = false) ∧
    (merges dcF = true) ∧
    (dcU.heldUnits (poolOf dcS dcF) (tabOf dcS dcF) = Except.ok (kvOf [] (dcU.heldUnits (poolOf dcS dcF) (tabOf dcS dcF)))) ∧
    (dcU.mergeCheck dcF dcR = (none, (dcU.mergeCheck dcF dcR).snd)) ∧
    (∀ x ∈ dcS.circ.early, x.tag ≠ dcF.get 4 4) ∧
    ((Instr.circulate 0, 18) ∈ [(Instr.attnPrefill 0, 16), (Instr.attnDecode 0, 17), (Instr.circulate 0, 18)]) ∧ (ciS.mem.wiping = false) ∧
    (ciS.flightAt (0) 18 Stage.started = some ciF) ∧ (ciS.flight? ciF.id = some ciF) ∧ (ciF.cores ≠ []) ∧
    (∀ (l : Nat), l ∈ ciF.laces → look noDead ciS.circ.dead l = none) ∧
    (ciS.pool (ciF.get 48 4) ciF.id = (Except.ok (poolOf ciS ciF), poolU ciS ciF)) ∧
    ((poolU ciS ciF).lenTab ciF = Except.ok (tabOf ciS ciF)) ∧ ((poolU ciS ciF).attnCode ciF (poolOf ciS ciF) (tabOf ciS ciF) = none) ∧
    (circulates ciF = true) ∧ ((tabOf ciS ciF).head? = some ((tabOf ciS ciF).headD (⟨0, 0, 0, 0⟩ : LenEntry))) ∧
    (∀ (r : CircRun), r ∈ ciS.circ.runs → r.flight ≠ ciF.id) ∧ (2 ≤ (ciS.lace (ciS.primary ((coresIn (ciF.get 64 1)).headD 0))).members) ∧
    (merges ciF = false) := by
  and_intros <;> first
    | (with_reducible refine pairSelf ?_; decide +kernel)
    | (with_reducible refine pairOk ?_; decide +kernel)
    | (with_reducible refine okSelf ?_; decide +kernel)
    | (with_reducible refine okEq ?_; decide +kernel)
    | decide +kernel

/-- The hypotheses of KvAppendAndTrim hold, clause by clause. -/
theorem hyps_kvAppendAndTrim :
    (k1.mem.wiping = false) ∧
    (List.find? (fun f => decide (f.queue = 0) && decide (f.opcode = 19) && !(f.get 55 1).testBit 0 && f.stage != Stage.ended) k1.cmd.flights =
          some (kvF 0)) ∧
    ((kvF 0).stage = Stage.started) ∧ ((kvF 0).round = 0) ∧ (k1.flight? (kvF 0).id = some (kvF 0)) ∧
    ((k1.runCores (kvF 0)).pool ((kvF 0).get 48 4) (kvF 0).id = (Except.ok k1P, k1U)) ∧ (k1U.lenTab (kvF 0) = Except.ok (tabOf k1 (kvF 0))) ∧
    (k1U.appendCode (kvF 0) k1P (tabOf k1 (kvF 0)) = none) ∧
    (k1V.appendLens k1P (tabOf k1 (kvF 0)) = Except.ok (kvOf live (k1V.appendLens k1P (tabOf k1 (kvF 0))))) ∧
    (k1P.store.policy = 1) ∧ (0 ≠ 255) ∧
    (k3.mem.wiping = false) ∧
    (List.find? (fun f => decide (f.queue = 0) && decide (f.opcode = 19) && (f.get 55 1).testBit 0 && f.stage == Stage.started) k3.cmd.flights =
          some (kvF 1)) ∧
    (k3.flight? (kvF 1).id = some (kvF 1)) ∧
    ((k3.runCores (kvF 1)).pool ((kvF 1).get 48 4) (kvF 1).id = (Except.ok (poolOf (kvR k3 (kvF 1)) (kvF 1)), k3U)) ∧
    (k3U.lenTab (kvF 1) = Except.ok (tabOf k3 (kvF 1))) ∧
    (List.foldlM (fun x e => x.trimSeq (poolOf (kvR k3 (kvF 1)) (kvF 1)) e.seq e.kvLen) k3U (tabOf k3 (kvF 1)) = Except.ok k3V) := by
  and_intros <;> first
    | (with_reducible refine pairSelf ?_; decide +kernel)
    | (with_reducible refine pairOk ?_; decide +kernel)
    | (with_reducible refine okSelf ?_; decide +kernel)
    | (with_reducible refine okEq ?_; decide +kernel)
    | decide +kernel

/-- The hypotheses of PrefixLookup hold, clause by clause. -/
theorem hyps_prefixLookup :
    ((pxS 1 (pxM 1)).mem.wiping = false) ∧ ((pxS 1 (pxM 1)).prefixFlight (0) 1 = some (pxF 1 (pxM 1))) ∧
    (((pxS 1 (pxM 1)).onFlight (pxF 1 (pxM 1)).id fun f => { f with stage := Stage.running }).prefixPool (pxF 1 (pxM 1)) = (Except.ok (pxPool (pxS 1 (pxM 1)) (pxF 1 (pxM 1))), pxU (pxS 1 (pxM 1)) (pxF 1 (pxM 1)))) ∧
    ((pxU (pxS 1 (pxM 1)) (pxF 1 (pxM 1))).prefixInsert (pxPool (pxS 1 (pxM 1)) (pxF 1 (pxM 1))) (pxF 1 (pxM 1)) = Except.ok ((opR ((pxU (pxS 1
          (pxM 1)) (pxF 1 (pxM 1))).prefixInsert (pxPool (pxS 1 (pxM 1)) (pxF 1 (pxM 1))) (pxF 1 (pxM 1)))).fst,
          (opR ((pxU (pxS 1 (pxM 1)) (pxF 1 (pxM 1))).prefixInsert (pxPool (pxS 1 (pxM 1)) (pxF 1 (pxM 1))) (pxF 1 (pxM 1)))).snd)) ∧
    ((pxS 2 (pxM 2)).mem.wiping = false) ∧ ((pxS 2 (pxM 2)).prefixFlight (0) 2 = some (pxF 2 (pxM 2))) ∧
    (((pxS 2 (pxM 2)).onFlight (pxF 2 (pxM 2)).id fun f => { f with stage := Stage.running }).prefixPool (pxF 2 (pxM 2)) = (Except.ok (pxPool (pxS 2 (pxM 2)) (pxF 2 (pxM 2))), pxU (pxS 2 (pxM 2)) (pxF 2 (pxM 2)))) ∧
    ((pxU (pxS 2 (pxM 2)) (pxF 2 (pxM 2))).prefixFork (pxPool (pxS 2 (pxM 2)) (pxF 2 (pxM 2))) (pxF 2 (pxM 2)) = Except.ok ((opR ((pxU (pxS 2
          (pxM 2)) (pxF 2 (pxM 2))).prefixFork (pxPool (pxS 2 (pxM 2)) (pxF 2 (pxM 2))) (pxF 2 (pxM 2)))).fst,
          (opR ((pxU (pxS 2 (pxM 2)) (pxF 2 (pxM 2))).prefixFork (pxPool (pxS 2 (pxM 2)) (pxF 2 (pxM 2))) (pxF 2 (pxM 2)))).snd)) ∧
    ((pxS 3 (pxM 3)).mem.wiping = false) ∧ ((pxS 3 (pxM 3)).prefixFlight (0) 3 = some (pxF 3 (pxM 3))) ∧
    (((pxS 3 (pxM 3)).onFlight (pxF 3 (pxM 3)).id fun f => { f with stage := Stage.running }).prefixPool (pxF 3 (pxM 3)) = (Except.ok (pxPool (pxS 3 (pxM 3)) (pxF 3 (pxM 3))), pxU (pxS 3 (pxM 3)) (pxF 3 (pxM 3)))) ∧
    ((pxU (pxS 3 (pxM 3)) (pxF 3 (pxM 3))).prefixRelease (pxPool (pxS 3 (pxM 3)) (pxF 3 (pxM 3))) (pxF 3 (pxM 3)) = Except.ok ((opR ((pxU (pxS 3
          (pxM 3)) (pxF 3 (pxM 3))).prefixRelease (pxPool (pxS 3 (pxM 3)) (pxF 3 (pxM 3))) (pxF 3 (pxM 3)))).fst,
          (opR ((pxU (pxS 3 (pxM 3)) (pxF 3 (pxM 3))).prefixRelease (pxPool (pxS 3 (pxM 3)) (pxF 3 (pxM 3))) (pxF 3 (pxM 3)))).snd)) ∧
    ((pxS 4 (pxM 4)).mem.wiping = false) ∧ ((pxS 4 (pxM 4)).prefixFlight (0) 4 = some (pxF 4 (pxM 4))) ∧
    (((pxS 4 (pxM 4)).onFlight (pxF 4 (pxM 4)).id fun f => { f with stage := Stage.running }).prefixPool (pxF 4 (pxM 4)) = (Except.ok (pxPool (pxS 4 (pxM 4)) (pxF 4 (pxM 4))), pxU (pxS 4 (pxM 4)) (pxF 4 (pxM 4)))) ∧
    (pxOp 4 (pxU (pxS 4 (pxM 4)) (pxF 4 (pxM 4))) (pxPool (pxS 4 (pxM 4)) (pxF 4 (pxM 4))) (pxF 4 (pxM 4)) = Except.ok ((opR (pxOp 4 (pxU (pxS 4
          (pxM 4)) (pxF 4 (pxM 4))) (pxPool (pxS 4 (pxM 4)) (pxF 4 (pxM 4))) (pxF 4 (pxM 4)))).fst,
          (opR (pxOp 4 (pxU (pxS 4 (pxM 4)) (pxF 4 (pxM 4))) (pxPool (pxS 4 (pxM 4)) (pxF 4 (pxM 4))) (pxF 4 (pxM 4)))).snd)) ∧
    ((pxS 2 pxB).mem.wiping = false) ∧ ((pxS 2 pxB).prefixFlight (0) 2 = some (pxF 2 pxB)) ∧
    (((pxS 2 pxB).onFlight (pxF 2 pxB).id fun f => { f with stage := Stage.running }).prefixPool (pxF 2 pxB) = (Except.ok (pxPool (pxS 2 pxB) (pxF 2 pxB)), pxU (pxS 2 pxB) (pxF 2 pxB))) ∧
    ((pxU (pxS 2 pxB) (pxF 2 pxB)).prefixFork (pxPool (pxS 2 pxB) (pxF 2 pxB)) (pxF 2 pxB) = Except.error (KvErr.code eKvSeqInvalid)) ∧
    ((pxS 0 mtM).mem.wiping = false) ∧ ((pxS 0 mtM).prefixFlight (0) 0 = some (pxF 0 mtM)) ∧
    (((pxS 0 mtM).onFlight (pxF 0 mtM).id fun f => { f with stage := Stage.running }).prefixPool (pxF 0 mtM) = (Except.ok mtP, mtU)) ∧
    (mtU.emptySeq mtP ((pxF 0 mtM).get 24 4) = Except.ok mtR) ∧ (mtU.matchChain mtP (pxF 0 mtM) = Except.ok []) ∧
    (mtV = mtU.onFlight (pxF 0 mtM).id fun f => { f with round := 1, scratch := [0] ++ f.scratch }) ∧
    (mtV.flight? (pxF 0 mtM).id = some mtG) ∧ (mtG.stage = Stage.running) ∧ (mtG.round = 1) ∧ (mtG.branches = []) ∧ (mtG.scratch = [0]) ∧
    (mtV.pool (mtG.get 16 4) (pxF 0 mtM).id = (Except.ok mtQ, mtW)) ∧ (mtW.attachBlocks mtQ mtG 0 = Except.ok mtZ) ∧
    (mtG.scope = false) := by
  and_intros <;> first
    | (with_reducible refine pairSelf ?_; decide +kernel)
    | (with_reducible refine pairOk ?_; decide +kernel)
    | (with_reducible refine okSelf ?_; decide +kernel)
    | (with_reducible refine okEq ?_; decide +kernel)
    | (with_reducible refine errEq ?_; decide +kernel)
    | with_reducible rfl
    | decide +kernel

/-- The hypotheses of AlmanacAndWalk hold, clause by clause. -/
theorem hyps_almanacAndWalk :
    (alS.mem.wiping = false) ∧ (alS.flight? alF.id = some alF) ∧ (alF.halted = none) ∧
    (List.find? (fun f => decide (f.queue = 0) && decide (f.opcode = 21) && f.stage != Stage.ended) alS.cmd.flights = some alF) ∧
    (alF.stage = Stage.started) ∧ (alF.round = 0) ∧ (alF.scope = false) ∧
    ((alS.runCores alF).pool (alF.get 48 4) alF.id = (Except.ok alP, alU)) ∧ (alU.almanac alF alP = Except.ok alA) ∧
    (∀ (x : Nat × Nat), x ∈ alA.needs → alU.absent alP.store x.fst x.snd = [] ∧ alU.objPoison alP.store x.fst x.snd = none) ∧
    (alA.npages ≤ alA.p) ∧ (alU.coresOf alF.id ≠ []) ∧ (∀ (x : Nat × List Byte), x ∈ alS.coll.results → x.fst ≠ alF.id) ∧
    ((awS 4).mem.wiping = false) ∧ ((awS 4).flight? (awF 4).id = some (awF 4)) ∧ ((awF 4).halted = none) ∧
    (List.find? (fun f => decide (f.queue = 0) && decide (f.opcode = 21) && f.stage != Stage.ended) (awS 4).cmd.flights = some (awF 4)) ∧
    ((awF 4).stage = Stage.running) ∧ ((awS 4).pool ((awF 4).get 48 4) (awF 4).id = (Except.ok (awP 4), awU 4)) ∧
    ((awU 4).almanac (awF 4) (awP 4) = Except.ok (awA 4)) ∧
    (∀ (x : Nat × Nat), x ∈ (awA 4).needs → (awU 4).absent (awP 4).store x.fst x.snd = [] ∧
    (awU 4).objPoison (awP 4).store x.fst x.snd = none) ∧ ((awF 4).round = 4 ∧ (awS 4).coresOf (awF 4).id = [] ∨ (awF 4).round = 5) ∧
    ((if (awF 4).round = 4 then (awA 4).list else List.filter (fun x => (awA 4).forced (awU 4) x || (List.drop 1 (awF 4).scratch).contains
          (x.base / 256)) (awA 4).list).length ≤ (awF 4).get 76 4) ∧
    ((awU 4).checkRange ((awF 4).get 72 4) (↑((awF 4).get 80 8)) (↑((awF 4).get 80 8) + 16 * ↑(if (awF 4).round = 4 then (awA 4).list else
          List.filter (fun x => (awA 4).forced (awU 4) x || (List.drop 1 (awF 4).scratch).contains (x.base / 256)) (awA 4).list).length) true
          (some (awF 4).id) = (Except.ok ((awU 4).entry 6), (awC 4).snd)) ∧
    (((awU 4).entry 6).policy = 1) := by
  and_intros <;> first
    | (with_reducible refine pairSelf ?_; decide +kernel)
    | (with_reducible refine pairOk ?_; decide +kernel)
    | (with_reducible refine okSelf ?_; decide +kernel)
    | (with_reducible refine okEq ?_; decide +kernel)
    | decide +kernel

/-- The hypotheses of AlmanacAndWalk hold, clause by clause. -/
theorem hyps_almanacAndWalkBest :
    ((awS 5).mem.wiping = false) ∧ ((awS 5).flight? (awF 5).id = some (awF 5)) ∧ ((awF 5).halted = none) ∧
    (List.find? (fun f => decide (f.queue = 0) && decide (f.opcode = 21) && f.stage != Stage.ended) (awS 5).cmd.flights = some (awF 5)) ∧
    ((awF 5).stage = Stage.running) ∧ ((awS 5).pool ((awF 5).get 48 4) (awF 5).id = (Except.ok (awP 5), awU 5)) ∧
    ((awU 5).almanac (awF 5) (awP 5) = Except.ok (awA 5)) ∧
    (∀ (x : Nat × Nat), x ∈ (awA 5).needs → (awU 5).absent (awP 5).store x.fst x.snd = [] ∧
    (awU 5).objPoison (awP 5).store x.fst x.snd = none) ∧ ((awF 5).round = 4 ∧ (awS 5).coresOf (awF 5).id = [] ∨ (awF 5).round = 5) ∧
    ((if (awF 5).round = 4 then (awA 5).list else List.filter (fun x => (awA 5).forced (awU 5) x || (List.drop 1 (awF 5).scratch).contains
          (x.base / 256)) (awA 5).list).length ≤ (awF 5).get 76 4) ∧
    ((awU 5).checkRange ((awF 5).get 72 4) (↑((awF 5).get 80 8)) (↑((awF 5).get 80 8) + 16 * ↑(if (awF 5).round = 4 then (awA 5).list else
          List.filter (fun x => (awA 5).forced (awU 5) x || (List.drop 1 (awF 5).scratch).contains (x.base / 256)) (awA 5).list).length) true
          (some (awF 5).id) = (Except.ok ((awU 5).entry 6), (awC 5).snd)) ∧
    (((awU 5).entry 6).policy = 1) := by
  and_intros <;> first
    | (with_reducible refine pairSelf ?_; decide +kernel)
    | (with_reducible refine pairOk ?_; decide +kernel)
    | (with_reducible refine okSelf ?_; decide +kernel)
    | (with_reducible refine okEq ?_; decide +kernel)
    | decide +kernel

/-- The hypotheses of AlmanacAndWalk hold, clause by clause. -/
theorem hyps_almanacAndWalkWalk :
    (wkS.mem.wiping = false) ∧ (wkS.flight? wkF.id = some wkF) ∧ (wkF.halted = none) ∧
    (List.find? (fun f => decide (f.queue = 0) && walks f && f.stage == Stage.running) wkS.cmd.flights = some wkF) ∧
    (wkS.pool (wkF.get 48 4) wkF.id = (Except.ok (poolOf wkS wkF), wkU)) ∧ (wkU.walkTab wkF = Except.ok (tabOf wkS wkF)) ∧
    (wkU.metaNat (poolOf wkS wkF) 0 4 = Except.ok 65542) ∧ (wkF.cores = [0]) ∧
    (wkU.walkPlan (poolOf wkS wkF) wkF (tabOf wkS wkF) 0 0 1 = Except.ok wkRs) ∧
    (wkRs[walked wkF 0]? = some (wkRs.headD (⟨0, 0, []⟩ : Run))) ∧ ((wkU.walkSlots wkF 0)[walked wkF 0]? = some wkW) ∧
    ((wkU.bufferFree 0 (wkU.walkSlots wkF 0) (walked wkF 0) && wsFits wkW.keys 64 && wsFits wkW.list 1024) = true) ∧
    (waitEn wkW.fetch = true → (wkS.core 0).eng.flight ≠ none ∧
          wkS.coreCtr 0 (waitCtr wkW.fetch) + 1 < if 96 ≤ waitCtr wkW.fetch then creditLimit else eventLimit) ∧
    (waS.mem.wiping = false) ∧ (waS.flight? waF.id = some waF) ∧ (waF.halted = none) ∧
    (List.find? (fun f => decide (f.queue = 0) && walks f && f.stage == Stage.running) waS.cmd.flights = some waF) ∧
    (waS.pool (waF.get 48 4) waF.id = (Except.ok (poolOf waS waF), waU)) ∧ (waU.walkTab waF = Except.ok []) ∧
    (waU.metaNat (poolOf waS waF) 0 4 = Except.ok 65542) ∧ (waF.cores = [0]) ∧ (waU.walkPlan (poolOf waS waF) waF [] 0 0 1 = Except.ok waRs) ∧
    (waRs[walked waF 0]? = some (waRs.headD (⟨0, 0, []⟩ : Run))) ∧ ((waU.walkSlots waF 0)[walked waF 0]? = some waW) ∧
    ((waU.bufferFree 0 (waU.walkSlots waF 0) (walked waF 0) && wsFits waW.keys 64 && wsFits waW.list 1024) = true) ∧
    (waitEn waW.fetch = true → (waS.core 0).eng.flight ≠ none ∧ waS.coreCtr 0 (waitCtr waW.fetch) + 1 < if 96 ≤ waitCtr waW.fetch then creditLimit else eventLimit) := by
  and_intros <;> first
    | (with_reducible refine pairSelf ?_; decide +kernel)
    | (with_reducible refine pairOk ?_; decide +kernel)
    | (with_reducible refine okSelf ?_; decide +kernel)
    | (with_reducible refine okEq ?_; decide +kernel)
    | decide +kernel

/-- The hypotheses of CollectivesEnter hold, clause by clause. -/
theorem hyps_collectivesEnter :
    ((Instr.allreduce 0, 32) ∈ [(Instr.allreduce 0, 32), (Instr.reduceScatter 0, 33), (Instr.allgather 0, 34), (Instr.topkMerge 0, 35)]) ∧
    ((coS 32).mem.wiping = false) ∧ ((coS 32).flightAt (0) 32 Stage.started = some (coF 32)) ∧ ((coS 32).group? (coF 32).group = none) ∧
    ((Instr.reduceScatter 0, 33) ∈ [(Instr.allreduce 0, 32), (Instr.reduceScatter 0, 33), (Instr.allgather 0, 34), (Instr.topkMerge 0, 35)]) ∧
    (co2S.mem.wiping = false) ∧ (co2S.flightAt (0) 33 Stage.started = some (coF 33)) ∧ (co2S.group? (coF 33).group = some (gOf co2S 3)) ∧
    (co2S.collLevels (gOf co2S 3) ((collSpec (coF 33)).flags.testBit 2) = none) ∧
    ((Instr.allgather 0, 34) ∈ [(Instr.allreduce 0, 32), (Instr.reduceScatter 0, 33), (Instr.allgather 0, 34), (Instr.topkMerge 0, 35)]) ∧
    ((coS 34).mem.wiping = false) ∧ ((coS 34).flightAt (0) 34 Stage.started = some (coF 34)) ∧
    ((Instr.topkMerge 0, 35) ∈ [(Instr.allreduce 0, 32), (Instr.reduceScatter 0, 33), (Instr.allgather 0, 34), (Instr.topkMerge 0, 35)]) ∧
    ((coS 35).mem.wiping = false) ∧ ((coS 35).flightAt (0) 35 Stage.started = some (coF 35)) ∧
    (c4S.mem.wiping = false) ∧ (c4S.flightAt (0) 32 Stage.started = some c4F) ∧ (c4S.group? c4F.group = some c4G) ∧
    (c4S.collLevels c4G ((collSpec c4F).flags.testBit 2) = some [c4V]) ∧ (2 ≤ c4V.size) ∧
    (c4S.collCode (c4S.newColl c4F.id (collSpec c4F) c4G [c4V]) (c4F.get 40 8) (c4F.get 48 8) = none) ∧ (c4S.flight? c4F.id = some c4F) ∧
    (c4S.collFlight? c4F.id = none) ∧ (c4S.mem.poison = []) ∧
    (∀ (l : Nat), l ∈ (c4S.newColl c4F.id (collSpec c4F) c4G [c4V]).laces → c4S.earlyOf l = [] ∧ look (fun _ => none) c4S.coll.dead l = none ∧
          look (fun _ => none) c4S.coll.flit l = none) ∧
    (32 = 34 → (collSpec c4F).consumers = 0 ∧ (collSpec c4F).doneCc = 65535) := by
  and_intros <;> decide +kernel

/-- The hypotheses of VectorSearchOperators hold, clause by clause. -/
theorem hyps_vectorSearchOperators :
    (qyS.mem.wiping = false) ∧
    (List.find? (fun f => decide (f.queue = 0) && decide (f.opcode = 48) && decide (f.get 52 1 ≠ 1) && decide (f.get 52 1 ≠ 2) && f.stage !=
          Stage.ended) qyS.cmd.flights = some (vsF 0 qyM)) ∧
    (qyS.flight? (vsF 0 qyM).id = some (vsF 0 qyM)) ∧ ((vsF 0 qyM).halted = none) ∧ ((vsF 0 qyM).stage = Stage.started) ∧
    ((vsF 0 qyM).round = 0) ∧ ((qyS.runCores (vsF 0 qyM)).indexOf (vsF 0 qyM) = (Except.ok qyR, qyU)) ∧
    (queryShapeOk (vsF 0 qyM) qyR.index = true) ∧ (∀ (y : Query), y ∈ qyS.queries → y.flight ≠ (vsF 0 qyM).id) ∧
    (qyU.coresOf (vsF 0 qyM).id ≠ []) ∧ ((qyR.index.view qyR.index.active).foldSeq ≤ (QueryArgs.of (vsF 0 qyM)).snap) ∧
    ((QueryArgs.of (vsF 0 qyM)).snap ≤ qyR.index.published) ∧ ((QueryArgs.of (vsF 0 qyM)).snap ≠ 2 ^ 64 - 1) ∧
    (∀ (k : Nat), k < 1 → ∀ (p : Place), p ∈ (qyS.queryItem qyR qsQ (0 + k)).places → qyS.absent p.fst p.snd.fst p.snd.snd = [] ∧
          qyS.lostIn p.fst p.snd.fst p.snd.snd = false ∧ qyS.objPoison p.fst p.snd.fst p.snd.snd = none) ∧
    (qzS.mem.wiping = false) ∧
    (List.find? (fun f => decide (f.queue = 0) && decide (f.opcode = 48) && decide (f.get 52 1 ≠ 1) && decide (f.get 52 1 ≠ 2) && f.stage !=
          Stage.ended) qzS.cmd.flights = some qzF) ∧
    (qzS.flight? qzF.id = some qzF) ∧ (qzF.halted = none) ∧ (qzF.stage = Stage.running) ∧ (qzF.round = 6) ∧
    (qzS.query? qzF.id = some (⟨1, 5, 0, 0, 0, 0, 0, 0, false⟩ : Query)) ∧
    (qzS.entriesUe ((⟨1, 5, 0, 0, 0, 0, 0, 0, false⟩ : Query).index :: (qzS.indexAgain (⟨1, 5, 0, 0, 0, 0, 0, 0,
          false⟩ : Query)).index.handles) = none) ∧
    (qzS.objPoison (qzS.indexAgain (⟨1, 5, 0, 0, 0, 0, 0, 0, false⟩ : Query)).obj 0 indexBytes = none) ∧
    (qzS.checkRange (qzF.get 104 4) (↑(qzF.get 112 8)) (↑(qzF.get 112 8) + ↑(listStride (QueryArgs.of qzF).k) * ↑(QueryArgs.of qzF).nq) true
          (some qzF.id) = (Except.ok (qzS.entry 7), qzC.snd)) ∧
    ((qzS.entry 7).policy = 1) ∧
    ((vsS 1 puM).mem.wiping = false) ∧ ((vsS 1 puM).scanFlight (0) 1 = some (vsF 1 puM)) ∧
    ((vsS 1 puM).publishHeld ((vsF 1 puM).get 48 4) ((vsF 1 puM).get 64 4) = false) ∧
    (((vsS 1 puM).onFlight (vsF 1 puM).id fun f => { f with stage := Stage.running }).indexOf (vsF 1 puM) = (Except.ok puR, puU)) ∧
    (1 ≤ (vsF 1 puM).get 64 4) ∧ ((vsF 1 puM).get 64 4 ≤ puR.index.logCap) ∧
    (puU.objPoison puR.side puR.index.logOff ((vsF 1 puM).get 64 4 * puR.index.logPitch) = none) ∧
    (((puU.logEntries puR.index puR.side ((vsF 1 puM).get 64 4)).all fun e => decide (e.kind ≤ 1)) = true) ∧
    (puU.publishCode puR (puU.logEntries puR.index puR.side ((vsF 1 puM).get 64 4)) ((vsF 1 puM).get 72 8) = none) ∧
    (puU.applyLog (vsF 1 puM).id puR (puU.logEntries puR.index puR.side ((vsF 1 puM).get 64 4)) = ((puU.applyLog 1 puR puL).fst,
          (puU.applyLog 1 puR puL).snd)) ∧
    (phS.mem.wiping = false) ∧ (phS.scanFlight (0) 1 = some (vsF 1 puM)) ∧
    (phS.publishHeld ((vsF 1 puM).get 48 4) ((vsF 1 puM).get 64 4) = true) ∧
    ((vsS 2 swM).mem.wiping = false) ∧ ((vsS 2 swM).scanFlight (0) 2 = some (vsF 2 swM)) ∧
    (((vsS 2 swM).onFlight (vsF 2 swM).id fun f => { f with stage := Stage.running }).indexOf (vsF 2 swM) = (Except.ok (ixOf (runF (vsS 2 swM) (vsF 2 swM)) (vsF 2 swM)), ixU (runF (vsS 2 swM) (vsF 2 swM)) (vsF 2 swM))) ∧
    ((vsF 2 swM).get 64 1 = 1 - (ixOf (runF (vsS 2 swM) (vsF 2 swM)) (vsF 2 swM)).index.active) ∧
    (((ixOf (runF (vsS 2 swM) (vsF 2 swM)) (vsF 2 swM)).index.view (ixOf (runF (vsS 2 swM) (vsF 2 swM)) (vsF 2 swM)).index.active).foldSeq ≤
          (vsF 2 swM).get 72 8) ∧
    ((vsF 2 swM).get 72 8 ≤ (ixOf (runF (vsS 2 swM) (vsF 2 swM)) (vsF 2 swM)).index.published) ∧
    ((ixU (runF (vsS 2 swM) (vsF 2 swM)) (vsF 2 swM)).viewOk (ixOf (runF (vsS 2 swM) (vsF 2 swM)) (vsF 2 swM)).index ({ (ixOf (runF (vsS 2 swM) (vsF 2 swM)) (vsF 2 swM)).index.view ((vsF 2 swM).get 64 1) with sideHead := 0 }) = true) := by
  and_intros <;> first
    | (with_reducible refine pairSelf ?_; decide +kernel)
    | (with_reducible refine pairOk ?_; decide +kernel)
    | with_reducible rfl
    | decide +kernel

/-- The hypotheses of GroupBarriers hold, clause by clause. -/
theorem hyps_groupBarriers :
    ((bgS 0).linked = true) ∧ ((bgS 0).sec.softReset = false) ∧ (((bgS 0).group? (4)).bind (bgS 0).listsUe = none) ∧
    ((bgS 0).group? (4) = none) ∧
    (((bgS 0).group? (3)).bind (bgS 0).listsUe = none) ∧ ((bgS 0).group? (3) = some (gOf (bgS 0) 3)) ∧
    ((gOf (bgS 0) 3).epoch ≠ 8) ∧
    (bkS.linked = true) ∧ (bkS.sec.softReset = false) ∧ ((bkS.group? (3)).bind bkS.listsUe = none) ∧ (bkS.group? (3) = some (gOf bkS 3)) ∧
    ((gOf bkS 3).epoch = 9) ∧ (bkS.broken (gOf bkS 3).entry = true) ∧
    ((gOf (bgS 0) 3).epoch = 9) ∧ ((bgS 0).broken (gOf (bgS 0) 3).entry = false) ∧
    (0 ≤ ((bgS 0).bar (barKey (gOf (bgS 0) 3) (gOf (bgS 0) 3))).done) ∧
    (((bgS 0).bar (barKey (gOf (bgS 0) 3) (gOf (bgS 0) 3))).done + 3 ≤ 3) ∧
    (1 = ((bgS 0).bar (barKey (gOf (bgS 0) 3) (gOf (bgS 0) 3))).done + 1) ∧
    (((bgS 0).bar (barKey (gOf (bgS 0) 3) (gOf (bgS 0) 3))).tally1 + 1 ≠ (gOf (bgS 0) 3).members) ∧
    (2 = ((bgS 0).bar (barKey (gOf (bgS 0) 3) (gOf (bgS 0) 3))).done + 2) ∧
    (((bgS 0).bar (barKey (gOf (bgS 0) 3) (gOf (bgS 0) 3))).tally1 ≠ (gOf (bgS 0) 3).members) ∧
    ((bgS 1).linked = true) ∧ ((bgS 1).sec.softReset = false) ∧ ((bgS 1).group? (3) = some (gOf (bgS 1) 3)) ∧
    ((bgS 1).listsUe (gOf (bgS 1) 3) = none) ∧ (tallied ((bgS 1).chain (gOf (bgS 1) 3)) = []) ∧
    ((bgS 1).chipCtr (gOf (bgS 1) 3).ctr + 1 < if (bgS 1).isCredit (gOf (bgS 1) 3).ctr = true then 2 ^ 32 else 2 ^ 48) ∧
    (List.find? (fun f => decide (f.queue = 0) && decide (f.opcode = 65) && f.stage == Stage.running) (btS 5).cmd.flights = some btF) ∧
    ((btS 5).group? btF.group = some (gOf (btS 5) 3)) ∧ (BitVec.toNat ((btS 5).stg (pageSync + 256)) % 2 ^ 16 ≠ 0) ∧
    (List.find? (fun f => decide (f.queue = 0) && decide (f.opcode = 65) && f.stage == Stage.running) (btS 0).cmd.flights = some btF) ∧
    ((btS 0).group? btF.group = some (gOf (btS 0) 3)) ∧ (BitVec.toNat ((btS 0).stg (pageSync + 256)) % 2 ^ 16 = 0) ∧
    ((hsS 3).handSetEn = false) ∧
    ((hsS 0).handSetEn = true) ∧ (BitVec.toNat ((hsS 0).reg (pageSync + 72)) / 2 ^ 15 % 2 = 0) ∧
    (hkS.handSetEn = true) ∧ (BitVec.toNat (hkS.reg (pageSync + 72)) / 2 ^ 15 % 2 = 1) ∧
    (hwS.handSetEn = true ∧ BitVec.toNat (hwS.reg (pageSync + 72)) / 2 ^ 15 % 2 = 0) ∧
    (hwS.cmd.flights = [hwF] ∧ hwF.queue < 64 ∧ hwF.opcode = 0x43 ∧ hwF.stage = .running ∧ hwF.get 20 2 = 0 ∧ hwS.chipCtr 0 < hwF.get 24 8) := by
  and_intros <;> decide +kernel

end Units

/-! ### Containment, messages, links -/

namespace Links

def runS : State := { withCmd live { fl 1 0 4 .running 0 with cores := [0] } with cores := [(0, { Core.reset with eng := { Engines.reset with flight := some 1, queues := [(1, [(word 0 1 0 0, 0x400)])] } })] }
def discS : State := nextOf (exec (.deviceDiscard .syncParity) runS)
def gnS : State := t1At (act { onBench with cmd := runS.cmd, cores := runS.cores } (grp 2 3 3 1 7 0 0x800000 9)) 0x800000 (bytesOf 12 (5 + 0 * 2^32 + 6 * 2^64))
def gOf (s : State) (i : Nat) : Group := (s.group? i).getD ⟨0, 0, 0, 0, 0, 0, 0, 0#32⟩
def scF : Flight := fl 1 0 0x41 .running (2^24 + 3 * 2^64)
def scS : State := t1At (act (withCmd onBench scF) (grp 2 3 3 1 7 0 0x800000 9)) 0x800000 (bytesOf 12 (5 + 0 * 2^32 + 6 * 2^64))
def planS : State := onBench
def msg (a len : Nat) (aux : Nat) : Msg := ⟨0, 5, 6, 0, 77, BitVec.ofNat 64 a, len, BitVec.ofNat 32 aux⟩
def t1a : Nat := 2^42 + 0x800000
def poiS : State := { planS with mem := { planS.mem with poison := [(0x800000/32+1, true)] } }
def sgA (core : Nat) : Nat := core * 2^20 + 7 * 2^21
def fanS : State := t1At (act planS (grp 2 3 3 1 7 0 0x800000 9 ++ [(cqPage 4, 1 + 2*2 + 4*8)])) 0x800000 (bytesOf 12 (5 + 0 * 2^32 + 6 * 2^64))
def reqS (o : Owner) (l : Option Nat) : State := { planS with cmd := { planS.cmd with requests := [⟨77, o, 5, 0, 3, l⟩] } }
def fm (src dst hops : Nat) : Msg := ⟨0, BitVec.ofNat 20 src, BitVec.ofNat 20 dst, hops, 77, 0, 0, 0⟩
/-- A frame with one flit; `ok`: its check value is right. -/
def frm0 (seq fill : Nat) : Frame := { mkFrame false seq 1 [5#512] with fill := fill }
def checked (ok : Bool) (f : Frame) : Frame := { f with crc := if ok then frameCrc f else frameCrc f + 1 }
abbrev frm (seq fill : Nat) (ok : Bool) : Frame := checked ok (frm0 seq fill)
theorem frm_good (f : Frame) : frameCrc (checked true f) = (checked true f).crc := rfl
theorem frm_bad (f : Frame) : frameCrc (checked false f) ≠ (checked false f).crc := by
    have h : ∀ x : BitVec 16, x ≠ x + 1 := by intro x; bv_omega
    exact h (frameCrc f)
def repS : State := { planS with links := [(0, { Port.reset with replay := [frm 0 1 true, frm 1 1 true], txSeq := 2 })] }
def chS : State := { planS with links := [(0, { Port.reset with changed := true })] }
def trS (st : Nat) : State := { act live [(pageLink 0 + 0x100, 1 + 2 * 4)] with win := { (act live [(pageLink 0 + 0x100, 1 + 2 * 4)]).win with regs := [(pageLink 0 + 0x40, BitVec.ofNat 32 st)] }, sec := { State.reset.sec with stage := 4 } }
def rsS : State := act { trS 3 with win := { (trS 3).win with regs := [(pageLink 0 + 0x40, 3#32), (pageLink 0 + 0x44, 7#32), (pageLink 0 + 0x4C, BitVec.ofNat 32 (4 * 2^20))] } } [(pageLinks + 0x100, 1), (pageLink 0 + 0x104, 7), (pageLink 0 + 0x10C, 2^25 + 4 * 2^20)]

def drS : State := { live with cores := [(0, { Core.reset with eng := { Engines.reset with flight := some 1, fly := [(0, [⟨1, word 0x10 0 0 0, 0x400, 0, 0, none, [⟨[77], [], []⟩], [], false⟩])] } })] }
def mwF : Flight := { fl 1 4 0x14 .running 0 with origin := .fan 5 77 1, round := 2 }
def mwS : State := withCmd planS mwF
def sgF : Flight := fl 1 0 0x42 .running 0
/-- Command 1 is a SIGNAL that waits for its acknowledgement. -/
def sgS : State := { reqS (.command 1) none with cmd := { (reqS (.command 1) none).cmd with flights := [sgF], nextId := 9 } }
def flyX : InFlight := ⟨1, word 0x10 0 0 0, 0x400, 0, 0, none, [⟨[77], [], []⟩], [], false⟩
def flyY : InFlight := { flyX with open_ := [⟨[77, 78], [], []⟩] }
def pcS (x : InFlight) : State := { reqS (.piece 0 0 1) (some 20480) with cores := [(0, { Core.reset with eng := { Engines.reset with flight := some 1, fly := [(0, [x])] } })] }
def okFec : FecReport := ⟨0, [3, 4]⟩
def badFec : FecReport := ⟨1, [3]⟩
def heldS : State := planS.setPortState 0 3
def ccS : State := { planS with links := [(0, { Port.reset with since := 32 })] }
def trH (st : Nat) : State := act (trS st) [(pageLink 0 + 0x100, 1 + 2 + 2 * 4)]
def soft (s : State) : State := { s with sec := { s.sec with softReset := true } }
def discR : State := soft discS
def gnR : State := soft gnS
def planR : State := soft planS
def fanR : State := soft fanS
def planW : State := { planS with mem := { planS.mem with wiping := true } }
def fanP : State := { fanS with mem := { fanS.mem with poison := [(0x800000/32, true)] } }
def rsP : State := rsS.onPort 0 fun x => { x with peerState := some 0 }

/-- The hypotheses of DeviceDiscard hold, clause by clause. -/
theorem hyps_deviceDiscard :
    (runS.fatal = false) ∧ (runS.disc.busy = false) ∧
    ((runS.core 0).eng.drained = true) ∧
    (runS.mem.wiping = false) ∧
    (drS.fatal = false) ∧ (drS.disc.busy = false) ∧ ((drS.core 0).eng.drained = false) ∧
    (DiscardCause.coreParity 0 = DiscardCause.coreParity 0 ∧ eCore 0 7 = eCore (0) 7 ∨ DiscardCause.coreParity 0 = DiscardCause.sfuParity 0 ∧
          eCore 0 7 = eSfu (0) 5) ∧
    (discS.disc.busy = true) ∧ (discS.discardDrained = true) ∧ (discS.fatal = false) ∧
    (discR.disc.busy = true) ∧ (discR.discardDrained = true) ∧ (discR.fatal = false) ∧
    (discR.sec.softReset = true ∧ discR.sec.softWiped = false) ∧
    (live.disc.busy = false ∨ live.discardDrained = false ∨ live.fatal = true) := by
  and_intros <;> decide +kernel

/-- The hypotheses of NoticesAndFatal hold, clause by clause. -/
theorem hyps_noticesAndFatal :
    (gnS.linked = true) ∧ (gnS.sec.softReset = false) ∧ (gnS.disc.busy = false) ∧ (gnS.group? (3) = some (gOf gnS 3)) ∧
    (gnS.group? (4) = none) ∧
    (gnR.linked = true) ∧ (gnR.sec.softReset = true) ∧
    (live.linked = false) ∧
    (scS.linked = true) ∧ (scS.sec.softReset = false) ∧
    (∀ (f : Flight), f ∈ scS.cmd.flights → f.scope = true → ∀ (g : Group), scS.group? f.group = some g → scS.listsUe g = none) ∧
    (∀ (f : Flight), f ∈ scS.cmd.flights → f.scope = true → ∀ (g : Group), scS.group? f.group = some g → ∀ (h : Group),
          h ∈ scS.chain g → ∀ (i : Nat), i < h.members → scS.member h i ≠ 9) ∧
    (scF ∈ scS.cmd.flights) ∧ (scF.scope = true) ∧ (scS.group? scF.group = some (gOf scS 3)) ∧ (gOf scS 3 ∈ scS.chain (gOf scS 3)) ∧
    (2 < (gOf scS 3).members) ∧ (scS.member (gOf scS 3) 2 = 6) ∧
    (planS.fatal = false) ∧
    (planS.portState 0 = 2) ∧
    ((Instr.msgRead (msg t1a 40 0)).wf = true) ∧
    ((Instr.frameReceive 0 (mkFrame false 0 1 []) ⟨3, []⟩).wf = false) := by
  and_intros <;> first
    | (simp only [← Option.mem_def]; decide +kernel)
    | decide +kernel

/-- The hypotheses of RemoteAccesses hold, clause by clause. -/
theorem hyps_remoteAccesses :
    (Instr.msgWrite (msg t1a 3 0) [1#8, 2#8, 3#8] = Instr.msgWrite (msg t1a 3 0) [1#8, 2#8, 3#8] ∧
    (msg t1a 3 0).len ≤ 4096 ∨ Instr.msgWrite (msg t1a 3 0) [1#8, 2#8, 3#8] = Instr.msgAwl (msg t1a 3 0) [1#8, 2#8, 3#8] ∧
    (msg t1a 3 0).len ≤ 256) ∧ ([1#8, 2#8, 3#8].length = (msg t1a 3 0).len) ∧ (planR.forMe (msg t1a 3 0) = true) ∧
    (planR.sec.softReset = true) ∧
    (planW.forMe (msg t1a 3 0) = true) ∧ (planW.sec.softReset = false) ∧ (planW.mem.wiping = true) ∧
    ((Dev.of (BitVec.toNat (msg t1a 3 0).addr)).tier = 1) ∧
    (planS.forMe (msg t1a 3 0) = true) ∧ (planS.sec.softReset = false) ∧ (planS.mem.wiping = false) ∧
    (planS.remoteCode (Dev.of (BitVec.toNat (msg t1a 3 0).addr)) [1#8, 2#8, 3#8].length true = none) ∧
    (Instr.msgAwl (msg 8388608 3 0) [1#8, 2#8, 3#8] = Instr.msgWrite (msg 8388608 3 0) [1#8, 2#8, 3#8] ∧
    (msg 8388608 3 0).len ≤ 4096 ∨ Instr.msgAwl (msg 8388608 3 0) [1#8, 2#8, 3#8] = Instr.msgAwl (msg 8388608 3 0) [1#8, 2#8, 3#8] ∧
    (msg 8388608 3 0).len ≤ 256) ∧ ([1#8, 2#8, 3#8].length = (msg 8388608 3 0).len) ∧ (planS.forMe (msg 8388608 3 0) = true) ∧
    (planS.remoteCode (Dev.of (BitVec.toNat (msg 8388608 3 0).addr)) [1#8, 2#8, 3#8].length true = none) ∧
    ((Dev.of (BitVec.toNat (msg 8388608 3 0).addr)).tier = 0) ∧
    (Instr.msgAwl (msg (2 ^ 42 + 2 ^ 43) 3 0) [1#8, 2#8, 3#8] = Instr.msgWrite (msg (2 ^ 42 + 2 ^ 43) 3 0) [1#8, 2#8, 3#8] ∧
    (msg (2 ^ 42 + 2 ^ 43) 3 0).len ≤ 4096 ∨ Instr.msgAwl (msg (2 ^ 42 + 2 ^ 43) 3 0) [1#8, 2#8,
          3#8] = Instr.msgAwl (msg (2 ^ 42 + 2 ^ 43) 3 0) [1#8, 2#8, 3#8] ∧
    (msg (2 ^ 42 + 2 ^ 43) 3 0).len ≤ 256) ∧ ([1#8, 2#8, 3#8].length = (msg (2 ^ 42 + 2 ^ 43) 3 0).len) ∧
    (planS.forMe (msg (2 ^ 42 + 2 ^ 43) 3 0) = true) ∧
    (planS.remoteCode (Dev.of (BitVec.toNat (msg (2 ^ 42 + 2 ^ 43) 3 0).addr)) [1#8, 2#8, 3#8].length true = some eAddrTier) ∧
    ((msg t1a 40 0).len ≤ 4096) ∧ (planR.forMe (msg t1a 40 0) = true) ∧
    (planW.forMe (msg t1a 40 0) = true) ∧ ((Dev.of (BitVec.toNat (msg t1a 40 0).addr)).tier = 1) ∧
    ((msg (2 ^ 43 - 20) 40 0).len ≤ 4096) ∧ (planS.forMe (msg (2 ^ 43 - 20) 40 0) = true) ∧
    ((Dev.of (BitVec.toNat (msg (2 ^ 43 - 20) 40 0).addr)).tier = 1) ∧
    (planS.remoteCode (Dev.of (BitVec.toNat (msg (2 ^ 43 - 20) 40 0).addr)) (msg (2 ^ 43 - 20) 40 0).len false = some eAddrRange) ∧
    (planS.forMe (msg t1a 40 0) = true) ∧ (planS.remoteCode (Dev.of (BitVec.toNat (msg t1a 40 0).addr)) (msg t1a 40 0).len false = none) ∧
    (planS.poisonIn (Dev.of (BitVec.toNat (msg t1a 40 0).addr)).off (msg t1a 40 0).len = none) ∧
    (poiS.forMe (msg t1a 40 0) = true) ∧ (poiS.sec.softReset = false) ∧ (poiS.mem.wiping = false) ∧
    (poiS.remoteCode (Dev.of (BitVec.toNat (msg t1a 40 0).addr)) (msg t1a 40 0).len false = none) ∧
    (poiS.poisonIn (Dev.of (BitVec.toNat (msg t1a 40 0).addr)).off (msg t1a 40 0).len = some (8388608 / 32 + 1)) ∧
    ((Dev.of (BitVec.toNat (msg t1a 40 0).addr)).off + (msg t1a 40 0).len ≤ planS.ptBase ∨ planS.ptBase + 4194304 ≤ (Dev.of (BitVec.toNat (msg
          t1a 40 0).addr)).off) ∧
    (planR.forMe (msg (sgA 0) 0 3) = true) ∧
    (planS.forMe (msg (sgA 0) 0 3) = true) ∧ (BitVec.toNat (msg (sgA 0) 0 3).addr / 2 ^ 20 % 2 = 0) ∧
    (0 ≤ signalAmount (BitVec.toNat (msg (sgA 0) 0 3).addr) (BitVec.toNat (msg (sgA 0) 0 3).aux)) ∧
    (planS.chipCtr (BitVec.toNat (msg (sgA 0) 0 3).addr / 2 ^ 21 % 2 ^ 12) + (signalAmount (BitVec.toNat (msg (sgA 0) 0 3).addr) (BitVec.toNat
          (msg (sgA 0) 0 3).aux)).toNat < if planS.isCredit (BitVec.toNat (msg (sgA 0) 0 3).addr / 2 ^ 21 % 2 ^ 12) = true then 2 ^ 32 else 2 ^
          48) ∧
    (planS.forMe (msg (sgA 1) 0 3) = true) ∧ (BitVec.toNat (msg (sgA 1) 0 3).addr / 2 ^ 20 % 2 = 1) ∧
    (0 ≤ signalAmount (BitVec.toNat (msg (sgA 1) 0 3).addr) (BitVec.toNat (msg (sgA 1) 0 3).aux)) ∧
    ((planS.core (sigCore (BitVec.toNat (msg (sgA 1) 0 3).addr / 2 ^ 21 % 2 ^ 12))).eng.flight = none) := by
  and_intros <;> decide +kernel

/-- The hypotheses of FanoutJoinsQueue hold, clause by clause. -/
theorem hyps_fanoutJoinsQueue :
    ([1#8, 2#8, 3#8].length = (msg 0 3 4).len) ∧ ((msg 0 3 4).len ≤ 256) ∧ (fanR.forMe (msg 0 3 4) = true) ∧ (fanR.sec.softReset = true) ∧
    (fanS.forMe (msg 0 3 4) = true) ∧ (fanS.sec.softReset = false) ∧ ([1#8, 2#8, 3#8].length ≠ 12 ∧ [1#8, 2#8, 3#8].length ≠ 10) ∧
    ((fanS.group? (⟨3, 9, 1⟩ : FanHdr).group.toNat).bind fanS.listsUe = none) ∧
    (fanS.fanCode (⟨3, 9, 1⟩ : FanHdr) (BitVec.toNat (msg 0 3 4).aux % 64) = none) ∧
    ((fanS.group? (⟨3, 8, 1⟩ : FanHdr).group.toNat).bind fanS.listsUe = none) ∧
    (fanS.fanCode (⟨3, 8, 1⟩ : FanHdr) (BitVec.toNat (msg 0 3 4).aux % 64) = some eGroupEpoch) ∧
    (fanP.forMe (msg 0 3 4) = true) ∧ (fanP.sec.softReset = false) ∧
    ((fanP.group? (⟨3, 9, 1⟩ : FanHdr).group.toNat).bind fanP.listsUe = some (8388608 / 32)) ∧
    ((bytesOf 12 (77 * 2 ^ 32)).length = (msg 0 12 4).len) ∧ ((msg 0 12 4).len ≤ 256) ∧ (mwS.forMe (msg 0 12 4) = true) ∧
    (mwS.sec.softReset = false) ∧ ((bytesOf 12 (77 * 2 ^ 32)).length = 12) ∧
    (mwS.matchWaits (msg 0 12 4) (field (bytesOf 12 (77 * 2 ^ 32)) 4 4) = some mwF) ∧
    ((bytesOf 12 (78 * 2 ^ 32)).length = (msg 0 12 4).len) ∧ ((bytesOf 12 (78 * 2 ^ 32)).length = 12) ∧
    (mwS.matchWaits (msg 0 12 4) (field (bytesOf 12 (78 * 2 ^ 32)) 4 4) = none) ∧
    ((bytesOf 10 (77 * 2 ^ 32 + 4193 * 2 ^ 64)).length = (msg 0 10 4).len) ∧ ((msg 0 10 4).len ≤ 256) ∧ (fanS.forMe (msg 0 10 4) = true) ∧
    ((bytesOf 10 (77 * 2 ^ 32 + 4193 * 2 ^ 64)).length = 10) ∧
    (∀ x ∈ fanS.cmd.flights, x.named ((msg 0 10 4).aux.toNat % 64) 77 = false) ∧
    (fanS.group? (⟨4, 8, 1⟩ : FanHdr).group.toNat = none) := by
  and_intros <;> decide +kernel

/-- The hypotheses of ResponsesEndRequests hold, clause by clause. -/
theorem hyps_responsesEndRequests :
    (planS.forMe (msg 0 3 4101) = true) ∧ ([1#8, 2#8, 3#8].length = (msg 0 3 4101).len) ∧ ((msg 0 3 4101).len ≤ 4096) ∧
    (planS.answered (msg 0 3 4101) = none) ∧
    (planS.request? (BitVec.toNat (msg 0 3 4101).tag) = none) ∧
    ((reqS (Owner.signal 0 1) none).forMe (msg 0 3 4101) = true) ∧
    ((reqS (Owner.signal 0 1) none).request? (BitVec.toNat (msg 0 3 4101).tag) = some (⟨77, Owner.signal 0 1, 5, 0, 3, none⟩ : Request)) ∧
    ((reqS (Owner.signal 0 1) none).answered (msg 0 3 4101) = some (⟨77, Owner.signal 0 1, 5, 0, 3, none⟩ : Request)) ∧
    ((⟨77, Owner.signal 0 1, 5, 0, 3, none⟩ : Request).land = none) ∧
    ((⟨77, Owner.signal 0 1, 5, 0, 3, none⟩ : Request).owner = Owner.signal 0 1 ∨ (⟨77, Owner.signal 0 1, 5, 0, 3,
          none⟩ : Request).owner = Owner.piece 0 0 1) ∧
    ((reqS (Owner.piece 0 0 1) none).forMe (msg 0 3 4101) = true) ∧
    ((reqS (Owner.piece 0 0 1) none).answered (msg 0 3 4101) = some (⟨77, Owner.piece 0 0 1, 5, 0, 3, none⟩ : Request)) ∧
    ((⟨77, Owner.piece 0 0 1, 5, 0, 3, none⟩ : Request).land = none) ∧
    ((⟨77, Owner.piece 0 0 1, 5, 0, 3, none⟩ : Request).owner = Owner.signal 0 1 ∨ (⟨77, Owner.piece 0 0 1, 5, 0, 3,
          none⟩ : Request).owner = Owner.piece 0 0 1) ∧
    (sgS.forMe (msg 0 3 4101) = true) ∧ (sgS.answered (msg 0 3 4101) = some (⟨77, Owner.command 1, 5, 0, 3, none⟩ : Request)) ∧
    ((⟨77, Owner.command 1, 5, 0, 3, none⟩ : Request).land = none) ∧
    ((⟨77, Owner.command 1, 5, 0, 3, none⟩ : Request).owner = Owner.command 1) ∧ (sgS.flight? 1 = some sgF) ∧ (sgF.opcode = 66) ∧
    (sgF.stage = Stage.running) ∧ (sgF.branches = []) ∧
    ((pcS flyX).forMe (msg 0 3 4101) = true) ∧
    ((pcS flyX).answered (msg 0 3 4101) = some (⟨77, Owner.piece 0 0 1, 5, 0, 3, some 20480⟩ : Request)) ∧
    ((⟨77, Owner.piece 0 0 1, 5, 0, 3, some 20480⟩ : Request).owner = Owner.piece 0 0 1) ∧
    ((⟨77, Owner.piece 0 0 1, 5, 0, 3, some 20480⟩ : Request).land = some 20480) ∧
    ((⟨77, Owner.piece 0 0 1, 5, 0, 3, some 20480⟩ : Request).len = [1#8, 2#8, 3#8].length) ∧
    ((((pcS flyX).core 0).eng.flyOf 0 = [flyX]) ∧ (flyX.iid = 1) ∧ (flyX.open_ = [⟨[77], [], []⟩])) ∧
    ((pcS flyY).answered (msg 0 3 4101) = some (⟨77, Owner.piece 0 0 1, 5, 0, 3, some 20480⟩ : Request)) ∧
    (∀ x ∈ ((pcS flyY).core 0).eng.flyOf 0, ∀ y ∈ x.open_, 77 ∈ y.tags → ∃ k ∈ y.tags, k ≠ 77) := by
  and_intros <;> decide +kernel

/-- The hypotheses of MessageForwards hold, clause by clause. -/
theorem hyps_messageForwards :
    (planS.heard ↑(fm 9 5 3).port = true) ∧ ((fm 9 5 3).dst.toNat ≠ planS.chipId) ∧ ((fm 9 5 3).hops < 63) ∧
    (planS.route (fm 9 5 3).src.toNat (fm 9 5 3).dst.toNat = some 0) ∧
    (planS.heard ↑(fm 5 9 3).port = true) ∧ ((fm 5 9 3).dst.toNat ≠ planS.chipId) ∧ ((fm 5 9 3).hops < 63) ∧
    (planS.route (fm 5 9 3).src.toNat (fm 5 9 3).dst.toNat = none) ∧
    (planS.heard ↑(fm 9 5 63).port = true) ∧ ((fm 9 5 63).dst.toNat ≠ planS.chipId) ∧ (63 ≤ (fm 9 5 63).hops) := by
  and_intros <;> decide +kernel

/-- The hypotheses of FrameReceiveChecks hold, clause by clause. -/
theorem hyps_frameReceiveChecks :
    (fecOk okFec = true) ∧ (live.trained 0 = false ∨ live.fatal = true) ∧
    (planS.fatal = false) ∧ (planS.trained 0 = true) ∧
    (heldS.fatal = false) ∧ (heldS.portState 0 = 3) ∧
    (planS.portState 0 = 2) ∧ (okFec.bad = 0) ∧ (frameCrc (frm 0 1 true) = (frm 0 1 true).crc) ∧ ((frm 0 1 true).ctrl = false) ∧
    ((frm 0 1 true).fill ≠ 0) ∧ (BitVec.toNat (frm 0 1 true).seq = (planS.port 0).rxSeq) ∧
    (frameCrc (frm 0 1 false) ≠ (frm 0 1 false).crc) ∧
    (fecOk badFec = true) ∧ (badFec.bad ≠ 0) ∧
    (frameCrc (frm 7 1 true) = (frm 7 1 true).crc) ∧ ((frm 7 1 true).ctrl = false) ∧ ((frm 7 1 true).fill ≠ 0) ∧
    (BitVec.toNat (frm 7 1 true).seq ≠ (planS.port 0).rxSeq) := by
  and_intros <;> first
    | exact frm_good _
    | exact frm_bad _
    | decide +kernel

/-- The hypotheses of PortRecords hold, clause by clause. -/
theorem hyps_portRecords :
    (repS.fatal = false) ∧ (repS.trained 0 = true) ∧ (splitAfter (0#8).toNat (repS.port 0).replay = some ([frm 0 1 true], [frm 1 1 true])) ∧
    (∀ m ∈ (repS.port 0).msgs, m.vc ≠ 2) ∧
    (repS.portState 0 = 2) ∧ ((repS.port 0).replay = [frm 0 1 true, frm 1 1 true]) ∧ ((frm 0 1 true).seq = 0#8) ∧
    (splitAfter (((0#8).toNat + 255) % 256) (repS.port 0).replay = none) ∧
    (∀ (g : Frame), g ∈ (repS.port 0).replay → look noCount (repS.port 0).tries (BitVec.toNat g.seq) < repS.retryLimit 0) ∧
    (∀ g ∈ [frm 1 1 true], g.seq ≠ 0#8) ∧
    (planS.fatal = false) ∧ (planS.trained 0 = true) ∧ (look noCount (planS.port 0).granted 1 < 2000) ∧
    (3 ≤ look noCount (planS.port 0).granted 1) ∧
    ((planS.port 0).changed = false) ∧ ((planS.port 0).since < 32) ∧
    (chS.trained 0 = true) ∧ (chS.fatal = false) ∧ ((chS.port 0).changed = true ∨ 32 ≤ (chS.port 0).since) ∧
    (ccS.trained 0 = true) ∧ (ccS.fatal = false) ∧ ((ccS.port 0).changed = true ∨ 32 ≤ (ccS.port 0).since) := by
  and_intros <;> first
    | with_reducible rfl
    | rfl
    | decide +kernel

/-- The hypotheses of LinkTraining hold, clause by clause. -/
theorem hyps_linkTraining :
    (live.fatal = false) ∧ (live.trained 0 = false) ∧
    (planS.fatal = false) ∧ (planS.trained 0 = true) ∧ (0 < 16) ∧ ((planS.port 0).msgs = []) ∧ (planS.lacesOn 0 = []) ∧
    (planS.disc.busy = false) ∧
    ((trS 1).fatal = false) ∧ ((trS 1).portState 0 = 1) ∧
    ((trS 0).fatal = false) ∧ ((trS 0).portState 0 = 0) ∧ ((trS 0).portEn 0 = true) ∧ ((trS 0).sec.stage = 4) ∧
    (min (⟨78187493520#64, 3, 4, 0⟩ : Identity).ver.toNat ((trS 1).portVerMax 0) = 0) ∧
    (Width.lower ≠ Width.full) ∧ ((trS 1).portHalfOk 0 = false) ∧
    (1 ≤ min (⟨78187493520#64, 3, 4, 2⟩ : Identity).ver.toNat ((trS 1).portVerMax 0)) ∧
    (Width.full = Width.full ∨ (trS 1).portHalfOk 0 = true) ∧
    (0 < 16 ∨ min (⟨78187493520#64, 3, 4, 2⟩ : Identity).ver.toNat ((trS 1).portVerMax 0) ≠ 1) ∧
    ((trH 1).portState 0 = 1) ∧ ((trH 1).fatal = false) ∧ (1 ≤ min (⟨78187493520#64, 3, 4, 2⟩ : Identity).ver.toNat ((trH 1).portVerMax 0)) ∧
    (Width.lower = Width.full ∨ (trH 1).portHalfOk 0 = true) ∧
    (0 < 16 ∨ min (⟨78187493520#64, 3, 4, 2⟩ : Identity).ver.toNat ((trH 1).portVerMax 0) ≠ 1) ∧
    ((trS 2).fatal = false) ∧ ((trS 2).portEn 0 = true) ∧ ((trS 2).portState 0 ≠ 4) ∧
    ((trS 4).fatal = false) ∧ ((trS 4).portEn 0 = false ∨ (trS 4).portState 0 = 4) ∧
    ((trS 2).portState 0 ≠ 3) ∧
    (rsS.fatal = false) ∧ (rsS.portState 0 = 3) ∧ (rsS.planCheck.planned = true) ∧
    (BitVec.toNat (rsS.planCheck.reg (pageLink 0 + 80)) % 8 = 0) ∧
    ((rsP.port 0).peerState = some 0 ∧ rsP.portState 0 = 3 ∧ rsP.planCheck.planned = true ∧
    (rsP.planCheck.reg (pageLink 0 + 0x50)).toNat % 8 = 0) := by
  and_intros <;> decide +kernel

end Links

/-! ### Circulation, merge, collectives on the wire -/

namespace Wire

def lane0 (slots : List Landing) (cr : Nat) : CircLane := { tx := 1, rx := 1, unacked := [0], credits := cr, slots := slots }
def crun (slots : List Landing) (cr : Nat) : CircRun :=
  { flight := 1, tag := 9, laces := [0], size := 3, pos := 0, pool := 0x10005, seq := 0, klen := 2, layer := 0, stripe := 1, pages := 1,
    passes := 1, rowBytes := 128, pitch := 128, blocks := 2, lanes := [(0, lane0 slots cr)] }
def ciF : Flight := { fl 1 0 0x12 .running 0 with cores := [0] }
def laceW : List (Nat × Nat) := [(pageCirc + 0x100, 3 + 2^20), (pageCirc + 0x104, 0), (pageCirc + 0x110, 0x1000 + 1 * 2^20), (pageCirc + 0x118, 600 + 5 * 2^16), (pageCirc + 0x1C0, 100)]
def circS (slots : List Landing) (cr : Nat) : State :=
  { act (withCmd onBench ciF) laceW with circ := { Circ.reset with runs := [crun slots cr] }, cores := [(0, { Core.reset with eng := { Engines.reset with flight := some 1 } })] }
def hd (n : Nat) : CircHdr := ⟨9, BitVec.ofNat 32 n, 1, 1, 0, 0, 1, 0, 192, 0, 0⟩
def pay : List Byte := bytesOf 192 (5 * 2^512)
def land (n : Nat) (l : Bool) : Landing := ⟨n, hd n, pay, l, 0, none, false⟩
def crunF : CircRun := { crun [land 0 true] 3 with size := 4, blocks := 1 }
def circF : State := { circS [] 3 with circ := { Circ.reset with runs := [crunF] } }
def cdW (l d slot : Nat) := word 0x35 3 0 (l + d * 8 + slot * 16)
def cdS (w : BitVec 128) : State := { circS [land 0 true] 3 with cores := [(0, { Core.reset with eng := { Engines.reset with flight := some 1, phase := 3, queues := [(3, [(w, 0x400)])] } })] }
def mrun (size pos ph : Nat) (inv pre : Bool) : MergeRun :=
  { flight := 1, tag := 9, group := 3, lace := 0, size := size, pos := pos, obj := 5, nq := 2, dv := 64, units := 2, held := [0], invariant := inv, prefill := pre, pass := 0,
    passes := 1, phase := ph, node := [], lo := 0, hi := 2, recv := [], ends := [] }
def meF : Flight := { fl 1 0 0x11 .running (0x10006 * 2^704 + 1 * 2^680 + 7 * 2^656 + 3 * 2^672) with cores := [0] }
def meS (m : MergeRun) : State :=
  { resident (resident (withCmd onBench meF) 5 0x200000 0x1000000) 6 0x200000 0x2000000 with circ := { Circ.reset with merges := [m] }, sync := { Sync.reset with ctr := [(7, 1)] } }
def rowsB : List Byte := bytesOf 640 7
def cspec : CollSpec := { op := 0x20, type := 2, red := 0, air := false, mode := 0, headroom := 15, count := 8, chunk := 2, k := 0, srcT1 := false, src := 0, dstT1 := false, dst := 0, outFmt := 0, root := 0, bcast := false, flags := 0, doneCtr := 0, consumers := 0, doneCc := 0xFFFF, group := 3, inl := none }
def csend : CollSend := ⟨0, 1, 0, 0, [1#8, 2#8]⟩
def cor (st owed : Nat) : CollRun := { flight := 1, spec := cspec, levels := [⟨[0], 3⟩], shards := [], batch := 0, sig := 0x55, seqs := [], held := [], exps := [], passed := [], sends := [csend], written := [], signals := 0, writes := 0, owed := [(0, owed)], outs := [], state := st, detect := none }
def coF : Flight := fl 1 0 0x20 .running 0
def coS (st owed : Nat) : State := { act (withCmd onBench coF) (laceW ++ [(pageCirc + 0x104, 1), (pageColl + 0x100, 50)]) with coll := { Coll.reset with runs := [cor st owed], credits := [(0, 2)] } }
def ch (ep : Nat) : ChunkHdr := ⟨0x55, 0, 0, 1, 0, 1, 2, BitVec.ofNat 32 ep⟩
def chB (ep : Nat) : List Byte := State.offerChunk.chunkBytes (ch ep)
def w15S : State := { act onBench [(pageColl + 0x100, 50)] with coll := { Coll.reset with flit := [(0, some ⟨3, none, false⟩)] } }
def circN (more : Circ) : State := { circS [] 3 with circ := more }
def toS : State := act (circN Circ.reset) [(pageCirc + 448, 0)]
def cnS (n b : Nat) : State := { coS 0 4 with coll := { Coll.reset with copies := [(0, n)], bufs := [(0, b)] } }
def level0 (n : Nat) : MergeIn := ⟨9, some (.level 0), n, 0, 0, rowsB⟩
def meC (m : MergeRun) : State := { meS m with cores := [(0, { Core.reset with eng := { Engines.reset with flight := some 1 } })] }
def mrun2 : MergeRun := { mrun 2 0 200 false false with passes := 2 }
/-- The first granule of the merge's OUT is lost. -/
def meL : State := (meC (mrun 2 0 200 false false)).onCache 6 fun c => { c with lost := [(0, true)] }
/-- A discard is under way that has aborted lace 0. -/
def circB : State := { circS [] 3 with disc := { Discard.reset with busy := true, circLaces := [0] } }
def colB : State := { coS 0 4 with disc := { Discard.reset with busy := true, collLaces := [0] } }
def w15C : State := { act onBench [(pageColl + 0x100, 50)] with coll := { Coll.reset with flit := [(0, some ⟨3, none, true⟩)] } }

/-- The hypotheses of Circulation hold, clause by clause. -/
theorem hyps_circulation :
    (BitVec.toNat (hd 1).payload = pay.length) ∧ (circB.disc.busy = true) ∧ (0 ∈ circB.disc.circLaces) ∧
    ((circN Circ.reset).disc.busy = false) ∧ ((circN Circ.reset).fatal = false) ∧ ((circN Circ.reset).mem.wiping = false) ∧
    ((circN Circ.reset).heard ((circN Circ.reset).laceIn (0) Dir.next) = true) ∧ ((circN Circ.reset).circRun? 0 = none) ∧
    ((circN Circ.reset).hearsControl ((circN Circ.reset).laceOut (0) Dir.next) = true) ∧
    ((circN ({ Circ.reset with copies := [(0, 2)] })).disc.busy = false) ∧ ((circN ({ Circ.reset with copies := [(0, 2)] })).fatal = false) ∧
    ((circN ({ Circ.reset with copies := [(0, 2)] })).mem.wiping = false) ∧
    ((circN ({ Circ.reset with copies := [(0, 2)] })).hearsControl ((circN ({ Circ.reset with copies := [(0, 2)] })).laceOut (0) Dir.next) = true ∨ (circN ({ Circ.reset with copies := [(0, 2)] })).hearsControl ((circN ({ Circ.reset with copies := [(0, 2)] })).laceOut (0) Dir.prev) = true) ∧
    (look noCount (circN ({ Circ.reset with copies := [(0, 2)] })).circ.copies 0 ≠ 0) ∧
    ((circN Circ.reset).hearsControl ((circN Circ.reset).laceOut (0) Dir.next) = true ∨ (circN Circ.reset).hearsControl ((circN
          Circ.reset).laceOut (0) Dir.prev) = true) ∧
    (look noCount (circN Circ.reset).circ.copies 0 = 0) ∧ (∀ (f : Flight), f ∈ (circN Circ.reset).cmd.flights → ¬0 ∈ f.laces) ∧
    (toS.disc.busy = false) ∧ (toS.fatal = false) ∧ (toS.mem.wiping = false) ∧ (BitVec.toNat (toS.stg (pageCirc + 448)) % 2 ^ 16 = 0) ∧
    ((circS [] 3).disc.busy = false) ∧ ((circS [] 3).fatal = false) ∧ ((circS [] 3).mem.wiping = false) ∧
    ((circS [] 3).circRun? 0 = some (crun [] 3)) ∧ (BitVec.toNat (hd 5).payload = pay.length) ∧
    ((circS [] 3).heard ((circS [] 3).laceIn (0) Dir.next) = true) ∧
    ((circS [] 3).blockCode (crun [] 3) (0) Dir.next (hd 5) = some eCircSeq) ∧
    ((circS [] 3).blockCode (crun [] 3) (0) Dir.next (hd 1) = none) ∧
    (crc32c (circHdrBytes (hd 1) ++ pay) ≠ crc32c (circHdrBytes (hd 1) ++ pay) + 1) ∧
    ((circS [land 0 false] 3).disc.busy = false) ∧ ((circS [land 0 false] 3).fatal = false) ∧ ((circS [land 0 false] 3).mem.wiping = false) ∧
    ((circS [land 0 false] 3).circRun? 0 = some (crun [land 0 false] 3)) ∧
    (List.find? (fun z => !z.landed) ((crun [land 0 false] 3).lane (0) Dir.next.idx).slots = some (land 0 false)) ∧
    (((circS [land 0 false] 3).lace 0).consumers Dir.next = 2 ^ 0) ∧ (((circS [land 0 false] 3).lace 0).landCtr Dir.next < 96) ∧
    (((circS [land 0 false] 3).core 0).eng.flight ≠ none) ∧
    ((circS [land 0 false] 3).coreCtr (0) (((circS [land 0 false] 3).lace 0).landCtr Dir.next) + 1 < 2 ^ 48) ∧
    (2 ≤ ((circS [land 0 false] 3).lace 0).members) ∧
    (circF.disc.busy = false) ∧ (circF.fatal = false) ∧ (circF.mem.wiping = false) ∧ (circF.circRun? 0 = some crunF) ∧
    ((crunF.lane (0) Dir.next.idx).credits ≠ 0) ∧ (crunF.nextSend (0) Dir.next.idx = some (CircSend.forward (land 0 true))) ∧
    (((crun [] 3).lane (0) Dir.next.idx).credits ≠ 0) ∧ ((crun [] 3).nextSend (0) Dir.next.idx = some (CircSend.own 1)) ∧
    ((circS [] 3).flight? (crun [] 3).flight = some ciF) ∧ (ciF.halted = none) ∧
    ((circS [] 0).disc.busy = false) ∧ ((circS [] 0).fatal = false) ∧ ((circS [] 0).mem.wiping = false) ∧
    ((circS [] 0).circRun? 0 = some (crun [] 0)) ∧
    (((crun [] 0).lane (0) Dir.next.idx).credits = 0 ∨ (crun [] 0).nextSend (0) Dir.next.idx = none) ∧
    ((circS [] 3).hearsControl ((circS [] 3).laceOut (0) Dir.next) = true) ∧
    (9 = (crun [] 3).tag) ∧
    ((circS [] 3).hearsControl ((circS [] 3).laceOut (0) Dir.next) = true ∨ (circS [] 3).hearsControl ((circS [] 3).laceOut (0) Dir.prev) = true) ∧
    (look noCount (circS [] 3).circ.copies 0 = 0) ∧
    (((crun [] 3).lane (0) Dir.next.idx).rx < (crun [] 3).total (0) Dir.next.idx ∨ ((crun [] 3).lane (0) Dir.next.idx).credits = 0 ∧
    (crun [] 3).nextSend (0) Dir.next.idx ≠ none) ∧ (BitVec.toNat ((circS [] 3).stg (pageCirc + 448)) % 2 ^ 16 ≠ 0) ∧
    ((cdS (cdW 0 1 0)).ready (0) 3 53 (cdW 0 1 0) 1024) ∧ (bitsOf (cdW 0 1 0).toNat 2 0 = 0) ∧ (bitsOf (cdW 0 1 0).toNat 3 3 = Dir.prev.idx) ∧
    ((cdS (cdW 0 1 0)).circRun? 0 = some (crun [land 0 true] 3)) ∧ ((((cdS (cdW 0 1 0)).lace 0).consumers Dir.prev).testBit 0 = false) ∧
    ((cdS (cdW 0 0 3)).ready (0) 3 53 (cdW 0 0 3) 1024) ∧ (bitsOf (cdW 0 0 3).toNat 2 0 = 0) ∧ (bitsOf (cdW 0 0 3).toNat 3 3 = Dir.next.idx) ∧
    ((cdS (cdW 0 0 3)).circRun? 0 = some (crun [land 0 true] 3)) ∧ ((((cdS (cdW 0 0 3)).lace 0).consumers Dir.next).testBit 0 = true) ∧
    (((crun [land 0 true] 3).lane (0) Dir.next.idx).releasable (0) (bitsOf (cdW 0 0 3).toNat 6 4) = none) ∧
    ((cdS (cdW 0 0 0)).ready (0) 3 53 (cdW 0 0 0) 1024) ∧ (bitsOf (cdW 0 0 0).toNat 2 0 = 0) ∧ (bitsOf (cdW 0 0 0).toNat 3 3 = Dir.next.idx) ∧
    ((cdS (cdW 0 0 0)).circRun? 0 = some (crun [land 0 true] 3)) ∧ ((((cdS (cdW 0 0 0)).lace 0).consumers Dir.next).testBit 0 = true) ∧
    (List.find? (fun z => z.landed && !z.released.testBit 0) ((crun [land 0 true] 3).lane (0) Dir.next.idx).slots = some (land 0 true)) ∧
    ((land 0 true).seqno % 8 = bitsOf (cdW 0 0 0).toNat 6 4) := by
  and_intros <;> first
    | (simp only [← Option.mem_def]; decide +kernel)
    | decide +kernel

/-- The hypotheses of MergeRuns hold, clause by clause. -/
theorem hyps_mergeRuns :
    ((meS (mrun 1 0 0 false false)).disc.busy = false) ∧ ((meS (mrun 1 0 0 false false)).fatal = false) ∧
    ((meS (mrun 1 0 0 false false)).mem.wiping = false) ∧
    (List.find? (meS (mrun 1 0 0 false false)).mergeReady (meS (mrun 1 0 0 false false)).circ.merges = some (mrun 1 0 0 false false)) ∧
    ((meS (mrun 1 0 0 false false)).merge? (mrun 1 0 0 false false).flight = some (mrun 1 0 0 false false)) ∧
    ((meS (mrun 1 0 0 false false)).flight? (mrun 1 0 0 false false).flight = some meF) ∧
    ((meS (mrun 1 0 0 false false)).poisonIn ((meS (mrun 1 0 0 false false)).areaA (mrun 1 0 0 false false) 0 0) ((mrun 1 0 0 false
          false).entries * (mrun 1 0 0 false false).nq * (mrun 1 0 0 false false).pb) = none) ∧
    ((mrun 1 0 0 false false).invariant = false ∧ (mrun 1 0 0 false false).size = 1 ∧
    (mrun 1 0 0 false false).pos = 0 ∨ (mrun 1 0 0 false false).invariant = true ∧ (mrun 1 0 0 false false).prefill = true) ∧
    ((meS (mrun 2 0 0 true true)).disc.busy = false) ∧ ((meS (mrun 2 0 0 true true)).fatal = false) ∧
    ((meS (mrun 2 0 0 true true)).mem.wiping = false) ∧
    (List.find? (meS (mrun 2 0 0 true true)).mergeReady (meS (mrun 2 0 0 true true)).circ.merges = some (mrun 2 0 0 true true)) ∧
    ((meS (mrun 2 0 0 true true)).merge? (mrun 2 0 0 true true).flight = some (mrun 2 0 0 true true)) ∧
    ((meS (mrun 2 0 0 true true)).flight? (mrun 2 0 0 true true).flight = some meF) ∧
    ((meS (mrun 2 0 0 true true)).poisonIn ((meS (mrun 2 0 0 true true)).areaA (mrun 2 0 0 true true) 0 0) ((mrun 2 0 0 true true).entries *
          (mrun 2 0 0 true true).nq * (mrun 2 0 0 true true).pb) = none) ∧
    ((mrun 2 0 0 true true).invariant = false ∧ (mrun 2 0 0 true true).size = 1 ∧
    (mrun 2 0 0 true true).pos = 0 ∨ (mrun 2 0 0 true true).invariant = true ∧ (mrun 2 0 0 true true).prefill = true) ∧
    (live.disc.busy = false) ∧ (live.fatal = false) ∧ (live.mem.wiping = false) ∧ (live.linked = false) ∧
    (onBench.disc.busy = false) ∧ (onBench.fatal = false) ∧ (onBench.mem.wiping = false) ∧ (onBench.linked = true) ∧
    (List.find? (fun r => r.exchanges && r.tag == 9) onBench.circ.merges = none) ∧
    ((meS (mrun 2 0 2 false false)).disc.busy = false) ∧ ((meS (mrun 2 0 2 false false)).fatal = false) ∧
    ((meS (mrun 2 0 2 false false)).mem.wiping = false) ∧ ((meS (mrun 2 0 2 false false)).linked = true) ∧
    (List.find? (fun r => r.exchanges && r.tag == 9) (meS (mrun 2 0 2 false false)).circ.merges = some (mrun 2 0 2 false false)) ∧
    ((mrun 2 0 2 false false).expects (⟨9, some (MergeKind.level 0), 0, 0, 0, rowsB⟩ : MergeIn) = false) ∧
    ((mrun 2 0 2 false false).expects (⟨9, some (MergeKind.level 0), 1, 0, 0, rowsB⟩ : MergeIn) = true) ∧
    ((mrun 2 0 2 false false).recv = []) ∧
    ((meS (mrun 2 0 100 true false)).disc.busy = false) ∧ ((meS (mrun 2 0 100 true false)).fatal = false) ∧
    ((meS (mrun 2 0 100 true false)).mem.wiping = false) ∧ ((meS (mrun 2 0 100 true false)).linked = true) ∧
    (List.find? (fun r => r.exchanges && r.tag == 9) (meS (mrun 2 0 100 true false)).circ.merges = some (mrun 2 0 100 true false)) ∧
    ((mrun 2 0 100 true false).expects (⟨9, some (MergeKind.leaf 1), 1, 0, 0, rowsB⟩ : MergeIn) = true) ∧
    (∀ y ∈ (mrun 2 0 100 true false).recv, y.kind ≠ some (.leaf 1)) ∧
    ((mrun 2 0 100 true false).invariant = true) ∧
    ((mrun 2 0 2 false false).invariant = false) ∧
    (meL.disc.busy = false) ∧ (meL.fatal = false) ∧ (meL.mem.wiping = false) ∧
    (List.find? (fun r => r.phase == 200) meL.circ.merges = some (mrun 2 0 200 false false)) ∧
    (meL.merge? (mrun 2 0 200 false false).flight = some (mrun 2 0 200 false false)) ∧
    (meL.flight? (mrun 2 0 200 false false).flight = some meF) ∧ (meF.halted = none) ∧
    (meL.lostIn (meL.entry (meF.get 88 4 % 2 ^ 16)) (meF.get 96 8 + (mrun 2 0 200 false false).lo * ((mrun 2 0 200 false false).dv * outElem
          (meF.get 85 1))) (((mrun 2 0 200 false false).hi - (mrun 2 0 200 false false).lo) * ((mrun 2 0 200 false false).dv * outElem (meF.get
          85 1))) = true) ∧
    ((meC (mrun 2 0 200 false false)).disc.busy = false) ∧ ((meC (mrun 2 0 200 false false)).fatal = false) ∧
    ((meC (mrun 2 0 200 false false)).mem.wiping = false) ∧
    (List.find? (fun r => r.phase == 200) (meC (mrun 2 0 200 false false)).circ.merges = some (mrun 2 0 200 false false)) ∧
    ((meC (mrun 2 0 200 false false)).merge? (mrun 2 0 200 false false).flight = some (mrun 2 0 200 false false)) ∧
    ((meC (mrun 2 0 200 false false)).flight? (mrun 2 0 200 false false).flight = some meF) ∧
    (((meC (mrun 2 0 200 false false)).entry (meF.get 88 4 % 2 ^ 16)).policy = 1) ∧
    ((meC (mrun 2 0 200 false false)).lostIn ((meC (mrun 2 0 200 false false)).entry (meF.get 88 4 % 2 ^ 16)) (meF.get 96 8 + (mrun 2 0 200
          false false).lo * ((mrun 2 0 200 false false).dv * outElem (meF.get 85 1))) (((mrun 2 0 200 false false).hi - (mrun 2 0 200 false
          false).lo) * ((mrun 2 0 200 false false).dv * outElem (meF.get 85 1))) = false) ∧
    (meF.get 84 1 < 96 ∧ (∀ n ∈ meF.cores, ((meC (mrun 2 0 200 false false)).core n).eng.flight ≠ none ∧
    (meC (mrun 2 0 200 false false)).coreCtr n (meF.get 84 1) + 1 < 2 ^ 48) ∧ meF.cores.Nodup) ∧
    ((mrun 2 0 200 false false).passes ≤ (mrun 2 0 200 false false).pass + 1) ∧
    ((meC mrun2).disc.busy = false) ∧ ((meC mrun2).fatal = false) ∧ ((meC mrun2).mem.wiping = false) ∧
    (List.find? (fun r => r.phase == 200) (meC mrun2).circ.merges = some mrun2) ∧ ((meC mrun2).merge? mrun2.flight = some mrun2) ∧
    ((meC mrun2).flight? mrun2.flight = some meF) ∧ (((meC mrun2).entry (meF.get 88 4 % 2 ^ 16)).policy = 1) ∧
    ((meC mrun2).lostIn ((meC mrun2).entry (meF.get 88 4 % 2 ^ 16)) (meF.get 96 8 + mrun2.lo * (mrun2.dv * outElem (meF.get 85 1))) ((mrun2.hi -
          mrun2.lo) * (mrun2.dv * outElem (meF.get 85 1))) = false) ∧
    (mrun2.pass + 1 < mrun2.passes) := by
  and_intros <;> decide +kernel

/-- The hypotheses of CollectiveWire hold, clause by clause. -/
theorem hyps_collectiveWire :
    (colB.disc.busy = true) ∧ (0 ∈ colB.disc.collLaces) ∧
    ((cnS 0 8).disc.busy = false) ∧ ((cnS 0 8).fatal = false) ∧ ((cnS 0 8).heard ((cnS 0 8).laceIn (0) Dir.next) = true) ∧
    (8 ≤ look noCount (cnS 0 8).coll.bufs 0) ∧
    ((cnS 0 0).disc.busy = false) ∧ ((cnS 0 0).fatal = false) ∧ ((cnS 0 0).heard ((cnS 0 0).laceIn (0) Dir.next) = true) ∧
    (look noCount (cnS 0 0).coll.bufs 0 < 8) ∧ ((cnS 0 0).collRun? 0 = none) ∧
    ((coS 1 4).disc.busy = false) ∧ ((coS 1 4).fatal = false) ∧ ((coS 1 4).heard ((coS 1 4).laceIn (0) Dir.next) = true) ∧
    (look noCount (coS 1 4).coll.bufs 0 < 8) ∧ ((coS 1 4).collRun? 0 = some (cor 1 4)) ∧
    ((coS 1 4).collFlight? (cor 1 4).flight = some (cor 1 4)) ∧ ((cor 1 4).state ≠ 0) ∧
    ((coS 0 4).disc.busy = false) ∧ ((coS 0 4).fatal = false) ∧ ((coS 0 4).heard ((coS 0 4).laceIn (0) Dir.next) = true) ∧
    (look noCount (coS 0 4).coll.bufs 0 < 8) ∧ ((coS 0 4).collRun? 0 = some (cor 0 4)) ∧
    ((coS 0 4).collFlight? (cor 0 4).flight = some (cor 0 4)) ∧ ((cor 0 4).state = 0) ∧
    (crc32c (State.offerChunk.chunkBytes (ch 0) ++ [1#8, 2#8]) ≠ 0) ∧
    (crc32c (State.offerChunk.chunkBytes (ch 5) ++ [1#8, 2#8]) = crc32c (chB 5 ++ [1#8, 2#8])) ∧ ((ch 5).epoch ≠ ((coS 0 4).lace 0).epoch) ∧
    ((coS 0 4).collCredits 0 ≠ 0) ∧ ((cor 0 4).nextSend 0 = some csend) ∧
    ((cnS 0 0).collCredits 0 = 0) ∧
    ((coS 0 4).hearsControl ((coS 0 4).laceOut (0) Dir.next) = true) ∧
    ((cnS 3 0).disc.busy = false) ∧ ((cnS 3 0).fatal = false) ∧
    ((cnS 3 0).hearsControl ((cnS 3 0).laceOut (0) Dir.next) = true ∨ (cnS 3 0).hearsControl ((cnS 3 0).laceOut (0) Dir.prev) = true) ∧
    (look noCount (cnS 3 0).coll.copies 0 ≠ 0) ∧
    ((cnS 0 0).hearsControl ((cnS 0 0).laceOut (0) Dir.next) = true ∨ (cnS 0 0).hearsControl ((cnS 0 0).laceOut (0) Dir.prev) = true) ∧
    (look noCount (cnS 0 0).coll.copies 0 = 0) ∧
    ((coS 0 4).hearsControl ((coS 0 4).laceOut (0) Dir.next) = true ∨ (coS 0 4).hearsControl ((coS 0 4).laceOut (0) Dir.prev) = true) ∧
    (look noCount (coS 0 4).coll.copies 0 = 0) ∧
    (look noCount (cor 0 4).owed 0 ≠ 0) ∧ (BitVec.toNat ((coS 0 4).stg (pageColl + 256)) % 2 ^ 16 ≠ 0) ∧
    ((act (coS 0 4) [(pageColl + 256, 0)]).disc.busy = false) ∧ ((act (coS 0 4) [(pageColl + 256, 0)]).fatal = false) ∧
    ((act (coS 0 4) [(pageColl + 256, 0)]).collRun? 0 = some (cor 0 4)) ∧
    (BitVec.toNat ((act (coS 0 4) [(pageColl + 256, 0)]).stg (pageColl + 256)) % 2 ^ 16 = 0) ∧
    ((coS 0 4).hearsControl ((coS 0 4).laceIn (0) Dir.next) = true) ∧ (((coS 0 4).lace 0).pos ≠ 0) ∧
    ((⟨3, none, false⟩ : CensusFlit).closing = false) ∧
    ((cnS 0 0).hearsControl ((cnS 0 0).laceIn (0) Dir.next) = true) ∧
    ((⟨3, none, true⟩ : CensusFlit).closing = true) ∧
    (w15C.disc.busy = false) ∧ (w15C.fatal = false) ∧ (look (fun _ => none) w15C.coll.flit 0 = some (⟨3, none, true⟩ : CensusFlit)) ∧
    (w15S.disc.busy = false) ∧ (w15S.fatal = false) ∧ (look (fun _ => none) w15S.coll.flit 0 = some (⟨3, none, false⟩ : CensusFlit)) ∧
    (BitVec.toNat (w15S.stg (pageColl + 256)) % 2 ^ 16 ≠ 0) := by
  and_intros <;> decide +kernel

end Wire

/-! ### Objects, page-ins, the wipe -/

namespace Tier

def busyS : State := { live with tier := { State.reset.tier with ptOp := ⟨true, 3, 2, [], false, false⟩ } }
def img (p len base : Nat) : List Byte := bytesOf 64 (p * 2 ^ 32 + len * 2 ^ 64 + base * 2 ^ 128 + len * 2 ^ 192)
def stageS (b : List Byte) : State := let s := t1At live (64 * 5) (bytesOf 5 (5 + 7 * 2 ^ 16)); (List.range 16).foldl (fun s k => s.setReg (pageMem + 0x80 + 4 * k) (BitVec.ofNat 32 (field b (4 * k) 4))) s
def stg2 (s : State) (off n : Nat) : State := (s.setReg (pageMem + 0x80) (BitVec.ofNat 32 off)).setReg (pageMem + 0x88) (BitVec.ofNat 32 n)
/-- object 5: policy 3 (T2 backed), 8 MiB region, length 64 MiB -/
def t2obj (s : State) : State := t1At s (64 * 5) (bytesOf 64 (5 + 2^16 + 3 * 2^32 + 0x4000000 * 2^64 + 0x1000000 * 2^128 + 0x800000 * 2^192))
def pg (pre : Bool) : PageIn := ⟨5, 2, 0, .waiting, none, pre⟩
/-- The reserve ports are UP. -/
def resS : State := (onBench.setReg (pageLink 16 + 0x40) 2#32).setReg (pageLink 17 + 0x40) 2#32
def pgS (pre : Bool) : State := let s := t2obj resS; s.setPages [pg pre]
def pgFull : State := (pgS false).setPages [pg false, ⟨5,3,0,.reading,none,false⟩, ⟨5,4,1,.reading,none,false⟩, ⟨5,5,2,.reading,none,false⟩, ⟨5,6,3,.reading,none,false⟩]
def rq (w : Bool) : T2Req := ⟨0, 3, w, 5, 65, 0x10000, 0x1010000, 0, false, true, false, []⟩
def rqS (w : Bool) : State := let s := t2obj resS
  { s with tier := { s.tier with t2 := [rq w], pages := [⟨5, 2, 0, .reading, none, false⟩], ports := [(0, { ResPort.reset with up := true, maxTags := 4 })] } }
def gran : List Byte := List.replicate 65536 7#8
def wiped : State := { live with mem := { State.reset.mem with wiping := true, t1 := [], tables := [] } }
def ps : State := live.setReg (pageMem + 8) 2#32
def wpS : State := { live with mem := { State.reset.mem with wiping := true } }
/-- A prefetch waits behind a demand. -/
def pfS : State := (pgS true).setPages [pg true, ⟨5, 3, 0, .waiting, none, false⟩]
/-- A demand whose slot holds nothing, with the appliance of its reads up. -/
def upS : State := let s := act (pgS false) [(pageMem + 0x110, 3)]; { s with tier := { s.tier with ports := [(0, { ResPort.reset with up := true, maxTags := 4 }), (1, { ResPort.reset with up := true, maxTags := 4 })] } }
def psOff : State := live.setReg (pageMem + 8) 0#32
def fatalT : State := { live with fatal := true }
/-- The entry of object 5 holds a poisoned word. -/
def poisT : State := { live with mem := { live.mem with poison := [(10, true)] } }
def pgU : State := { pgS false with mem := { (pgS false).mem with poison := [(10, true)] } }

/-- The hypotheses of PlacementOperations hold, clause by clause. -/
theorem hyps_placementOperations :
    (fatalT.fatal = true) ∧
    (busyS.fatal = false) ∧ (busyS.tier.ptOp.busy = true) ∧
    (wpS.fatal = false) ∧ (wpS.tier.ptOp.busy = false) ∧ (wpS.mem.wiping = true) ∧
    (live.fatal = false) ∧ (live.tier.ptOp.busy = false) ∧
    ((1280#32).toNat % 16 = 0 ∨ 4 < (1280#32).toNat % 16 ∨ (1280#32).toNat / 2 ^ 4 % 2 ^ 4 ≠ 0 ∨ (1280#32).toNat / 2 ^ 24 ≠ 0) ∧
    ((1297#32).toNat % 16 = 0 ∨ 4 < (1297#32).toNat % 16 ∨ (1297#32).toNat / 2 ^ 4 % 2 ^ 4 ≠ 0 ∨ (1297#32).toNat / 2 ^ 24 ≠ 0) ∧
    (poisT.fatal = false) ∧ (poisT.tier.ptOp.busy = false) ∧ (poisT.mem.wiping = false) ∧
    (poisT.poisonIn (poisT.ptBase + 64 * 5) 64 = some 10) ∧
    ((stageS (img 1 65536 16777216)).fatal = false) ∧ ((stageS (img 1 65536 16777216)).tier.ptOp.busy = false) ∧
    ((stageS (img 1 65536 16777216)).mem.wiping = false) ∧
    ((stageS (img 1 65536 16777216)).poisonIn ((stageS (img 1 65536 16777216)).ptBase + 64 * 5) 64 = none) ∧
    (∀ (j : Nat), j ∈ (stageS (img 1 65536 16777216)).objects → (stageS (img 1 65536 16777216)).poisonIn ((stageS (img 1 65536 16777216)).ptBase
          + 64 * j) 64 = none) ∧
    (entryOk (stageS (img 1 65536 16777216)).ptStage = true) ∧ (((stageS (img 1 65536 16777216)).entry (5)).policy = 0) ∧
    ((stageS (img 1 65536 16777216)).overlaps (Entry.ofBytes (5) (stageS (img 1 65536 16777216)).ptStage).t1Base (Entry.ofBytes (5) (stageS (img
          1 65536 16777216)).ptStage).t1Bytes = false) ∧
    ((Entry.ofBytes (5) (stageS (img 1 65536 16777216)).ptStage).policy = 1 ∨ (stageS (img 1 65536 16777216)).cachedObjects.length < 256) ∧
    ((stageS (img 4 65536 16777216)).fatal = false) ∧ ((stageS (img 4 65536 16777216)).tier.ptOp.busy = false) ∧
    ((stageS (img 4 65536 16777216)).mem.wiping = false) ∧
    ((stageS (img 4 65536 16777216)).poisonIn ((stageS (img 4 65536 16777216)).ptBase + 64 * 5) 64 = none) ∧
    (∀ (j : Nat), j ∈ (stageS (img 4 65536 16777216)).objects → (stageS (img 4 65536 16777216)).poisonIn ((stageS (img 4 65536 16777216)).ptBase
          + 64 * j) 64 = none) ∧
    (entryOk (stageS (img 4 65536 16777216)).ptStage = false) ∧
    ((resident live 5 65536 16777216).fatal = false) ∧ ((resident live 5 65536 16777216).tier.ptOp.busy = false) ∧
    ((resident live 5 65536 16777216).mem.wiping = false) ∧
    ((resident live 5 65536 16777216).poisonIn ((resident live 5 65536 16777216).ptBase + 64 * 5) 64 = none) ∧
    (((resident live 5 65536 16777216).entry (5)).policy ≠ 0) ∧ ((resident live 5 65536 16777216).streams (5) = 0) ∧
    (live.mem.wiping = false) ∧ (live.poisonIn (live.ptBase + 64 * 5) 64 = none) ∧ ((live.entry (5)).policy = 0) ∧
    (((resident live 5 65536 16777216).entry (5)).policy = 1) ∧
    ((stg2 (resident live 5 65536 16777216) 0 256).fatal = false) ∧ ((stg2 (resident live 5 65536 16777216) 0 256).tier.ptOp.busy = false) ∧
    ((stg2 (resident live 5 65536 16777216) 0 256).mem.wiping = false) ∧
    ((stg2 (resident live 5 65536 16777216) 0 256).poisonIn ((stg2 (resident live 5 65536 16777216) 0 256).ptBase + 64 * 5) 64 = none) ∧
    (((stg2 (resident live 5 65536 16777216) 0 256).entry (5)).policy ≠ 0) ∧
    (0 < field (stg2 (resident live 5 65536 16777216) 0 256).ptStage 8 8) ∧
    (field (stg2 (resident live 5 65536 16777216) 0 256).ptStage 0 8 + field (stg2 (resident live 5 65536 16777216) 0 256).ptStage 8 8 ≤ ((stg2
          (resident live 5 65536 16777216) 0 256).entry (5)).length) ∧
    ((stg2 (resident live 5 65536 16777216) 0 256).absent ((stg2 (resident live 5 65536 16777216) 0 256).entry (5)) (field (stg2 (resident live 5 65536 16777216) 0 256).ptStage 0 8) (field (stg2 (resident live 5 65536 16777216) 0 256).ptStage 8 8) = []) := by
  and_intros <;> decide +kernel

/-- The hypotheses of PagesAndAppliances hold, clause by clause. -/
theorem hyps_pagesAndAppliances :
    (live.mem.wiping = false) ∧ (live.fatal = false) ∧ (live.pageOf (5) 2 = none) ∧
    (pfS.mem.wiping = false) ∧ (pfS.fatal = false) ∧ (pfS.pageOf (5) 2 = some (pg true)) ∧ (pfS.mayPage (pfS.entry (5)) (pg true) = false) ∧
    (pgU.mem.wiping = false) ∧ (pgU.fatal = false) ∧ (pgU.pageOf (5) 2 = some (pg false)) ∧ (pgU.mayPage (pgU.entry (5)) (pg false) = true) ∧
    (pgU.poisonIn (pgU.ptBase + 64 * 5) 64 = some 10) ∧
    ((pgS false).mem.wiping = false) ∧ ((pgS false).fatal = false) ∧ ((pgS false).pageOf (5) 2 = some (pg false)) ∧
    ((pgS false).mayPage ((pgS false).entry (5)) (pg false) = true) ∧ ((pgS false).poisonIn ((pgS false).ptBase + 64 * 5) 64 = none) ∧
    (pgFull.mem.wiping = false) ∧ (pgFull.fatal = false) ∧ (pgFull.pageOf (5) 2 = some (pg false)) ∧
    (pgFull.mayPage (pgFull.entry (5)) (pg false) = true) ∧ (pgFull.poisonIn (pgFull.ptBase + 64 * 5) 64 = none) ∧
    (pgFull.takeSlot (pgFull.entry (5)) (pg false).item = none) ∧
    (upS.mem.wiping = false) ∧ (upS.fatal = false) ∧ (upS.pageOf (5) 2 = some (pg false)) ∧ (upS.mayPage (upS.entry (5)) (pg false) = true) ∧
    (upS.poisonIn (upS.ptBase + 64 * 5) 64 = none) ∧ (upS.takeSlot (upS.entry (5)) (pg false).item = some 0) ∧
    (look noCount (upS.cache (5)).slots 0 = 0) ∧ (∀ (x : T2Req), x ∈ (upS.entry (5)).reads 2 0 → upS.resUp x.port = true) ∧
    (∀ (x : PageIn), x ∈ upS.tier.pages → x.obj = 5 → x.stage ≠ PageStage.evicting) ∧
    ((pg true).prefetch = true) ∧ (∃ x, x ∈ pfS.tier.pages ∧ x.stage = PageStage.waiting ∧ x.prefetch = false) ∧
    (live.heard (16 + 0) = false) ∧
    (List.find? (fun q => decide (q.port = 0) && q.sent && decide (q.tag = 3)) live.tier.t2 = none) ∧
    ((rqS false).mem.wiping = false) ∧ ((rqS false).fatal = false) ∧
    (List.find? (fun q => decide (q.port = 0) && q.sent && decide (q.tag = 3)) (rqS false).tier.t2 = some (rq false)) ∧
    ((rq false).dead = false) ∧ ((rqS false).heard (16 + 0) = true) ∧ ((rq false).write = false) ∧ (gran.length = granuleBytes) ∧
    ((rqS true).mem.wiping = false) ∧ ((rqS true).fatal = false) ∧
    (List.find? (fun q => decide (q.port = 0) && q.sent && decide (q.tag = 3)) (rqS true).tier.t2 = some (rq true)) ∧
    ((rq true).dead = false) ∧ ((rqS true).heard (16 + 0) = true) ∧ ((rq true).write = true) ∧
    (resS.mem.wiping = false) ∧ (resS.fatal = false) ∧ (1 ≤ (8#12).toNat) ∧ ((8#12).toNat ≤ 1024) ∧ (resS.heard (16 + 0) = true) := by
  and_intros <;> decide +kernel

/-- The hypotheses of WipeAndScrub hold, clause by clause. -/
theorem hyps_wipeAndScrub :
    (fatalT.fatal = true) ∧
    ((pgS false).fatal = false) ∧ ((pgS false).mem.wiping = false) ∧ ((pgS false).cmd.flights = []) ∧
    ((withCmd live (fl 1 0 18 Stage.ended 0)).fatal = false) ∧ ((withCmd live (fl 1 0 18 Stage.ended 0)).mem.wiping = false) ∧
    ((withCmd live (fl 1 0 18 Stage.ended 0)).cmd.flights ≠ []) ∧
    (live.fatal = false) ∧ (live.mem.wiping = false) ∧
    (wiped.fatal = false) ∧ (wiped.mem.wiping = true) ∧ (wiped.mem.held = []) ∧ (wiped.mem.t1 = []) ∧ (wiped.mem.tables = []) ∧
    (ps.fatal = false) ∧ (ps.mem.wiping = false) ∧ (BitVec.getLsbD (ps.reg (pageMem + 8)) 1 = true) ∧ (ps.isPoisoned (9) = false) ∧
    (psOff.fatal = false) ∧ (psOff.mem.wiping = true ∨ BitVec.getLsbD (psOff.reg (pageMem + 8)) 1 = false) := by
  and_intros <;> decide +kernel

end Tier

/-! ### Power and resets -/

namespace Power

def pw (p : Power) : State := { live with power := p }
def P0 : Power := { Power.reset with lit := true }
def pwC := pw { P0 with clamp := true }
def pwH := pw { P0 with holdoff := true }
def pwHC := pw { P0 with holdoff := true, change := some 12 }
def pwX := pw { P0 with change := some 12 }
def pwA := pw { P0 with change := some 12, due := true, clamp := true }
def pwG : State := { live with win := { Window.reset with active := [(0x0100108, 1#32)] } }
def calB : State := pw { P0 with cal := { P0.cal with busy := true, ticks := 3 } }
def h0 : Hint := ⟨0, 2, 5, 9, false⟩
def h1 : Hint := ⟨1, 2, 5, 9, true⟩
def h1i : Hint := { h1 with active := false }
def h0a : Hint := { h0 with active := true }
def hS0 := pw { P0 with hint := some h0, raise := 12 }
def hS1 := pw { P0 with hint := some h1, raise := 12, hintFrom := 4 }
def hS2 := pw { P0 with hint := some h0a, raise := 12, hintFrom := 4 }
def hS3 := pw { P0 with hint := some h1i, raise := 12, hintFrom := 4 }
def pmb (n : Nat) := pw { P0 with pmbLast := [(0x21, 700)], pmbTries := n }
def pmb2 := pw { P0 with pmbLast := [(0x20, 0), (0x21, 700)], pmbTries := 1 }
def pwOff := pw { P0 with lit := false }
def pwE := pw { P0 with idle := 60, point := 9 }
def pwF : State := { live with fatal := true }
def warmS : State := { live with sec := { live.sec with inReset := true }, win := { Window.reset with regs := [(0x810, 1#32)] } }
def mbxS : State := { live with sec := { live.sec with mbox := some ⟨1, 0, 0x800000, none, none⟩ } }
def busyF := withCmd ({ live with power := { P0 with trip := true, energy := 77, cal := { P0.cal with valid := true } } }) (fl 1 0 0x12 .running 0)
def sS (b w d : Bool) : State := { busyF with
  sec := { live.sec with softReset := b, softWiped := w }, disc := { State.reset.disc with busy := d } }

/-- The hypotheses of PowerPointMoves hold, clause by clause. -/
theorem hyps_powerPointMoves :
    (pwOff.power.lit = false) ∧
    (pwC.power.lit = true) ∧
    (live.power.clamp = false) ∧
    (pwC.power.clamp = true) ∧
    (live.power.holdoff = false) ∧
    (pwH.power.holdoff = true) ∧ (pwH.power.change = none ∨ pwH.power.due = false) ∧
    ((pw ({ P0 with change := some 12, due := true, holdoff := true })).power.holdoff = true) ∧
    ((pw ({ P0 with change := some 12, due := true, holdoff := true })).power.change = some 12) ∧
    ((pw ({ P0 with change := some 12, due := true, holdoff := true })).power.due = true) ∧
    (live.power.change = none) ∧
    (pwHC.power.change = some 12) ∧ (pwHC.power.clamp = true ∨ pwHC.power.holdoff = true) ∧
    (pwX.power.change = some 12) ∧ (pwX.power.clamp = false) ∧ (pwX.power.holdoff = false) ∧
    (pwA.power.change = some 12) ∧ (pwA.power.due = true) ∧ (pwA.power.clamp = true ∨ pwA.power.holdoff = true) ∧
    (live.power.change = none ∨ live.power.due = false) ∧
    (pwF.fatal = true ∨ pwF.power.lit = false) ∧
    (pwE.fatal = false) ∧ (pwE.power.lit = true) ∧
    (pwX.power.change = some 12) ∧
    (pwG.power.change = none) ∧
    (pwG.pwrFixed = true) ∧
    (∃ c < 8, (act live [(0x0100108, 1)]).issueK c = 64) ∧
    (pwX.power.change ≠ none) := by
  and_intros <;> decide +kernel

/-- The hypotheses of PowerController hold, clause by clause. -/
theorem hyps_powerController :
    (pwF.fatal = true ∨ pwF.power.lit = false) ∧
    ((pw P0).fatal = false) ∧ ((pw P0).power.lit = true) ∧
    ((pw P0).power.capOf 3 ≤ 64) ∧
    ([300, -5, 70000][1]? = some (-5 : Int)) ∧
    (live.power.cal.busy = false) ∧
    (calB.power.cal.busy = true) ∧
    (live.power.hint = none ∨ ∃ h, live.power.hint = some h ∧ h.active = true) ∧
    (hS0.power.hint = some h0) ∧ (h0.active = false) ∧
    (hS3.power.hint = some h1i) ∧ (h1i.active = false) ∧
    (live.power.hint = none ∨ ∃ h, live.power.hint = some h ∧ h.active = false) ∧
    (hS1.power.hint = some h1) ∧ (h1.active = true) ∧
    (hS2.power.hint = some h0a) ∧ (h0a.active = true) ∧
    (pwOff.power.lit = false) ∧
    (live.power.pmbLast = []) ∧
    ((pmb 2).power.pmbLast = [(33, 700)]) ∧ ((pmb 2).power.pmbTries < 3) ∧
    ((pmb 3).power.pmbLast = [(33, 700)]) ∧ (3 ≤ (pmb 3).power.pmbTries) ∧ ((pmb 3).fatal = false) ∧
    (pmb2.power.pmbLast = [(32, 0), (33, 700)]) := by
  and_intros <;> decide +kernel

/-- The hypotheses of ResetsLeave hold, clause by clause. -/
theorem hyps_resetsLeave :
    (warmS.sec.inReset = true) ∧ (BitVec.getLsbD (warmS.reg 2064) 0 = true) ∧
    (mbxS.sec.inReset = false ∨ BitVec.getLsbD (mbxS.reg 2064) 0 = false) ∧
    (21333#32 ≠ 21332#32) ∧
    ((sS true false true).sec.softReset = true ∨ (sS true false true).fatal = true) ∧
    ((sS false false false).sec.softReset = false) ∧ ((sS false false false).fatal = false) ∧ ((sS false false false).disc.busy = false) ∧
    ((sS true false false).sec.softReset = false ∨ (sS true false false).sec.softWiped = false ∨ (sS true false false).disc.busy = true ∨ (sS
          true false false).mem.wiping = true) ∧
    ((sS true true false).sec.softReset = true) ∧ ((sS true true false).sec.softWiped = true) ∧ ((sS true true false).disc.busy = false) ∧
    ((sS true true false).mem.wiping = false) ∧
    (mbxS.sec.mbox ≠ none) ∧
    (alwaysOn 0x818 = true ∧ alwaysOn 0x40 = false) ∧
    (softKeeps 0x818 = true ∧ softKeeps 0x4000 = false) ∧
    ((sS false false true).disc.busy = true) := by
  and_intros <;> decide +kernel

end Power

/-! ### Boot, net boot, the mailbox -/

namespace Boot

def fS (f : Security → Security) : State := { live with sec := f live.sec }
def ours (k : Byte) : NbHdr := ⟨0x88B5#16, 0x4E42#16, k, Config.serial⟩
theorem ours_ours (k : Byte) : netOurs (ours k) = true := by simp [netOurs, ours]
def fSb := fS fun c => { c with inReset := false }
def fS1 := fS fun c => { c with lc := 1 }
def nb (n : NetImage) : State := fS fun c => { c with inReset := false, needed := [(2, some n), (3, some NetImage.none_)] }
def ni0 : NetImage := NetImage.none_
def ni1 : NetImage := ⟨some (3000, 77), [], [0, 1, 2], 3⟩
def pl : List Byte := List.replicate 1024 5#8
def mk (op t : Nat) (l r : Option Nat) : Mailbox := ⟨op, t, 0x800000, l, r⟩
def dep : State := { fS fun c => { c with lc := 2, provisioned := true, seed := some 4, limit := 50, leaf := 3, fuses := 1 } with mem := { State.reset.mem with tables := [] } }
def depA : State := (dep.setReg 0x820 0x1000000#32)
def mb (m : Mailbox) : State := { depA with sec := { depA.sec with mbox := some m } }
def mbB : State := { mb (mk 3 3 none none) with disc := { State.reset.disc with busy := true } }
def fSr (lc : Nat) : State := fS fun c => { c with inReset := true, lc := lc }
def mbOff : State := mb { mk 2 0 none none with addr := 2 ^ 50 }
def deadS : State := { live with fatal := true }
def fS4 := fS fun c => { c with lc := 4 }

/-- The hypotheses of BootAndNetBoot hold, clause by clause. -/
theorem hyps_bootAndNetBoot :
    (fSb.sec.inReset = false) ∧
    ((fSr 4).sec.inReset = true) ∧
    ((nb ni0).netImage (BitVec.toNat (ours 2).image) = some ni0) ∧ (netOurs (ours 2) = true) ∧ (ni0.offer = none) ∧ (ni0.open_ = []) ∧
    (ni0.next = 0) ∧ (1 ≤ 3000) ∧ (3000 ≤ maxImage) ∧
    (netOurs ({ ours 2 with magic := 0 }) = false) ∧
    ((nb ni1).netImage (BitVec.toNat (ours 2).image) = some ni1) ∧ (ni1.offer = some (3000, 77)) ∧ (1024 = pl.length) ∧
    (ni1.open_.contains (1) = true) ∧ (pl.length = min 1024 (3000 - 1024 * 1)) ∧ (∃ j, j ∈ ni1.open_ ∧ j ≠ 1) ∧
    (7 ≠ pl.length ∨ 0 ≠ crc32c pl) ∧
    ((nb ni1).netImage (2) = some ni1) ∧
    ((nb ni1).netImage (1) = none) ∧
    ((fSr 4).sec.lc = 4 ∧ (fSr 2).sec.inReset = true ∧ (fSr 2).sec.lc ≠ 4) ∧
    ((nb ni0).netImage 2 = some ni0 ∧ 2 ∈ bootOrder ∧ ni0.offer = none) := by
  and_intros <;> first
    | exact ours_ours _
    | decide +kernel

/-- The hypotheses of MailboxOperations hold, clause by clause. -/
theorem hyps_mailboxOperations :
    (deadS.fatal = true) ∧
    ((mb (mk 1 0 none none)).mem.wiping = false) ∧ ((mb (mk 1 0 none none)).fatal = false) ∧ ((mb (mk 1 0 none none)).sec.mbox ≠ none) ∧
    (depA.mem.wiping = false) ∧ (depA.fatal = false) ∧ (depA.sec.mbox = none) ∧ (depA.sec.lc = 2) ∧ (depA.sec.provisioned = true) ∧
    (depA.mboxRange 6016 = true) ∧ (depA.sec.leaf < 2 ^ 30) ∧ (depA.sec.leaf < depA.sec.limit) ∧
    (fS1.mem.wiping = false) ∧ (fS1.fatal = false) ∧ (fS1.sec.mbox = none) ∧ (fS1.sec.lc ≠ 2) ∧
    (fS1.sec.lc = 1) ∧ (fS1.sec.provisioned = false) ∧
    (depA.sec.lc ≠ 1 ∨ depA.sec.provisioned = true) ∧
    (depA.sec.seed = some 4) ∧ (depA.sec.lc ≠ 4) ∧ (depA.mboxRange 60 = true) ∧
    (fS4.mem.wiping = false) ∧ (fS4.fatal = false) ∧ (fS4.sec.mbox = none) ∧ (fS4.sec.seed = none ∨ fS4.sec.lc = 4) ∧
    (depA.lcNeeds 4 = some false) ∧ (depA.disc.busy = false) ∧
    (fS4.lcNeeds 2 = none) ∧
    ((mb (mk 4 0 none (some 3))).mem.wiping = false) ∧ ((mb (mk 4 0 none (some 3))).fatal = false) ∧
    ((mb (mk 4 0 none (some 3))).sec.mbox = some (mk 4 0 none (some 3))) ∧ ((mk 4 0 none (some 3)).result = some 3) ∧
    ((mb (mk 1 0 (some 3) none)).mem.wiping = false) ∧ ((mb (mk 1 0 (some 3) none)).fatal = false) ∧
    ((mb (mk 1 0 (some 3) none)).sec.mbox = some (mk 1 0 (some 3) none)) ∧ ((mk 1 0 (some 3) none).op = 1) ∧
    ((mk 1 0 (some 3) none).result = none) ∧
    ((mb (mk 2 0 none none)).mem.wiping = false) ∧ ((mb (mk 2 0 none none)).fatal = false) ∧
    ((mb (mk 2 0 none none)).sec.mbox = some (mk 2 0 none none)) ∧ ((mk 2 0 none none).op = 2) ∧ ((mk 2 0 none none).result = none) ∧
    ((mk 2 0 none none).addr % 64 = 0 ∧ (mk 2 0 none none).addr + 6016 ≤ t1Bytes) ∧
    ((mb (mk 2 0 none none)).poisonIn (mk 2 0 none none).addr 6016 = none) ∧
    ((mb (mk 4 0 none none)).mem.wiping = false) ∧ ((mb (mk 4 0 none none)).fatal = false) ∧
    ((mb (mk 4 0 none none)).sec.mbox = some (mk 4 0 none none)) ∧ ((mk 4 0 none none).op = 4) ∧ ((mk 4 0 none none).result = none) ∧
    ((mb (mk 5 0 none none)).mem.wiping = false) ∧ ((mb (mk 5 0 none none)).fatal = false) ∧
    ((mb (mk 5 0 none none)).sec.mbox = some (mk 5 0 none none)) ∧ ((mk 5 0 none none).op = 5) ∧ ((mk 5 0 none none).result = none) ∧
    ((mb (mk 3 3 none none)).mem.wiping = false) ∧ ((mb (mk 3 3 none none)).fatal = false) ∧
    ((mb (mk 3 3 none none)).sec.mbox = some (mk 3 3 none none)) ∧ ((mk 3 3 none none).op = 3) ∧ ((mk 3 3 none none).result = none) ∧
    ((mb (mk 3 3 none none)).disc.busy = false) ∧
    (mbOff.mem.wiping = false) ∧ (mbOff.fatal = false) ∧ (mbOff.sec.mbox = some ({ mk 2 0 none none with addr := 2 ^ 50 })) ∧
    (({ mk 2 0 none none with addr := 2 ^ 50 }).op = 2) ∧ (({ mk 2 0 none none with addr := 2 ^ 50 }).result = none) ∧
    (¬(({ mk 2 0 none none with addr := 2 ^ 50 }).addr % 64 = 0 ∧ ({ mk 2 0 none none with addr := 2 ^ 50 }).addr + 6016 ≤ t1Bytes)) ∧
    (mbB.mem.wiping = false) ∧ (mbB.fatal = false) ∧ (mbB.sec.mbox = some (mk 3 3 none none)) ∧ (mbB.disc.busy = true) ∧
    ((mb (mk 4 0 none none)).mirrorAt = none) := by
  and_intros <;> decide +kernel

end Boot

/-! ### The host port and the register window -/

namespace HostSide

/-- region 0: live 0x1000000 length 0x10000 rights r rkey 0x99 -/
def reg0 (r : Nat) : List (Nat × Nat) := [(0x0A00400, 0x99), (0x0A00404, 0x1000000), (0x0A0040C, 0x10000), (0x0A00414, r)]
def rts (p : Qp) (r : Nat) : State := { act live (reg0 r ++ [(pageHost + 0x10C, 0x0100000A), (cqPage 3, 1 + 4 * 8 + 7 * 256)]) with host := { State.reset.host with qps := [(7, p)] } }
def qp0 : Qp := { Qp.reset with state := 1, mtu := 3, rqPsn := 5, retry := 2 }
def d16 : List Byte := List.replicate 16 9#8
def qpu (n : Nat) : Qp := { qp0 with unacked := [(9, 3, 0x100, d16, none), (10, 3, 0x110, d16, none), (11, 3, 0x120, d16, none)], tries := n }
def stq (st mtu : Nat) : State := (live.setReg (pageHost + 0x80) (BitVec.ofNat 32 (0x123 + st * 2^24))).setReg (pageHost + 0x9C) (BitVec.ofNat 32 (mtu * 2 ^ 16 + 0x12 * 2^24))
def hpUp : State := { act live [(pageHost + 0x100, 0x1 + 4 + 2 + 8 + 3 * 16)] with host := { State.reset.host with mode := 2 } }
/-- A packet to 10.0.0.1. -/
def pk (size : Nat) : Packet := ⟨size, 1, BitVec.ofNat 128 (0xFFFF * 2 ^ 32 + 0x0A000001), true⟩
def sixteen : State := { rts qp0 1 with mem := { State.reset.mem with held := List.replicate 16 (.rdmaRead 7 0 0 0 0 (pk 64)) } }
def ip : State := act live [(pageHost + 0x10C, 0x0100000A)]
def softB : State := { onBench with sec := { live.sec with softReset := true } }
/-- QP 7 is the completion pair of an enabled queue, and STATE 0 with a listed MTU is staged for it. -/
def useS : State := (rts qp0 2).setReg (pageHost + 0x9C) (BitVec.ofNat 32 (3 * 2 ^ 16))
def hp0 : State := { act live [(pageHost + 0x100, 0x2)] with host := { State.reset.host with mode := 0 } }
def hh (op : Byte) (addr : Nat) (cnt : Nat) (st : Byte) : RwpHdr :=
  ⟨pk 64, BitVec.ofNat 16 State.reset.rwpPort, 0x11223344, 0x5257#16, 1, op, 8, BitVec.ofNat 32 addr, cnt, st, 0⟩
def alw : State := act ip [(pageHost + 0x130, 2), (pageHost + 0x21C, 0x44332211)]
def alw2 : State := { alw with host := { alw.host with rwpLast := [(1, some (8, d16))] } }

/-- The hypotheses of RdmaAndDoorbells hold, clause by clause. -/
theorem hyps_rdmaAndDoorbells :
    (live.mem.wiping = false) ∧ (9216 < (pk 9217).size ∨ 1 < (pk 9217).tags) ∧
    (live.takes (pk 64) = false ∨ (live.qp 7).state ≠ 1) ∧
    ((live.qp 7).state ≠ 1 ∧ (rts qp0 2).takes (pk 9217) = false ∧ (rts qp0 2).takes (pk 9216) = true) ∧
    ((rts qp0 2).mem.wiping = false) ∧ ((rts qp0 2).takes (pk 64) = true) ∧ (((rts qp0 2).qp 7).state = 1) ∧
    (((rts qp0 2).qp 7).place (5) = PsnIs.expected) ∧ ((rts qp0 2).regionGrants (153) (16777216) d16.length 2 = true) ∧
    ((rts qp0 1).mem.wiping = false) ∧ ((rts qp0 1).takes (pk 64) = true) ∧ (((rts qp0 1).qp 7).state = 1) ∧
    (((rts qp0 1).qp 7).place (5) = PsnIs.expected) ∧ ((rts qp0 1).regionGrants (153) (16777216) d16.length 2 = false) ∧
    ((rts qp0 1).openReads 7 < 16) ∧ ((rts qp0 1).regionGrants (153) (16777216) 16 1 = true) ∧ ((rts qp0 1).poisonIn (16777216) 16 = none) ∧
    (sixteen.mem.wiping = false) ∧ (sixteen.takes (pk 64) = true) ∧ ((sixteen.qp 7).state = 1) ∧ (16 ≤ sixteen.openReads 7) ∧
    (((rts qp0 2).qp 7).place (6) = PsnIs.ahead) ∧
    (((rts qp0 2).qp 7).place (4) = PsnIs.seen) ∧
    ((rts qp0 4).mem.wiping = false) ∧ ((rts qp0 4).takes (pk 64) = true) ∧ (((rts qp0 4).qp 7).state = 1) ∧
    (((rts qp0 4).qp 7).place (5) = PsnIs.expected) ∧ ((rts qp0 4).regionGrants (153) (16777216) d16.length 4 = true) ∧
    ((rts qp0 4).regionGrants (153) (16777216) d16.length 2 = false) ∧ ((rts qp0 4).doorbellBad (7) ((3 + 2 * 256)) = false) := by
  and_intros <;> decide +kernel

/-- The hypotheses of QueuePairsAndPort hold, clause by clause. -/
theorem hyps_queuePairsAndPort :
    ((rts (qpu 0) 2).takes (pk 64) = true) ∧ (((rts (qpu 0) 2).qp 7).state = 1) ∧
    (live.takes (pk 64) = false ∨ (live.qp 7).state ≠ 1) ∧
    ((live.qp 7).state ≠ 1 ∨ (live.qp 7).unacked = []) ∧
    (((rts (qpu 0) 2).qp 7).unacked ≠ []) ∧ (((rts (qpu 0) 2).qp 7).tries < ((rts (qpu 0) 2).qp 7).retry) ∧
    (((rts (qpu 2) 2).qp 7).state = 1) ∧ (((rts (qpu 2) 2).qp 7).unacked ≠ []) ∧
    (((rts (qpu 2) 2).qp 7).retry ≤ ((rts (qpu 2) 2).qp 7).tries) ∧
    ((rts qp0 2).takes (pk 64) = true) ∧
    (live.takes (pk 64) = false) ∧
    ((stq 1 3).qpResult 7 = 0) ∧ (((stq 1 3).qp 7).unacked = []) ∧
    ((stq 0 3).qpResult 7 = 0) ∧ (((stq 0 3).qp 7).unacked = []) ∧
    ((stq 1 0).qpResult 7 ≠ 0) ∧
    (field useS.qpStage 3 1 = 0) ∧ (useS.qpInUse 7 = true) ∧ (1 ≤ field useS.qpStage 30 1) ∧ (field useS.qpStage 30 1 ≤ 5) ∧
    (field (stq 0 0).qpStage 30 1 = 0 ∨ 5 < field (stq 0 0).qpStage 30 1) ∧
    (live.host.mode = 0) ∧
    (hpUp.host.mode ≠ 0) ∧
    (BitVec.getLsbD ((hpUp.setReg (pageHost + 8) 1#32).reg (pageHost + 8)) 0 = true) ∧
    (BitVec.toNat ((hpUp.setReg (pageHost + 8) 1#32).stg (pageHost + 256)) / 4 % 2 = 1) ∧
    (1 ≤ min (BitVec.toNat ((hpUp.setReg (pageHost + 8) 1#32).stg (pageHost + 256)) % 4) (2#2).toNat) ∧
    (BitVec.getLsbD ((hp0.setReg (pageHost + 8) 1#32).reg (pageHost + 8)) 0 = true) ∧
    (BitVec.toNat ((hp0.setReg (pageHost + 8) 1#32).stg (pageHost + 256)) / 4 % 2 = 0) ∧
    (1 ≤ BitVec.toNat ((hp0.setReg (pageHost + 8) 1#32).stg (pageHost + 256)) % 4) ∧
    (BitVec.toNat ((hp0.setReg (pageHost + 8) 1#32).stg (pageHost + 256)) % 4 ≤ (2#2).toNat) := by
  and_intros <;> decide +kernel

/-- The hypotheses of RegisterAccesses hold, clause by clause. -/
theorem hyps_registerAccesses :
    (live.takes (hh 1 64 2 0).packet = false ∨ (hh 1 64 2 0).udp.toNat ≠ live.rwpPort) ∧
    (ip.takes (hh 1 64 2 0).packet = true) ∧ ((hh 1 64 2 0).udp.toNat = ip.rwpPort) ∧
    (ip.rwpAllowed (hh 1 64 2 0).src = none ∨ (hh 1 64 2 0).magic ≠ 21079#16 ∨ (hh 1 64 2 0).ver ≠ 1#8) ∧
    (alw2.takes (hh 1 64 2 0).packet = true) ∧ ((hh 1 64 2 0).udp.toNat = alw2.rwpPort) ∧ (alw2.rwpAllowed (hh 1 64 2 0).src = some 1) ∧
    ((hh 1 64 2 0).magic = 21079#16) ∧ ((hh 1 64 2 0).ver = 1#8) ∧
    (look (fun _ => none) alw2.host.rwpLast 1 = some (BitVec.toNat (hh 1 64 2 0).seq, d16)) ∧
    (alw.takes (hh 1 64 2 0).packet = true) ∧ ((hh 1 64 2 0).udp.toNat = alw.rwpPort) ∧ (alw.rwpAllowed (hh 1 64 2 0).src = some 1) ∧
    (∀ (q : Nat) (b : List Byte), look (fun _ => none) alw.host.rwpLast 1 = some (q, b) → q ≠ BitVec.toNat (hh 1 64 2 0).seq) ∧
    ((hh 1 64 2 0).op = 1#8) ∧ (rwpStatus (hh 1 64 2 0) true = 0) ∧
    (alw.takes (hh 2 88 2 0).packet = true) ∧ ((hh 2 88 2 0).udp.toNat = alw.rwpPort) ∧ (alw.rwpAllowed (hh 2 88 2 0).src = some 1) ∧
    ((hh 2 88 2 0).magic = 21079#16) ∧ ((hh 2 88 2 0).ver = 1#8) ∧
    (∀ (q : Nat) (b : List Byte), look (fun _ => none) alw.host.rwpLast 1 = some (q, b) → q ≠ BitVec.toNat (hh 2 88 2 0).seq) ∧
    ((hh 2 88 2 0).op = 2#8) ∧ ([1, 2].length = (hh 2 88 2 0).count) ∧ (rwpStatus (hh 2 88 2 0) true = 0) ∧
    (alw.takes (hh 1 2097216 2 0).packet = true) ∧ ((hh 1 2097216 2 0).udp.toNat = alw.rwpPort) ∧
    (alw.rwpAllowed (hh 1 2097216 2 0).src = some 1) ∧ ((hh 1 2097216 2 0).magic = 21079#16) ∧ ((hh 1 2097216 2 0).ver = 1#8) ∧
    (∀ (q : Nat) (b : List Byte), look (fun _ => none) alw.host.rwpLast 1 = some (q, b) → q ≠ BitVec.toNat (hh 1 2097216 2 0).seq) ∧
    ((hh 1 2097216 2 0).op = 1#8) ∧ (rwpStatus (hh 1 2097216 2 0) true ≠ 0) ∧
    (alw.takes (hh 3 64 2 0).packet = true) ∧ ((hh 3 64 2 0).udp.toNat = alw.rwpPort) ∧ (alw.rwpAllowed (hh 3 64 2 0).src = some 1) ∧
    ((hh 3 64 2 0).magic = 21079#16) ∧ ((hh 3 64 2 0).ver = 1#8) ∧
    (∀ (q : Nat) (b : List Byte), look (fun _ => none) alw.host.rwpLast 1 = some (q, b) → q ≠ BitVec.toNat (hh 3 64 2 0).seq) ∧
    ((hh 3 64 2 0).op ≠ 2#8) ∧ ((hh 3 64 2 0).op ≠ 1#8 ∨ [1] ≠ []) ∧
    ([1].length ≠ (hh 2 88 2 0).count) ∧
    ((hh 1 64 2 0).op = 1#8 ∧ ([1] : List Word) ≠ []) ∧
    (regKind (1048832) = RegKind.stg 2047) ∧ (offsetBlock (1048832) = some 1) ∧ (onBench.commit.pending.contains 1 = false) ∧
    (secureReg (1048832) = false) ∧ (1048832 < 2097152 ∨ 3145728 ≤ 1048832) ∧
    (Requester.remote = Requester.remote → onBench.linked = true ∧ onBench.sec.softReset = false) ∧
    (live.linked = false) ∧
    (softB.linked = true) ∧ (softB.sec.softReset = true) ∧
    (onBench.linked = true) ∧ (onBench.sec.softReset = false) ∧ (secureReg (2080) = true) ∧
    (secureReg 0x60 = true) := by
  and_intros <;> first
    | (intro q b h; rw [(by decide +kernel : look (fun _ => none) alw.host.rwpLast 1 = none)] at h; cases h)
    | decide +kernel

end HostSide

/-! ### The staged commit and the sideband -/

namespace Commit

def cm (b q : Bool) (p : List Nat) : State := { live with commit := { State.reset.commit with busy := b, quiet := q, pending := p } }
def nm (s : State) (b : Nat) : State := (s.setReg 0x58 (BitVec.ofNat 32 (2 ^ b))).setReg 0x5C (BitVec.ofNat 32 (2 ^ b / 2 ^ 32))
def sh (s : State) (b o : Nat) (v : Word) : State := nm (s.setShadow o v) b
def good := sh live 1 0x0100104 7
def goodC := sh live 4 (pageSync + 0x100) 5
def bad := nm live 2
def rdy : State := { good with commit := (cm true true [1]).commit, power := { good.power with tickAt := some good.time } }
def rdy5 := { sh live 5 0x0500108 7 with commit := (cm true true [5]).commit }
def rdyA := { sh live 0xA 0x0A00100 7 with commit := (cm true true [0xA]).commit }
def swp : State := (sh (cm true true [0x12]) 0x12 (pageCore 2 + 0x2100) 2).onCore 2 fun c => { c with sfu := { c.sfu with swapPending := true } }
def stuck : State := { (sh (cm true true [0x12]) 0x12 (pageCore 2 + 0x2100) 2) with cores := [(2, { Core.reset with eng := { Engines.reset with flight := some 3, gated := false, fly := [(2, [InFlight.new 0 (word 0x43 2 0 0) 0x400])], nextIid := 1 }, sfu := { Core.reset.sfu with swapPending := true } })], cmd := { State.reset.cmd with flights := [{ fl 3 0 0x12 .running 0 with cores := [2] }] } }
def smb : State := live
def fix (lc : Nat) : State := { live with sec := { live.sec with lc := lc } }
def sideR : State := { live with side := { State.reset.side with resolved := true } }
/-- A commit of several blocks at its quiet point: groups, synchronisation, circulation, queues, port 0 and the links. -/
def rdyM : State := (((({ live with commit := (cm true true [0, 4, 6, 0xA, 0x20, 0x3F]).commit }.setShadow 0x2000 0x100005#32).setShadow
  (pageSync + 0x400) 6#32).setShadow (pageCirc + 0x100) 0x10001#32).setShadow (cqPage 3) 0x35#32).setShadow (pageLink 0 + 0x100) 0#32
def deadC : State := { live with fatal := true }
def resetSide : State := { live with sec := { live.sec with inReset := true } }

/-- The hypotheses of CommitSequence hold, clause by clause. -/
theorem hyps_commitSequence :
    (deadC.fatal = true) ∧
    ((cm true false []).fatal = false) ∧ ((cm true false []).commit.busy = true) ∧
    (goodC.fatal = false) ∧ (goodC.commit.busy = false) ∧
    ({ goodC with commit := { goodC.commit with busy := true, quiet := false, refused := List.filter (fun b => !goodC.namedBlocks.contains b) goodC.commit.refused } }.commitFailure goodC.namedBlocks = none) ∧
    (bad.fatal = false) ∧ (bad.commit.busy = false) ∧
    ({ bad with commit := { bad.commit with busy := true, quiet := false, refused := List.filter (fun b => !bad.namedBlocks.contains b) bad.commit.refused } }.commitFailure bad.namedBlocks = some (1, 2, 0)) ∧
    (live.fatal = false) ∧ (live.commitReady = false) ∧
    (rdy.fatal = false) ∧ (rdy.commitReady = true) ∧
    (rdyM.fatal = false) ∧ (rdyM.commitReady = true) ∧
    (0x2000 ∈ rdyM.writtenOf 0 ∧ rdyM.changedGroups rdyM.commit.pending = [0] ∧ 0x2000 + 20 ∉ rdyM.writtenOf 0) ∧
    (4 ∈ rdyM.commit.pending ∧ (rdyM.shadow (pageSync + 0x400)).getLsbD 1 = true ∧ pageSync + 0x400 ∈ rdyM.writtenOf 4) ∧
    (0x3F ∈ rdyM.commit.pending ∧ 0xA ∈ rdyM.commit.pending ∧ rdyM.cqEn 3 = false ∧ (nextOf (exec .commitApply rdyM)).cqEn 3 = true) ∧
    (0x20 + 0 ∈ rdyM.commit.pending ∧ rdyM.portEn 0 ≠ (nextOf (exec .commitApply rdyM)).portEn 0) ∧
    (rdyM.changedLaces rdyM.commit.pending = [0]) ∧
    (swp.fatal = false) ∧ (swp.commitReady = true) ∧ (swp.commit.pending = [16 + 2]) ∧ ((swp.core 2).sfu.swapPending = true) ∧
    ((swp.core 2).eng.flight = none) ∧
    (stuck.fatal = false) ∧ (stuck.commit.busy = true) ∧ (stuck.commit.quiet = true) ∧
    (List.find? (fun b => !stuck.blockQuiet b) stuck.commit.pending = some 18) ∧
    (live.commit.busy = false ∨ live.commit.quiet = false) := by
  and_intros <;> first
    | (with_reducible refine nextSelf ?_; decide +kernel)
    | decide +kernel

/-- The hypotheses of SideInterfaces hold, clause by clause. -/
theorem hyps_sideInterfaces :
    (live.sec.inReset = false) ∧
    (resetSide.sec.inReset = true) ∧
    (live.side.address = 90) ∧
    (live.side.address ≠ 91) ∧
    (live.side.resolved = false) ∧
    (sideR.side.resolved = true) ∧
    (false = true ∨ 11 = 0 ∨ 10 < 11) ∧
    ((fix 2).debugPerm 2 = false) ∧
    ((fix 0).debugPerm 2 = true) := by
  and_intros <;> decide +kernel

end Commit

/-! ### The life cycle, the placement table, and the statements over all commands -/

/-- The life-cycle state and whether the chip is provisioned. -/
def inState (lc : Nat) (p : Bool) : State := { live with sec := { live.sec with lc := lc, provisioned := p } }

/-- The hypotheses of LifeCycleTransitions hold, clause by clause: a transition that is free, one that is neither free nor needs a token,
whatever the variant. -/
theorem hyps_lifeCycleTransitions :
    ((inState 2 false).mem.wiping = false ∧ (inState 2 false).sec.mbox = none ∧ (inState 2 false).disc.busy = false ∧
      (inState 2 false).fatal = false ∧ (inState 2 false).sec.lc ≠ 4) ∧
    ((inState 4 false).mem.wiping = false ∧ (inState 4 false).sec.mbox = none ∧ (inState 4 false).disc.busy = false ∧
      (inState 4 false).fatal = false) ∧
    (let f := (inState 4 false).sec.lc
     ¬ ((4 = 4 ∧ f ≠ 4) ∨ (Config.isVariantE = false ∧ f = 1 ∧ 4 = 2 ∧ (inState 4 false).sec.provisioned = true)) ∧
      ¬ (Config.isVariantE = false ∧ ((f = 0 ∧ 4 = 1) ∨ (f = 2 ∧ 4 = 3)))) := by
  and_intros <;> first | decide +kernel | simp [inState]

/-- The hypotheses of the clauses of LifeCycleTransitions about a CZ-5120-L: the variant is fused, so the chip is one by assumption. -/
theorem hyps_lifeCycleTransitionsL (h : Config.isVariantE = false) :
    (Config.isVariantE = false ∧ (inState 1 true).sec.lc = 1 ∧ (inState 1 true).sec.provisioned = true ∧
      (inState 1 true).mem.wiping = false ∧ (inState 1 true).sec.mbox = none ∧ (inState 1 true).disc.busy = false ∧
      (inState 1 true).fatal = false) ∧
    (let s := inState 2 false
     (Config.isVariantE = false ∧ s.sec.lc = 2) ∧ s.mboxAddr % 64 = 0 ∧ s.mboxAddr + tokenBytes ≤ t1Bytes ∧
      s.poisonIn s.mboxAddr tokenBytes = none) := by
  and_intros <;> first | exact h | decide +kernel

def wipingS : State := { live with mem := { live.mem with wiping := true, t1 := [], tables := [] } }
/-- PT_BASE is staged at 8 MiB, over bytes that T1 already holds. -/
def movedS : State :=
  { (State.setShadow (t1At live 0x800000 (bytesOf 64 (2 ^ 500))) (pageMem + 0x100) 0x800000#32).setReg 0x58 0x20#32 with
    commit := { State.reset.commit with busy := true, quiet := true, pending := [5] } }

/-- The hypotheses of PlacementTableStartsFree hold, clause by clause. -/
theorem hyps_placementTableStartsFree :
    wipingS.fatal = false ∧ wipingS.mem.wiping = true ∧ movedS.fatal = false ∧ movedS.commitReady = true ∧ movedS.mem.wiping = false ∧
    5 ∈ movedS.commit.pending ∧ movedS.ptBaseWritten = true := by
  and_intros <;> decide +kernel

/-- The hypotheses of StepsKeepMemoryForm hold, in a wipe too. -/
theorem hyps_stepsKeepMemoryForm :
    live.mem.wf = true ∧ (live.mem.wiping = true → live.mem.tables = []) ∧
    (∃ t, step live = .next t) ∧ wipingS.mem.wf = true ∧ wipingS.mem.tables = [] ∧ (∃ t, step wipingS = .next t) := by
  refine ⟨by decide +kernel, by decide, ⟨_, nextSelf (by decide +kernel)⟩, by decide +kernel, by decide, ⟨_, nextSelf (by decide +kernel)⟩⟩

def fatalS : State := { live with fatal := true }

/-- The hypotheses of FatalStands hold, for a command with an effect and for one without. -/
theorem hyps_fatalStands :
    fatalS.fatal = true ∧ Instr.jtagTapReset ≠ .coldReset ∧ Instr.jtagTapReset ≠ .warmReset ∧
    (∃ t, exec .jtagTapReset fatalS = .next t) ∧ (∃ t, exec .powerTick fatalS = .next t) := by
  refine ⟨rfl, by decide, by decide, ⟨_, nextSelf (by decide +kernel)⟩, ⟨_, nextSelf (by decide +kernel)⟩⟩

/-- The hypothesis of WhereTheModelStops holds, and its exception can hold: a debug permission stands. -/
theorem hyps_whereTheModelStops :
    Instr.wf .powerTick = true ∧ ({ live with sec := { live.sec with lc := 2, perms := some 0xFF } } : State).debugPerm 2 = true := by
  decide +kernel

end Sys2Proof.Machine.Tests
end

section
/-! SUPPORT. INSTRUCTION_COMPLETE (R83, R84): how the oldest instruction of an engine leaves, and how its signal arrives at its core's
counter. -/

namespace Sys2Proof.Machine

/-! ### An increment within bounds (R113, R116, R117) -/

theorem raised_eq_ok {i v amount : Nat} (h : v + amount < if 96 ≤ i then 2 ^ 32 else 2 ^ 48) :
    raised (decide (96 ≤ i)) v amount = .ok (v + amount) := by
  by_cases hi : 96 ≤ i
  · rw [if_pos hi] at h
    simp only [raised, hi, decide_true, if_true, creditLimit]
    exact if_neg (Nat.not_le.mpr h)
  · rw [if_neg hi] at h
    simp only [raised, hi, decide_false, Bool.false_eq_true, if_false, eventLimit]
    exact if_neg (Nat.not_le.mpr h)

namespace State

/-- A core that runs a command accepts an increment that stays below the bound of its counter's kind. -/
theorem addCore_accepted {s : State} {n i amount : Nat} (src : Nat) (hrun : (s.core n).eng.flight.isSome = true)
    (hfit : s.coreCtr n i + amount < if 96 ≤ i then 2 ^ 32 else 2 ^ 48) :
    s.addCore n i amount src = ((s.setCoreCtr n i (s.coreCtr n i + amount)).noteLast (coreKey n i) src amount, none) := by
  have hnot : (s.core n).eng.flight.isNone = false := by
    rw [← Option.not_isSome, hrun]; rfl
  simp only [addCore, hnot, raised_eq_ok hfit, Bool.false_eq_true, if_false]

theorem noteLast_coreCtr (s : State) (key src amount n i : Nat) : (s.noteLast key src amount).coreCtr n i = s.coreCtr n i := rfl

/-- What DBG_LAST_SRC keeps is no chip counter (R134). -/
theorem noteLast_sync_ctr (s : State) (key src amount : Nat) : (s.noteLast key src amount).sync.ctr = s.sync.ctr := rfl

/-! ### What changes nothing -/

theorem traceEvent_untraced {s : State} {n e w pc : Nat} {b : Bool} (h : traceFlag w = false) : s.traceEvent n e w pc b = s := by
  simp [traceEvent, h]

theorem coreReport_unfailed {s : State} {n : Nat} (h : (s.core n).eng.failed = none) : s.coreReport n = s := by
  simp [coreReport, h]

theorem live_of_not_fatal {s : State} (r : Out) (h : s.fatal = false) : s.live r = r := by
  simp [live, h]

/-- An engine whose oldest instruction has not reached its completion point stays as it is. -/
theorem completeStep_incomplete {s : State} {n e : Nat} {i : InFlight} {rest : List InFlight}
    (hfly : (s.core n).eng.flyOf e = i :: rest) (hdone : (s.core n).eng.complete i = false) : s.completeStep n e = s := by
  simp [completeStep, hfly, hdone]

/-! ### The oldest instruction leaves -/

/-- The oldest instruction, of opcode `op`, has left engine e of core n, where `rest` stay behind; its signal has not been raised. -/
def departed (s : State) (n e op : Nat) (rest : List InFlight) : State :=
  let s := s.onEng n fun g => { g with fly := store noFly g.fly e rest }
  if op = 0x23 then s.onPlane n Plane.clearBanks else s

/-- The oldest instruction, of word `x`, has left engine e of core n, and the counter that it names has gained one. -/
def signalled (s : State) (n e x : Nat) (rest : List InFlight) : State :=
  ((s.departed n e (opOf x) rest).setCoreCtr n (sigCtr x) (s.coreCtr n (sigCtr x) + 1)).noteLast
    (coreKey n (sigCtr x)) (srcWord s.chipId 0 n e) 1

section
variable (s : State) (n e op x : Nat) (rest : List InFlight)

/-- Only the core itself changes: the instructions in flight, and for ATTN_KV its banks (R224). -/
theorem departed_core (m : Nat) : (s.departed n e op rest).core m =
    if m = n then { s.core n with
      eng := { (s.core n).eng with fly := store noFly (s.core n).eng.fly e rest },
      plane := if op = 0x23 then (s.core n).plane.clearBanks else (s.core n).plane }
    else s.core m := by
  by_cases hop : op = 0x23 <;> by_cases hm : m = n <;> simp [departed, hop, hm]

theorem departed_frame : s.departed n e op rest = { s with cores := (s.departed n e op rest).cores } := by
  by_cases hop : op = 0x23
  · subst hop; rfl
  · simp only [departed, if_neg hop]; rfl

@[simp] theorem departed_sync : (s.departed n e op rest).sync = s.sync := by rw [departed_frame]

@[simp] theorem departed_chipId : (s.departed n e op rest).chipId = s.chipId := by rw [departed_frame]; rfl

@[simp] theorem departed_coreCtr (m j : Nat) : (s.departed n e op rest).coreCtr m j = s.coreCtr m j := by
  rw [coreCtr, coreCtr, departed_core]
  split
  · next h => rw [h]
  · rfl

theorem signalled_core (m : Nat) : (s.signalled n e x rest).core m =
    if m = n then { s.core n with
      eng := { (s.core n).eng with fly := store noFly (s.core n).eng.fly e rest },
      plane := if opOf x = 0x23 then (s.core n).plane.clearBanks else (s.core n).plane,
      ctr := store noCount (s.core n).ctr (sigCtr x) (s.coreCtr n (sigCtr x) + 1) }
    else s.core m := by
  rw [signalled, noteLast_core, core_setCoreCtr, departed_core, departed_core]
  split
  · rw [if_pos rfl]
  · rfl

theorem signalled_coreCtr (j : Nat) :
    (s.signalled n e x rest).coreCtr n j = if j = sigCtr x then s.coreCtr n (sigCtr x) + 1 else s.coreCtr n j := by
  rw [signalled, noteLast_coreCtr, coreCtr_setCoreCtr, departed_coreCtr]
  simp only [true_and]

theorem signalled_frame : s.signalled n e x rest =
    { s with cores := (s.signalled n e x rest).cores, sync := (s.signalled n e x rest).sync } := by
  rw [signalled, departed_frame]; rfl

theorem signalled_sync_ctr : (s.signalled n e x rest).sync.ctr = s.sync.ctr := by
  rw [signalled, noteLast_sync_ctr, setCoreCtr_sync, departed_sync]

end

/-- The oldest instruction of an engine is complete, neither traced nor cut, and signals a counter with room, in a core that runs a
command and has not failed: it leaves, its signal is counted, and its command may end (R83). -/
theorem completeStep_signals {s : State} {n e id : Nat} {i : InFlight} {rest : List InFlight}
    (hfly : (s.core n).eng.flyOf e = i :: rest) (hdone : (s.core n).eng.complete i = true)
    (hrun : (s.core n).eng.flight = some id) (hok : (s.core n).eng.failed = none)
    (htrace : traceFlag i.word.toNat = false) (hsig : sigEn i.word.toNat = true) (hcut : i.cut = false)
    (hfit : s.coreCtr n (sigCtr i.word.toNat) + 1 < if 96 ≤ sigCtr i.word.toNat then 2 ^ 32 else 2 ^ 48) :
    s.completeStep n e = (s.signalled n e i.word.toNat rest).settle id := by
  have hadd : (s.departed n e (opOf i.word.toNat) rest).addCore n (sigCtr i.word.toNat) 1 (srcWord s.chipId 0 n e) =
      (s.signalled n e i.word.toNat rest, none) := by
    rw [addCore_accepted _ (by simp [departed_core, hrun]) (by rwa [departed_coreCtr]), departed_coreCtr]
    rfl
  have hrep : (s.signalled n e i.word.toNat rest).coreReport n = s.signalled n e i.word.toNat rest :=
    coreReport_unfailed (by simp [signalled_core, hok])
  have hid := s.departed_chipId n e (opOf i.word.toNat) rest
  rw [departed] at hadd hid
  simp only [completeStep, hfly, hdone, htrace, traceEvent_untraced, hsig, hcut, hid, hadd, hrep, hrun, Bool.not_true, Bool.not_false,
    Bool.and_self, Bool.false_eq_true, if_false, if_true]

end State

theorem exec_instructionComplete (c : Fin 8) (e : Engine) (s : State) :
    exec (.instructionComplete c e) s = s.live (.next (s.completeStep c e.idx)) := rfl

/-- Settles O4: an incomplete instruction leaves nothing to do, and a complete one that signals leads to `State.signalled`. -/
theorem completionSignals : Obligations.CompletionSignals := by
  unfold Obligations.CompletionSignals
  intro c e s i rest g x hfly
  constructor
  · intro hdone
    rw [exec_instructionComplete, State.completeStep_incomplete hfly hdone]
    exact ite_self _
  · intro id hlive hdone hrun hok htrace hsig hcut hfit
    refine ⟨s.signalled c e.idx x rest, ?_, ?_, ?_, ?_, ?_, ?_, s.signalled_frame .., s.signalled_sync_ctr ..⟩
    · rw [exec_instructionComplete, State.live_of_not_fatal _ hlive,
        State.completeStep_signals hfly hdone hrun hok htrace hsig hcut hfit]
    · rw [State.signalled_core, if_pos rfl]
      exact look_store_self ..
    · rw [State.signalled_coreCtr, if_pos rfl]
    · intro j hj
      rw [State.signalled_coreCtr, if_neg hj]
    · rw [State.signalled_core, if_pos rfl]
    · intro m hm
      rw [State.signalled_core, if_neg hm]

end Sys2Proof.Machine
end

section
/-! SUPPORT. KV_APPEND and TRIM (R253 to R255): the steps on pages, lists and rows leave the commands in flight alone, an append goes through
the rows of its table one after another, and a command whose work here is done keeps what it reports while its cores end. -/

namespace Sys2Proof.Machine

/-! ### What a step of the control cores yields when nothing stops it -/

/-- If the step goes through, its value has the property. -/
def Kv.Yields {α : Type} (P : α → Prop) (x : Kv α) : Prop := ∀ a, x = .ok a → P a

namespace Kv.Yields

variable {α β : Type} {P : α → Prop}

theorem pure {a : α} (h : P a) : Yields P (Pure.pure a : Kv α) := by
  rintro _ ⟨⟩
  exact h

theorem throw (e : KvErr) : Yields P (MonadExcept.throw e : Kv α) := nofun

theorem mono {Q : α → Prop} {x : Kv α} (hx : Yields P x) (h : ∀ a, P a → Q a) : Yields Q x := fun a ha => h a (hx a ha)

theorem bind {x : Kv β} {f : β → Kv α} (h : ∀ b, x = .ok b → Yields P (f b)) : Yields P (x >>= f) := by
  cases x with
  | error e => nofun
  | ok b => exact h b rfl

theorem ite {c : Prop} [Decidable c] {x y : Kv α} (hx : Yields P x) (hy : Yields P y) : Yields P (if c then x else y) := by
  split
  · exact hx
  · exact hy

/-- What every round of a loop keeps, the loop keeps. -/
theorem foldlM {f : α → β → Kv α} (h : ∀ a b, P a → Yields P (f a b)) (l : List β) {a : α} (ha : P a) : Yields P (l.foldlM f a) := by
  induction l generalizing a with
  | nil => exact .pure ha
  | cons b l ih => exact .bind fun c hc => ih (h a b ha c hc)

end Kv.Yields

/-- What every round of a loop leaves alone, the loop leaves alone. -/
theorem foldl_keeps {α β γ : Type} (view : α → γ) {f : α → β → α} (h : ∀ a b, view (f a b) = view a) (l : List β) (a : α) :
    view (l.foldl f a) = view a := by
  induction l generalizing a with
  | nil => rfl
  | cons b l ih => exact (ih _).trans (h a b)

namespace State

/-! ### Commands in flight -/

theorem flight?_of_cmd {s t : State} (h : t.cmd = s.cmd) (id : Nat) : t.flight? id = s.flight? id := by
  rw [flight?, flight?, h]

/-- An update of a command that keeps its number shows in that command. -/
theorem flight?_onFlight (s : State) (id : Nat) {g : Flight → Flight} (hg : ∀ f, (g f).id = f.id) :
    (s.onFlight id g).flight? id = (s.flight? id).map g := by
  simp only [flight?, onFlight, List.find?_map]
  have hid : ((fun f : Flight => decide (f.id = id)) ∘ fun f => if f.id = id then g f else f) = fun f => decide (f.id = id) := by
    funext f
    by_cases h : f.id = id <;> simp [h, hg]
  rw [hid]
  refine Option.map_congr fun f hf => ?_
  exact if_pos (of_decide_eq_true (List.find?_some hf :))

/-! ### Objects, pages and lists: no step touches a command -/

@[simp] theorem markDirty_cmd (s : State) (e : Entry) (off n : Nat) : (s.markDirty e off n).cmd = s.cmd := by
  unfold markDirty
  split <;> rfl

@[simp] theorem setObj_cmd (s : State) (e : Entry) (off : Nat) (bs : List Byte) : (s.setObj e off bs).cmd = s.cmd := by
  unfold setObj
  rw [markDirty_cmd]
  refine foldl_keeps State.cmd (fun t x => ?_) _ s
  split <;> rfl

/-- A write of an object that lies whole in T1 is a write of T1 (R193). -/
theorem setObj_pinned (s : State) {e : Entry} (h : e.policy = 1) (off : Nat) (bs : List Byte) :
    s.setObj e off bs = s.setT1 (e.t1Base + off) bs := by
  simp [setObj, Entry.parts, objT1, markDirty, h]

@[simp] theorem setMeta_cmd (s : State) (p : Pool) (off n v : Nat) : (s.setMeta p off n v).cmd = s.cmd := setObj_cmd ..

@[simp] theorem setPageState_cmd (s : State) (p : Pool) (page : Nat) (x : PageState) : (s.setPageState p page x).cmd = s.cmd :=
  setObj_cmd ..

@[simp] theorem setList_cmd (s : State) (p : Pool) (q : Seq) (l : List PageEntry) : (s.setList p q l).cmd = s.cmd := by
  rw [setList, setMeta_cmd, setObj_cmd]

@[simp] theorem setLen_cmd (s : State) (p : Pool) (q : Seq) (n : Nat) : (s.setLen p q n).cmd = s.cmd := setMeta_cmd ..

@[simp] theorem addSat_cmd (s : State) (n k : Nat) : (s.addSat n k).cmd = s.cmd := by
  unfold addSat
  dsimp only
  split
  · rfl
  · exact setReg_cmd ..

theorem allocPage_cmd (s : State) (p : Pool) : Kv.Yields (fun r => r.2.cmd = s.cmd) (s.allocPage p) := by
  unfold allocPage
  exact .bind fun _ _ => .ite (.throw _) <| .ite (.throw _) <| .bind fun _ _ => .bind fun _ _ => .pure (by simp)

theorem lowerRefs_cmd (s : State) (p : Pool) (page : Nat) (tree : Bool) :
    Kv.Yields (fun t => t.cmd = s.cmd) (s.lowerRefs p page tree) := by
  unfold lowerRefs
  exact .bind fun _ _ => .ite (.bind fun _ _ => .bind fun _ _ => .pure (by simp)) (.pure (by simp))

@[simp] theorem copyRows_cmd (s : State) (p : Pool) (x : PageEntry) (y : Nat) : (s.copyRows p x y).cmd = s.cmd :=
  foldl_keeps State.cmd (fun _ _ => by simp) _ s

theorem copyPage_cmd (s : State) (p : Pool) (q : Seq) (l : List PageEntry) (x : PageEntry) : (s.copyPage p q l x).1.cmd = s.cmd := by
  unfold copyPage
  split
  · rfl
  · next y t halloc =>
    have ht : t.cmd = s.cmd := allocPage_cmd s p _ halloc
    split
    · exact ht
    · dsimp only
      split
      · simpa using ht
      · next v hlower =>
        rw [setList_cmd, lowerRefs_cmd _ _ _ _ v hlower, copyRows_cmd, ht]

/-! ### The steps of an append (R253) -/

@[simp] theorem storeRow_cmd (s : State) (p : Pool) (layer group page row : Nat) (ps : List (Nat × List Byte)) :
    (s.storeRow p layer group page row ps).cmd = s.cmd := by
  have hps : (ps.foldl (fun t c => t.setObj p.store (p.rowAt layer group page row + c.1) c.2) s).cmd = s.cmd :=
    foldl_keeps State.cmd (fun _ _ => setObj_cmd ..) ps s
  unfold storeRow
  dsimp only
  split
  · rw [setObj_cmd, hps]
  · exact hps

theorem appendPage_cmd (s : State) (p : Pool) (r : AppendRow) : Kv.Yields (fun t => t.cmd = s.cmd) (s.appendPage p r) := by
  unfold appendPage
  refine .bind fun q _ => .bind fun l _ => ?_
  split
  · exact .pure rfl
  · refine .ite (.throw _) (.bind fun x hx => .pure ?_)
    rw [setList_cmd]
    exact allocPage_cmd s p x hx

theorem appendOwn_cmd (s : State) (p : Pool) (r : AppendRow) : (s.appendOwn p r).1.cmd = s.cmd := by
  unfold appendOwn
  split
  · rfl
  · split
    · exact copyPage_cmd ..
    · rfl

theorem appendFill_cmd (s : State) (p : Pool) (layer group : Nat) (r : AppendRow) (ps : List (Nat × List Byte)) :
    Kv.Yields (fun t => t.cmd = s.cmd) (s.appendFill p layer group r ps) := by
  unfold appendFill
  exact .bind fun _ _ => .ite (.throw _) (.pure (by simp))

theorem appendOne_cmd (s : State) (p : Pool) (layer group : Nat) (r : AppendRow) (ps : List (Nat × List Byte)) :
    (s.appendOne p layer group r ps).1.cmd = s.cmd := by
  unfold appendOne
  split
  · rfl
  · next u hpage =>
    have hu : u.cmd = s.cmd := appendPage_cmd s p r u hpage
    have hown := appendOwn_cmd u p r
    split
    · next v e hv => rw [hv] at hown; exact hown.trans hu
    · next v hv =>
      rw [hv] at hown
      split
      · exact hown.trans hu
      · next w hfill => exact (appendFill_cmd v p layer group r ps w hfill).trans (hown.trans hu)

/-- One row stored in every group changes no command. -/
theorem appendRow_cmd (s : State) (p : Pool) (f : Flight) (r : AppendRow) : (s.appendRow p f r).1.cmd = s.cmd := by
  unfold appendRow
  dsimp only
  split
  · rfl
  · split
    · rfl
    · refine foldl_keeps (fun x : State × Option KvErr => x.1.cmd) (fun x g => ?_) _ _
      obtain ⟨t, err⟩ := x
      cases err with
      | some e => rfl
      | none =>
        dsimp only
        generalize (if g = 0 then _ else _ : List (Nat × List Byte) × Nat) = form
        have hone := appendOne_cmd t p (f.get 52 2) g r form.1
        split
        · next v e hv => rw [hv] at hone; exact hone
        · next v hv =>
          rw [hv] at hone
          split
          · exact hone
          · exact (addSat_cmd ..).trans hone

theorem appendLens_cmd (s : State) (p : Pool) (tab : List LenEntry) : Kv.Yields (fun t => t.cmd = s.cmd) (s.appendLens p tab) := by
  unfold appendLens
  refine .foldlM (fun t e ht => .ite (.pure ht) (.bind fun q _ => .pure ?_)) tab rfl
  rw [setLen_cmd, ht]

theorem trimSeq_cmd (s : State) (p : Pool) (i len : Nat) : Kv.Yields (fun t => t.cmd = s.cmd) (s.trimSeq p i len) := by
  unfold trimSeq
  refine .bind fun q _ => .ite (.throw _) (.bind fun l _ => .bind fun t ht => .pure ?_)
  rw [setLen_cmd, setList_cmd]
  refine Kv.Yields.foldlM (P := fun t : State => t.cmd = s.cmd) (fun u x hu => ?_) _ rfl t ht
  exact .ite (.pure hu) ((lowerRefs_cmd u p x.page false).mono fun _ hv => hv.trans hu)

/-! ### The start of the command -/

theorem readT1_cmd {s u : State} {off n : Nat} {own : Option Nat} {b : List Byte} (h : s.readT1 off n own = (some b, u)) :
    u.cmd = s.cmd := by
  unfold readT1 at h
  split at h
  · cases (Prod.mk.inj h).1
  · rw [← (Prod.mk.inj h).2]
    exact bump64_cmd ..

/-- A handle that passes its checks changes no command. The read of the table stands as an unknown of which only that is known, since the
kernel would otherwise evaluate it. -/
theorem checkHandle_cmd {s u : State} {h : Nat} {lo hi : Int} {write : Bool} {own : Option Nat} {e : Entry}
    (hok : s.checkHandle h lo hi write own = (.ok e, u)) : u.cmd = s.cmd := by
  unfold checkHandle at hok
  obtain ⟨read, hread, hcmd⟩ : ∃ f, f = State.readT1 ∧ ∀ s off n own b u, f s off n own = (some b, u) → u.cmd = s.cmd :=
    ⟨_, rfl, fun _ _ _ _ _ _ => readT1_cmd⟩
  rw [← hread] at hok
  dsimp only at hok
  split at hok
  · cases (Prod.mk.inj hok).1
  · split at hok
    · cases (Prod.mk.inj hok).1
    · next b v hb =>
      rw [← (Prod.mk.inj hok).2]
      exact hcmd _ _ _ _ b v hb

theorem checkRange_cmd {s u : State} {h : Nat} {lo hi : Int} {write : Bool} {own : Option Nat} {e : Entry}
    (hok : s.checkRange h lo hi write own = (.ok e, u)) : u.cmd = s.cmd := by
  unfold checkRange at hok
  split at hok
  · next e' v hcheck =>
    rw [← (Prod.mk.inj hok).2]
    exact checkHandle_cmd hcheck
  · exact checkHandle_cmd hok

/-- Finding a pool that passes its checks changes no command. What `entriesUe` yields plays no part: it stands as an unknown, since the kernel
would otherwise evaluate it. -/
theorem pool_cmd {s u : State} {h id : Nat} {p : Pool} (hok : s.pool h id = (.ok p, u)) : u.cmd = s.cmd := by
  unfold pool at hok
  obtain ⟨ue, hue⟩ : ∃ f, f = State.entriesUe := ⟨_, rfl⟩
  rw [← hue] at hok
  split at hok
  · cases (Prod.mk.inj hok).1
  · next e v hrange =>
    split at hok
    · cases (Prod.mk.inj hok).1
    · dsimp only at hok
      split at hok
      · cases (Prod.mk.inj hok).1
      · cases (Prod.mk.inj hok).1
      · rw [← (Prod.mk.inj hok).2]
        exact checkRange_cmd hrange

theorem loadStream_cmd (s : State) (m : Image) (n : Nat) : (s.loadStream m n).cmd = s.cmd := by
  unfold loadStream
  split <;> rfl

/-- An operator that starts marks its command as running and changes no other part of a command. -/
theorem runCores_cmd (s : State) (f : Flight) : (s.runCores f).cmd = (s.onFlight f.id fun f => { f with stage := .running }).cmd := by
  unfold runCores
  dsimp only
  split
  · rfl
  · next m _ => exact foldl_keeps State.cmd (fun t n => loadStream_cmd t m n) _ _

/-- A command that has started its cores and found its pool is running, and is otherwise as it was. -/
theorem flight?_started {s u : State} {f : Flight} {h : Nat} {p : Pool} (hf : s.flight? f.id = some f)
    (hpool : (s.runCores f).pool h f.id = (.ok p, u)) : u.flight? f.id = some { f with stage := .running } := by
  rw [flight?_of_cmd (pool_cmd hpool), flight?_of_cmd (runCores_cmd s f), flight?_onFlight _ _ (by exact fun _ => rfl), hf]
  rfl

/-! ### A command whose work here is done -/

/-- What `settle` does is to keep the lists of the cores it frees and to end the command: what these leave alone, it leaves alone. -/
theorem settle_keeps {γ : Type} (view : State → γ) {id : Nat}
    (hlists : ∀ s ls, view (s.onFlight id fun f => { f with lists := f.lists ++ ls }) = view s)
    (hfree : ∀ s n, view (s.onEng n Engines.release) = view s) (hend : ∀ s, view (s.onFlight id Flight.finish) = view s) (s : State) :
    view (s.settle id) = view s := by
  unfold settle
  split
  · rfl
  · next f _ =>
    have hcores := foldl_keeps view (f := fun (s : State) n =>
        let g := (s.core n).eng
        let done := f.cut || (decide (g.halted = 15) && g.failed.isNone)
        if g.drained && done then
          let ls := s.scanLists f n
          (s.onFlight id fun f => { f with lists := f.lists ++ ls }).onEng n Engines.release
        else s) (fun t n => by
      dsimp only
      split
      · rw [hfree, hlists]
      · rfl) (s.coresOf id) s
    dsimp only
    split
    · rw [hend, hcores]
    · exact hcores

end State

/-- What a command has reported and how far it has come. -/
def Flight.outcome (f : Flight) : Nat × Nat × Nat := (f.result, f.error, f.round)

namespace State

theorem onFlight_outcome (s : State) (id : Nat) {g : Flight → Flight} (hid : ∀ f, (g f).id = f.id) (hg : ∀ f, (g f).outcome = f.outcome) :
    ((s.onFlight id g).flight? id).map Flight.outcome = (s.flight? id).map Flight.outcome := by
  rw [flight?_onFlight _ _ hid, Option.map_map]
  exact congrArg (Option.map · _) (funext hg)

theorem settle_outcome (s : State) (id : Nat) : ((s.settle id).flight? id).map Flight.outcome = (s.flight? id).map Flight.outcome :=
  settle_keeps (fun s => (s.flight? id).map Flight.outcome) (fun s _ => onFlight_outcome s id (fun _ => rfl) fun _ => rfl)
    (fun _ _ => rfl) (fun s => onFlight_outcome s id (fun _ => rfl) fun _ => rfl) s

theorem settle_mem (s : State) (id : Nat) : (s.settle id).mem = s.mem :=
  settle_keeps State.mem (fun _ _ => rfl) (fun _ _ => rfl) (fun _ => rfl) s

theorem controlDone_mem (s : State) (id result : Nat) : (s.controlDone id result).mem = s.mem := by
  unfold controlDone
  dsimp only
  split
  · rfl
  · split
    · rfl
    · exact settle_mem ..

/-- The command holds its result and keeps its error and its progress; without cores it has ended. -/
theorem controlDone_flight {s : State} {id : Nat} {f : Flight} (result : Nat) (hf : s.flight? id = some f) :
    ∃ g, (s.controlDone id result).flight? id = some g ∧ g.result = result ∧ g.error = f.error ∧ g.round = f.round ∧
      (f.cores = [] → g.stage = .ended) := by
  have hset : (s.onFlight id fun f => { f with result := result, halted := none, scratch := [1] }).flight? id =
      some { f with result := result, halted := none, scratch := [1] } := by
    rw [flight?_onFlight _ _ (by exact fun _ => rfl), hf]
    rfl
  simp only [controlDone, hset]
  by_cases hc : f.cores = []
  · refine ⟨{ f with result := result, halted := none, scratch := [1], stage := .ended }, ?_, rfl, rfl, rfl, fun _ => rfl⟩
    rw [if_pos hc, flight?_onFlight _ _ (by exact fun _ => rfl), hset]
    rfl
  · rw [if_neg hc]
    have hout := settle_outcome (s.onFlight id fun f => { f with result := result, halted := none, scratch := [1] }) id
    rw [hset] at hout
    obtain ⟨g, hg, heq⟩ := Option.map_eq_some_iff.mp hout
    obtain ⟨hresult, herror, hround⟩ : g.result = result ∧ g.error = f.error ∧ g.round = f.round := by
      simpa [Flight.outcome] using heq
    exact ⟨g, hg, hresult, herror, hround, fun h => absurd h hc⟩

/-! ### Row after row (R253), sequence after sequence (R255) -/

/-- An append whose command has passed every row sets LEN of its sequences and is done. -/
theorem appendGo_end {n id : Nat} {s w : State} {f : Flight} {p : Pool} {tab : List LenEntry} {rows : List AppendRow}
    (hf : s.flight? id = some f) (hrun : f.stage = .running) (hrow : rows[f.round]? = none) (hlens : s.appendLens p tab = .ok w) :
    State.appendGo (n + 1) s id p tab rows = w.controlDone id (w.firstLen p tab) := by
  simp only [appendGo, hf, hrun, hrow, hlens, ne_eq, not_true_eq_false, if_false]

/-- An append stores the row it has reached, when what the row needs of STORE is there, and goes on with the next. -/
theorem appendGo_row {n id : Nat} {s u : State} {f : Flight} {p : Pool} {tab : List LenEntry} {rows : List AppendRow} {r : AppendRow}
    {need : AppendNeeds} (hf : s.flight? id = some f) (hrun : f.stage = .running) (hrow : rows[f.round]? = some r)
    (hneed : s.appendNeeds p (f.get 52 2) r = .ok need) (hin : ∀ x ∈ need.reads ++ need.writes, s.inT1 p.store x)
    (hclean : ∀ x ∈ need.reads, s.objPoison p.store x.1 x.2 = none) (hstore : s.appendRow p f r = (u, none)) :
    State.appendGo (n + 1) s id p tab rows =
      State.appendGo n (u.onFlight id fun f => { f with round := f.round + 1 }) id p tab rows := by
  have habsent : ((need.reads ++ need.writes).map fun x => s.absent p.store x.1 x.2).flatten = [] := by
    rw [List.flatten_eq_nil_iff, List.forall_mem_map]
    exact fun x hx => (hin x hx).1
  have hlost : ((need.reads ++ need.writes).any fun x => s.lostIn p.store x.1 x.2) = false := by
    rw [List.any_eq_false]
    exact fun x hx => Bool.eq_false_iff.mp (hin x hx).2
  have hpoison : (need.reads.findSome? fun x => s.objPoison p.store x.1 x.2) = none := List.findSome?_eq_none_iff.mpr hclean
  simp only [appendGo, hf, hrun, hrow, hneed, habsent, hlost, hpoison, hstore, ne_eq, not_true_eq_false, Bool.false_eq_true, if_false]

/-- An append that stores all its rows goes through them in order and then sets LEN; its command counts the rows. -/
theorem appendGo_storesRows {v w : State} {f : Flight} {p : Pool} {tab : List LenEntry} {rows rest : List AppendRow}
    (hrun : f.stage = .running) (hlens : v.appendLens p tab = .ok w) {n k : Nat} {s : State} (hn : rest.length < n)
    (hrest : rows.drop k = rest) (hf : s.flight? f.id = some { f with round := k }) (hstores : s.storesRows p f rest v) :
    State.appendGo n s f.id p tab rows = w.controlDone f.id (w.firstLen p tab) ∧
      w.flight? f.id = some { f with round := k + rest.length } := by
  induction rest generalizing n k s with
  | nil =>
    cases hstores
    obtain ⟨n, rfl⟩ := Nat.exists_eq_succ_of_ne_zero (Nat.ne_zero_of_lt hn)
    refine ⟨appendGo_end hf hrun ?_ hlens, (flight?_of_cmd (appendLens_cmd v p tab w hlens) _).trans hf⟩
    rw [List.getElem?_eq_none_iff]
    exact List.drop_eq_nil_iff.mp hrest
  | cons r rest ih =>
    obtain ⟨need, u, hneed, hin, hclean, hstore, hnext⟩ := hstores
    obtain ⟨n, rfl⟩ := Nat.exists_eq_succ_of_ne_zero (Nat.ne_zero_of_lt hn)
    have hrow : rows[k]? = some r := by
      rw [← List.head?_drop, hrest]
      rfl
    have hu : u.cmd = s.cmd := by
      have h := appendRow_cmd s p f r
      rwa [hstore] at h
    have hk : (u.onFlight f.id fun g => { g with round := g.round + 1 }).flight? f.id = some { f with round := k + 1 } := by
      rw [flight?_onFlight _ _ (by exact fun _ => rfl), flight?_of_cmd hu, hf]
      rfl
    have hdrop : rows.drop (k + 1) = rest := by
      rw [← List.tail_drop, hrest]
      rfl
    obtain ⟨hgo, hw⟩ := ih (n := n) (by simpa using hn) hdrop hk hnext
    refine ⟨(appendGo_row hf hrun hrow hneed hin hclean hstore).trans hgo, ?_⟩
    rw [hw, List.length_cons, Nat.add_right_comm, Nat.add_assoc]

/-- Trimming every sequence of a table goes through all of them when no trim fails. -/
theorem trimAll_ok {id : Nat} {p : Pool} {tab : List LenEntry} {s v : State}
    (h : (tab.foldlM (fun x e => x.trimSeq p e.seq e.kvLen) s : Kv State) = .ok v) : s.trimAll id p tab = v := by
  induction tab generalizing s with
  | nil =>
    cases h
    rfl
  | cons e rest ih =>
    rw [List.foldlM_cons] at h
    cases htrim : s.trimSeq p e.seq e.kvLen with
    | error x =>
      rw [htrim] at h
      cases h
    | ok t =>
      rw [htrim] at h
      simpa only [trimAll, htrim] using ih h

theorem trims_cmd (s : State) (p : Pool) (tab : List LenEntry) :
    Kv.Yields (fun t => t.cmd = s.cmd) (tab.foldlM (fun x e => x.trimSeq p e.seq e.kvLen) s) :=
  .foldlM (fun t e ht => (trimSeq_cmd t p e.seq e.kvLen).mono fun _ hu => hu.trans ht) tab rfl

/-- A row that does not complete its page, of one piece, in a STORE that lies whole in T1: one write at the place of R246. -/
theorem storeRow_pinned (s : State) {p : Pool} (layer group page : Nat) {row : Nat} (bytes : List Byte) (hpin : p.store.policy = 1)
    (hrow : row ≠ 255) : s.storeRow p layer group page row [(0, bytes)] = s.setT1 (p.store.t1Base + p.rowAt layer group page row) bytes := by
  simp only [storeRow, List.foldl_cons, List.foldl_nil, if_neg hrow, setObj_pinned s hpin, Nat.add_zero]

end State

/-! ### The two operators -/

theorem exec_kvAppend {q : Fin 64} {s : State} {f : Flight} (hwipe : s.mem.wiping = false)
    (hfind : (s.cmd.flights.find? fun f => f.queue = q.val && f.opcode = 0x13 && !(f.get 55 1).testBit 0 && f.stage != .ended) = some f)
    (hstage : f.stage = .started) : exec (.kvAppend q) s = .next ((s.runCores f).append f) := by
  simp only [exec, execKvAppend, hwipe, hfind, hstage, Bool.false_eq_true, if_false, if_true]

/-- An append whose pool, length table and fields pass their checks goes through its rows. -/
theorem State.append_begins {s u : State} {f : Flight} {p : Pool} {tab : List LenEntry} (hpool : s.pool (f.get 48 4) f.id = (.ok p, u))
    (htab : u.lenTab f = .ok tab) (hcode : u.appendCode f p tab = none) :
    s.append f = State.appendGo ((u.appendRows f tab).length + 1) u f.id p tab (u.appendRows f tab) := by
  simp only [State.append, hpool, htab, hcode]

theorem exec_trim {q : Fin 64} {s u v : State} {f g : Flight} {p : Pool} {tab : List LenEntry} (hwipe : s.mem.wiping = false)
    (hfind : (s.cmd.flights.find? fun f => f.queue = q.val && f.opcode = 0x13 && (f.get 55 1).testBit 0 && f.stage == .started) = some f)
    (hpool : (s.runCores f).pool (f.get 48 4) f.id = (.ok p, u)) (htab : u.lenTab f = .ok tab) (htrim : u.trimAll f.id p tab = v)
    (hg : v.flight? f.id = some g) (hrun : g.stage = .running) :
    exec (.trim q) s = .next (v.controlDone f.id (v.firstLen p tab)) := by
  simp only [exec, execTrim, hwipe, hfind, hpool, htab, htrim, hg, hrun, Bool.false_eq_true, if_false, if_true]

/-- Settles O24: an append goes through its rows by induction on them and sets LEN, a row is one write of T1, and a trim goes through its
sequences; both then leave their commands as `controlDone` does. -/
theorem kvAppendAndTrim : Obligations.KvAppendAndTrim := by
  unfold Obligations.KvAppendAndTrim
  refine ⟨?_, ?_, ?_⟩
  · intro q s u v w f p tab hwipe f' hfind hstage hround hf hpool htab hcode hstores hlens
    have hrunning : u.flight? f.id = some { f' with round := 0 } := by
      rw [← hround]
      exact State.flight?_started hf hpool
    obtain ⟨hgo, hw⟩ := State.appendGo_storesRows rfl hlens (Nat.lt_succ_self _) List.drop_zero hrunning hstores
    obtain ⟨g, hg, hresult, herror, hrows, hend⟩ := State.controlDone_flight (w.firstLen p tab) hw
    refine ⟨_, g, ?_, hg, hresult, herror, hrows.trans (Nat.zero_add _), hend, State.controlDone_mem ..⟩
    rw [exec_kvAppend hwipe hfind hstage, State.append_begins hpool htab hcode]
    exact congrArg Host.Outcome.next hgo
  · intro s p layer group page row bytes hpin hrow at_
    rw [State.storeRow_pinned s layer group page bytes hpin hrow]
    exact ⟨State.t1_setT1_same .., fun a ha => State.t1_setT1_outside _ _ _ _ ha⟩
  · intro q s u v f p tab hwipe hfind hf hpool htab htrim
    have hv : v.flight? f.id = some { f with stage := .running } :=
      (State.flight?_of_cmd (State.trims_cmd u p tab v htrim) _).trans (State.flight?_started hf hpool)
    obtain ⟨g, hg, hresult, herror, -, hend⟩ := State.controlDone_flight (v.firstLen p tab) hv
    exact ⟨_, g, exec_trim hwipe hfind hpool htab (State.trimAll_ok htrim) hv rfl, hg, hresult, herror, hend, State.controlDone_mem ..⟩

end Sys2Proof.Machine
end

section
/-! SUPPORT. COMMAND_START (R401): what taking the head of a queue changes, and which way the start then goes. -/

namespace Sys2Proof.Machine

namespace State

/-! ### The head leaves its ring and joins the commands in flight -/

/-- Taking a head changes commands and counts only. -/
theorem takeHead_frame (s : State) (q : Nat) (h : Head) : s.takeHead q h =
    { s with cmd := (s.takeHead q h).cmd, win := { s.win with counts := (s.takeHead q h).win.counts } } := by
  unfold takeHead
  dsimp only
  cases h.origin <;> cases h.fmt1 && h.code == 0 <;> rfl

/-- The head takes the queue's next number, last in flight, and leaves the arrivals of its queue. -/
theorem takeHead_cmd (s : State) (q : Nat) (h : Head) : ∃ f : Flight,
    (s.takeHead q h).cmd = { s.cmd with
      flights := s.cmd.flights ++ [f], nextId := s.cmd.nextId + 1, last := q
      queues := modify (fun _ => Queue.reset) s.cmd.queues q fun k => { k with arrivals := h.rest } } ∧
    f.id = s.cmd.nextId ∧ f.queue = q ∧ f.body = h.body ∧ f.stage = .started ∧ f.error = 0 ∧ f.cores = [] ∧ f.started = s.time := by
  unfold takeHead
  dsimp only
  cases h.origin <;> cases h.fmt1 && h.code == 0 <;> exact ⟨_, rfl, rfl, rfl, rfl, rfl, rfl, rfl, rfl⟩

theorem takeHead_queue (s : State) (q : Nat) (h : Head) (k : Nat) :
    (s.takeHead q h).queue k = if k = q then { s.queue q with arrivals := h.rest } else s.queue k := by
  obtain ⟨f, hcmd, -⟩ := s.takeHead_cmd q h
  rw [queue, hcmd]
  exact queue_onQueue ..

/-- The slots of a host's command leave the ring. The counters of commands stand on another page than HEAD (R411, R499). -/
theorem takeHead_cqHead (s : State) (q : Nat) {h : Head} {slot n : Nat} (hring : h.origin = .ring slot n) :
    (s.takeHead q h).cqHead q = (slot + n) % 2 ^ 24 := by
  have hcount : cqPage q + 0x1C ≠ pageControl + 0x48 := by
    unfold cqPage pageControl
    omega
  have hfmt1 : cqPage q + 0x1C ≠ pageControl + 0x4C := by
    unfold cqPage pageControl
    omega
  simp only [takeHead, hring, cqHead]
  split
  · rw [count_bump, if_neg hfmt1, count_bump, if_neg hcount]
    exact (count_setCount ..).trans (if_pos rfl)
  · rw [count_bump, if_neg hcount]
    exact (count_setCount ..).trans (if_pos rfl)

/-! ### The ways of a start -/

section
variable {s : State} {q : Nat} {h : Head} (hslots : s.slotPoison q h = none)
include hslots

/-- A head whose form and lists pass has nothing left to do at its start when it has neither scope nor image. -/
theorem start_takes (hcode : (s.takeHead q h).startCode h = none) (hlists : (s.takeHead q h).listPoison h = none)
    (hscope : h.scope = false) (himage : hasImage h.body = false) : s.start q h = s.takeHead q h := by
  simp only [start, hslots, hcode, hlists, hscope, himage, Bool.false_eq_true, if_false, ite_self]
  split
  · rfl
  · split <;> rfl

theorem start_fails {code : Nat} (hcode : (s.takeHead q h).startCode h = some code) :
    s.start q h = ((s.takeHead q h).tellList h code).failCommand s.cmd.nextId code 0#32 := by
  simp only [start, hslots, hcode]

end

/-- Members are told of the code of a barrier's list alone (R523). -/
theorem tellList_self (s : State) {h : Head} {code : Nat} (hne : h.op ≠ 0x41 ∨ h.scope = true ∨ code ≠ eGroupList) :
    s.tellList h code = s := by
  have hnot : ¬ (h.op = 0x41 ∧ h.scope = false ∧ code = eGroupList) := by
    rintro ⟨hop, hscope, hcode⟩
    simp [hop, hscope, hcode] at hne
  rw [tellList, if_neg hnot]

theorem tellList_barrier (s : State) {h : Head} {g : Group} (hop : h.op = 0x41) (hscope : h.scope = false)
    (hgroup : s.group? h.group = some g) : s.tellList h eGroupList = s.tellBarrier g 0 eGroupList g.position := by
  rw [tellList, if_pos ⟨hop, hscope, rfl⟩, hgroup]

end State

theorem exec_commandStart {q : Fin 64} {s : State} {h : Head} (hstart : s.startable q = some h) (hserved : s.served q h = true) :
    exec (.commandStart q) s = .next (s.start q h) := by
  simp only [exec, execCommandStart, hstart, hserved, if_true]

/-- Settles O15: a start that runs no image and fans out nothing is `State.takeHead`, and one that earns a code ends the command taken. -/
theorem commandStartTakesHead : Obligations.CommandStartTakesHead := by
  unfold Obligations.CommandStartTakesHead
  intro q s h hstart hserved hslots u
  have hexec := exec_commandStart hstart hserved
  refine ⟨?_, ?_, ?_⟩
  · intro hcode hlists hscope himage
    obtain ⟨f, hcmd, hid, hqueue, hbody, hstage, herror, hcores, hstarted⟩ := s.takeHead_cmd q h
    have hframe := s.takeHead_frame q h
    refine ⟨u, f, ?_, (congrArg Commands.flights hcmd :), hid, hqueue, hbody, hstage, herror, hcores, hstarted,
      (congrArg Commands.nextId hcmd :), (congrArg Commands.last hcmd :), ?_, fun slot n hring => s.takeHead_cqHead q hring, ?_,
      (congrArg State.mem hframe :), (congrArg State.cores hframe :), (congrArg (·.win.regs) hframe :)⟩
    · rw [hexec, State.start_takes hslots hcode hlists hscope himage]
    · rw [s.takeHead_queue, if_pos rfl]
    · intro k hk
      rw [s.takeHead_queue, if_neg hk]
  · intro code hcode
    rw [hexec, State.start_fails hslots hcode]
  · rintro code v rfl
    refine ⟨u.tellList_self, ?_⟩
    rintro g hop hscope rfl hgroup
    exact u.tellList_barrier hop hscope hgroup

end Sys2Proof.Machine
end

section
/-! SUPPORT. What leaves the placement table alone (R192, R459). Recording an error and sending a message change registers, counting registers,
what was sent, the ports and the commands (`Reports`). Beyond them the end of a command, a stopped core, a discard, a lost port and a reserve
port that fails change much, but of the memories T0 alone, and no staged word of the memory page (`KeepsTable`): `Stays` does not speak of the
register window. -/

namespace Sys2Proof.Machine

/-- Nothing but registers, counting registers, what was sent, the ports and the commands differs. -/
def State.Reports (s t : State) : Prop :=
  t = { s with win := { s.win with regs := t.win.regs, counts := t.win.counts }, out := t.out, links := t.links, cmd := t.cmd }

/-- The bytes that the placement table consists of, and the staged words of the memory page, of which PT_BASE is two, are the same. -/
structure State.KeepsTable (s t : State) : Prop where
  mem : t.mem = { s.mem with t0 := t.mem.t0 }
  stg : ∀ o, 0x0500000 ≤ o → o < 0x0501000 → t.stg o = s.stg o

namespace State

theorem Reports.refl (s : State) : s.Reports s := rfl

theorem Reports.trans {s t u : State} (h : s.Reports t) (k : t.Reports u) : s.Reports u := by
  unfold Reports at *
  rw [k, h]

theorem Reports.ite {s t u : State} {c : Prop} [Decidable c] (h : s.Reports t) (k : s.Reports u) : s.Reports (if c then t else u) := by
  split
  · exact h
  · exact k

theorem Reports.foldl {α : Type} {f : State → α → State} (h : ∀ (s : State) (x : α), s.Reports (f s x)) (l : List α) (s : State) :
    s.Reports (l.foldl f s) := by
  induction l generalizing s with
  | nil => exact .refl s
  | cons x l ih => exact (h s x).trans (ih _)

theorem KeepsTable.refl (s : State) : s.KeepsTable s := ⟨rfl, fun _ _ _ => rfl⟩

theorem KeepsTable.trans {s t u : State} (h : s.KeepsTable t) (k : t.KeepsTable u) : s.KeepsTable u :=
  ⟨by rw [k.mem, h.mem], fun o hlo hhi => (k.stg o hlo hhi).trans (h.stg o hlo hhi)⟩

theorem KeepsTable.ite {s t u : State} {c : Prop} [Decidable c] (h : s.KeepsTable t) (k : s.KeepsTable u) :
    s.KeepsTable (if c then t else u) := by
  split
  · exact h
  · exact k

theorem KeepsTable.thenIf {s t u : State} {c : Prop} [Decidable c] (h : s.KeepsTable t) (k : t.KeepsTable u) :
    s.KeepsTable (if c then u else t) := .ite (h.trans k) h

/-- A loop leaves alone what its rounds over the members of its list do. -/
theorem KeepsTable.foldl {α : Type} {f : State → α → State} {l : List α} (h : ∀ x ∈ l, ∀ s : State, s.KeepsTable (f s x)) (s : State) :
    s.KeepsTable (l.foldl f s) := by
  induction l generalizing s with
  | nil => exact .refl s
  | cons x l ih => exact (h x List.mem_cons_self s).trans (ih (fun y hy => h y (List.mem_cons_of_mem x hy)) _)

theorem Reports.keepsTable {s t : State} (h : s.Reports t) : s.KeepsTable t := by
  unfold Reports at h
  constructor
  · rw [h]
  · intro o _ _
    rw [h]
    rfl

/-! ### Registers, errors, messages -/

theorem setReg_reports (s : State) (o : Nat) (v : Word) : s.Reports (s.setReg o v) := rfl
theorem bump_reports (s : State) (o n : Nat) : s.Reports (s.bump o n) := rfl
theorem bump64_reports (s : State) (o n : Nat) : s.Reports (s.bump64 o n) := rfl
theorem send_reports (s : State) (m : Sent) : s.Reports (s.send m) := rfl
theorem onFlight_reports (s : State) (id : Nat) (f : Flight → Flight) : s.Reports (s.onFlight id f) := rfl
theorem onPort_reports (s : State) (p : Nat) (f : Port → Port) : s.Reports (s.onPort p f) := rfl

theorem perf_reports (s : State) (b e n : Nat) : s.Reports (s.perf b e n) := .ite (bump64_reports ..) (.refl s)

/-- A block raises its interrupt where its error enables say so. -/
theorem interrupt_reports {s u : State} (h : s.Reports u) (o a : Nat) (v w : Word) (m : Sent) :
    s.Reports (if (u.setReg o v).reg a &&& w ≠ 0#32 then (u.setReg o v).send m else u.setReg o v) :=
  .ite ((h.trans (setReg_reports ..)).trans (send_reports ..)) (h.trans (setReg_reports ..))

theorem errBit_reports (s : State) (page bit : Nat) : s.Reports (s.errBit page bit) := by
  unfold errBit
  refine interrupt_reports ?_ ..
  split
  · exact perf_reports ..
  · exact .refl s

theorem blockErr_reports (s : State) (page bit o : Nat) (v : Word) : s.Reports (s.blockErr page bit o v) :=
  Reports.trans (.ite (setReg_reports ..) (.refl s)) (errBit_reports ..)

theorem recordCode_reports (s : State) (code more : Nat) : s.Reports (s.recordCode code more) := by
  unfold recordCode
  refine .ite (errBit_reports ..) <| .ite (blockErr_reports ..) <| .ite ?_ <| .ite (blockErr_reports ..) <| .ite (blockErr_reports ..) <|
    .ite (blockErr_reports ..) <| .ite (blockErr_reports ..) <| .ite (blockErr_reports ..) <| .ite (blockErr_reports ..) <|
    .ite (blockErr_reports ..) <| .ite (blockErr_reports ..) <| .ite ?_ <| .ite (blockErr_reports ..) (.refl s)
  · exact (Reports.trans (.ite (setReg_reports ..) (.refl s)) (setReg_reports ..)).trans (send_reports ..)
  · exact interrupt_reports (.ite (setReg_reports ..) (.refl s)) ..

theorem logError_reports (s : State) (code q : Nat) (b : Bool) (w : Word) : s.Reports (s.logError code q b w) := .ite (.refl s) rfl

theorem advisory_reports (s : State) (code more : Nat) (own : Option Nat) : s.Reports (s.advisory code more own) := by
  unfold advisory
  cases own with
  | none => exact (recordCode_reports ..).trans (logError_reports ..)
  | some id =>
    refine Reports.trans ?_ (onFlight_reports ..)
    split <;> exact (recordCode_reports ..).trans (logError_reports ..)

theorem drainPort_reports (s : State) (p : Nat) : s.Reports (s.drainPort p) := .ite (.refl s) rfl

theorem transmit_reports (s : State) (p : Nat) (m : LinkMsg) : s.Reports (s.transmit p m) :=
  (onPort_reports ..).trans (drainPort_reports ..)

theorem sendMsg_reports (s : State) (ty src dst h tag a n x : Nat) (e d : List Byte) :
    s.Reports (s.sendMsg ty src dst h tag a n x e d).1 := by
  unfold sendMsg
  split
  · exact .refl s
  · exact (send_reports ..).trans (transmit_reports ..)

theorem awlOn_reports (s : State) (p chip q : Nat) (e d : List Byte) (o : Sent) : s.Reports (s.awlOn p chip q e d o) := by
  have htag : s.Reports { s with cmd := { s.cmd with nextTag := (s.cmd.nextTag + 1) % 2 ^ 32 } } := rfl
  exact (htag.trans (send_reports ..)).trans (transmit_reports ..)

theorem sendFan_reports (s : State) (chip k tag q : Nat) (e d : List Byte) : s.Reports (s.sendFan chip k tag q e d) := by
  unfold sendFan sendAwl
  split
  · exact .refl s
  · exact awlOn_reports ..

theorem eachMember_reports {f : State → Nat → List Byte → State} (h : ∀ (s : State) c b, s.Reports (f s c b)) (s : State)
    (gid level : Nat) : s.Reports (s.eachMember gid level f) := by
  unfold eachMember
  split
  · exact .refl s
  · exact Reports.foldl (fun s x => Reports.foldl (fun s i => .ite (.refl s) (h ..)) _ s) _ s

theorem toMembers_reports (s : State) (gid level kind tag : Nat) (b : List Byte) : s.Reports (s.toMembers gid level kind tag b) :=
  eachMember_reports (fun _ _ _ => sendFan_reports ..) ..

theorem tellEnd_reports (s : State) (gid level tag q code : Nat) : s.Reports (s.tellEnd gid level tag q code) :=
  eachMember_reports (fun _ _ _ => sendFan_reports ..) ..

/-! ### Parts of the state that hold no table -/

theorem withCirc_keepsTable (s : State) (c : Circ) : s.KeepsTable { s with circ := c } := ⟨rfl, fun _ _ _ => rfl⟩
theorem withColl_keepsTable (s : State) (c : Coll) : s.KeepsTable { s with coll := c } := ⟨rfl, fun _ _ _ => rfl⟩
theorem withCores_keepsTable (s : State) (c : Tab Core) : s.KeepsTable { s with cores := c } := ⟨rfl, fun _ _ _ => rfl⟩
theorem withDisc_keepsTable (s : State) (c : Commands) (d : Discard) : s.KeepsTable { s with cmd := c, disc := d } := ⟨rfl, fun _ _ _ => rfl⟩
theorem withTier_keepsTable (s : State) (x : Tier) : s.KeepsTable { s with tier := x } := ⟨rfl, fun _ _ _ => rfl⟩

/-! ### Laces -/

theorem laceNote_reports (s : State) (l : Nat) (d : Dir) (p k : Nat) (b : List Byte) : s.Reports (s.laceNote l d p k b) :=
  .ite (.refl s) (onPort_reports ..)

theorem collAbort_reports (s : State) (l : Nat) (d : Dir) (a : CollAbort) : s.Reports (s.collAbort l d a) := by
  cases a with
  | mismatch => exact ((laceNote_reports ..).trans (laceNote_reports ..)).trans (laceNote_reports ..)
  | error => exact (laceNote_reports ..).trans (laceNote_reports ..)

theorem sendCircAbort_keepsTable (s : State) (ls : List Nat) (code pos : Nat) (came : Option Nat) :
    s.KeepsTable (s.sendCircAbort ls code pos came) :=
  (Reports.foldl (fun _ _ => (laceNote_reports ..).trans (laceNote_reports ..)) ls s).keepsTable.trans (withCirc_keepsTable ..)

theorem ownAbort_keepsTable (s : State) (ls : List Nat) (code l : Nat) : s.KeepsTable (s.ownAbort ls code l) :=
  (((setReg_reports ..).trans (setReg_reports ..)).trans
    (Reports.foldl (fun _ _ => (collAbort_reports ..).trans (collAbort_reports ..)) ls _)).keepsTable.trans (withColl_keepsTable ..)

theorem abortUnbegun_keepsTable (s : State) (id code : Nat) : s.KeepsTable (s.abortUnbegun id code) := by
  unfold abortUnbegun
  split
  · exact .refl s
  · exact .ite (.refl s) (.ite (sendCircAbort_keepsTable ..) (.ite (ownAbort_keepsTable ..) (.refl s)))

theorem endEngines_keepsTable (s : State) (id code : Nat) : s.KeepsTable (s.endEngines id code) := by
  unfold endEngines
  refine (((abortUnbegun_keepsTable s id code).trans (.foldl (fun r _ s => ?_) _)).trans (withCirc_keepsTable ..)).trans
    (.foldl (fun r _ s => ?_) _)
  · exact (sendCircAbort_keepsTable ..).trans (withCirc_keepsTable ..)
  · exact KeepsTable.trans (.ite (ownAbort_keepsTable ..) (.refl s)) (withColl_keepsTable ..)

theorem abortLaces_keepsTable (s : State) (code : Nat) : s.KeepsTable (s.abortLaces code) := by
  unfold abortLaces
  exact ((KeepsTable.foldl (fun id _ s => endEngines_keepsTable s id code) s).trans
    (.foldl (fun l _ s => ownAbort_keepsTable s [l] code l) _)).trans ⟨rfl, fun _ _ _ => rfl⟩

/-! ### Cores, the end of a command, discards -/

theorem setT0_keepsTable (s : State) (o : Nat) (b : List Byte) : s.KeepsTable (s.setT0 o b) := ⟨rfl, fun _ _ _ => rfl⟩

theorem landAll_keepsTable (s : State) (l : List (Nat × List Byte)) : s.KeepsTable (s.landAll l) :=
  .foldl (fun x _ s => setT0_keepsTable s x.1 x.2) s

theorem onEng_keepsTable (s : State) (n : Nat) (f : Engines → Engines) : s.KeepsTable (s.onEng n f) := withCores_keepsTable ..

theorem stopCore_keepsTable (s : State) (n : Nat) : s.KeepsTable (s.stopCore n) := (landAll_keepsTable ..).trans (onEng_keepsTable ..)

theorem settle_keepsTable (s : State) (id : Nat) : s.KeepsTable (s.settle id) where
  mem := by rw [settle_mem]
  stg o _ _ := settle_keeps (·.stg o) (fun _ _ => rfl) (fun _ _ => rfl) (fun _ => rfl) s

/-- The end of a command's part (R441). -/
theorem endPart_keepsTable (s : State) (id code : Nat) : s.KeepsTable (s.endPart id code) := by
  unfold endPart
  have hend (u : State) : u.KeepsTable ((((u.coresOf id).foldl stopCore u).endEngines id code).settle id) :=
    ((KeepsTable.foldl (fun n _ s => stopCore_keepsTable s n) u).trans (endEngines_keepsTable ..)).trans (settle_keepsTable ..)
  have h := (onFlight_reports s id fun f => { f with cut := true }).keepsTable.trans (hend _)
  exact .ite (h.trans (onFlight_reports ..).keepsTable) h

theorem endCommand_keepsTable (s : State) (id code : Nat) (v : Word) : s.KeepsTable (s.endCommand id code v) := by
  unfold endCommand
  split
  · exact .refl s
  · exact .ite (.refl s)
      ((Reports.trans (.ite (tellEnd_reports ..) (.refl s)) (onFlight_reports ..)).keepsTable.trans (endPart_keepsTable ..))

theorem failCommand_keepsTable (s : State) (id code : Nat) (v : Word) (more : Nat) : s.KeepsTable (s.failCommand id code v more) := by
  unfold failCommand
  refine KeepsTable.trans (Reports.keepsTable ?_) (endCommand_keepsTable ..)
  split <;> exact (recordCode_reports ..).trans (logError_reports ..)

/-- A discard (R443) leaves the table alone, and so does an event that joins one. -/
theorem startDiscard_keepsTable (s : State) (code : Nat) (own silent : Option Nat) : s.KeepsTable (s.startDiscard code own silent) := by
  unfold startDiscard
  refine .ite (withDisc_keepsTable s s.cmd _) (KeepsTable.trans ?_ (Reports.foldl (fun _ _ => toMembers_reports ..) _ _).keepsTable)
  have h : s.KeepsTable ((allCores.foldl stopCore (s.setDiscardStat true code)).abortLaces code) :=
    ((setReg_reports ..).keepsTable.trans (.foldl (fun n _ s => stopCore_keepsTable s n) _)).trans (abortLaces_keepsTable ..)
  exact h.trans (withDisc_keepsTable ..)

theorem class2_keepsTable (s : State) (code more : Nat) (own : Option Nat) : s.KeepsTable (s.class2 code more own) := by
  unfold class2
  refine KeepsTable.trans (Reports.keepsTable ?_) (startDiscard_keepsTable ..)
  split <;> exact (recordCode_reports ..).trans (logError_reports ..)

theorem coreInfo_reports (s : State) (n e code pc : Nat) : s.Reports (s.coreInfo n e code pc) :=
  .ite (((setReg_reports ..).trans (setReg_reports ..)).trans (setReg_reports ..)) (.refl s)

theorem coreRecord_reports (s : State) (n : Nat) (x : CoreFault) : s.Reports (s.coreRecord n x) :=
  .ite (coreInfo_reports ..) ((coreInfo_reports ..).trans (recordCode_reports ..))

theorem coreLog_reports (s : State) (n code : Nat) : s.Reports (s.coreLog n code) := by
  unfold coreLog
  split <;> exact logError_reports ..

theorem coreReport_keepsTable (s : State) (n : Nat) : s.KeepsTable (s.coreReport n) := by
  unfold coreReport
  dsimp only
  split
  · exact .refl s
  · next x _ =>
    have h := (coreRecord_reports s n x).keepsTable.trans (onEng_keepsTable _ n fun g => { g with failed := none })
    refine .ite (.refl s) (.ite (h.trans (startDiscard_keepsTable ..)) ?_)
    split
    · exact h.trans (endCommand_keepsTable ..)
    · exact h

/-- A core that stops with an error (R102). -/
theorem coreStop_keepsTable (s : State) (n : Nat) (x : CoreFault) : s.KeepsTable (s.coreStop n x) :=
  .ite (.refl s) (((KeepsTable.trans (.ite (.refl s) (coreLog_reports ..).keepsTable) (stopCore_keepsTable ..)).trans
    (onEng_keepsTable ..)).trans (coreReport_keepsTable ..))

/-! ### The reserve ports and the page-ins (R211, R212, R217) -/

theorem sendRes_reports (s : State) (p ty tag a n : Nat) (d : List Byte) : s.Reports (s.sendRes p ty tag a n d) :=
  (send_reports ..).trans (transmit_reports ..)

theorem pumpT2_keepsTable (n : Nat) (s : State) : s.KeepsTable (s.pumpT2 n) := by
  induction n generalizing s with
  | zero => exact .refl s
  | succ n ih =>
    unfold pumpT2
    dsimp only
    split
    · exact .refl s
    · split
      · exact .refl s
      · refine KeepsTable.trans ?_ (ih _)
        exact ((withTier_keepsTable ..).trans (withTier_keepsTable ..)).trans
          (.ite (sendRes_reports ..).keepsTable (sendRes_reports ..).keepsTable)

theorem pump_keepsTable (s : State) : s.KeepsTable s.pump := pumpT2_keepsTable ..

theorem ptDone_keepsTable (s : State) (r : Nat) : s.KeepsTable (s.ptDone r) :=
  (withTier_keepsTable ..).trans (setReg_reports ..).keepsTable

theorem ptSettle_keepsTable (s : State) : s.KeepsTable s.ptSettle :=
  .ite (.refl s) (.ite (.ite (.refl s) (ptDone_keepsTable ..)) (.ite (ptDone_keepsTable ..) (.refl s)))

theorem setPages_keepsTable (s : State) (l : List PageIn) : s.KeepsTable (s.setPages l) := withTier_keepsTable ..

theorem killT2_keepsTable (s : State) (f : T2Req → Bool) : s.KeepsTable (s.killT2 f) := withTier_keepsTable ..

theorem failWaiters_keepsTable (s : State) (obj item code : Nat) : s.KeepsTable (s.failWaiters obj item code) := by
  refine (KeepsTable.foldl (fun n _ s => .foldl (fun e _ s => ?_) s) s).trans (.foldl (fun f _ s => failCommand_keepsTable ..) _)
  split
  · exact coreStop_keepsTable ..
  · exact .refl s

theorem failPage_keepsTable (s : State) (e : Entry) (item code : Nat) : s.KeepsTable (s.failPage e item code) := by
  unfold failPage
  refine KeepsTable.trans (KeepsTable.thenIf ?_ (failWaiters_keepsTable ..)) (ptSettle_keepsTable ..)
  exact ((setPages_keepsTable ..).trans (killT2_keepsTable ..)).trans (withTier_keepsTable ..)

theorem startReads_keepsTable (s : State) (e : Entry) (p : PageIn) : s.KeepsTable (s.startReads e p) :=
  .ite (failPage_keepsTable ..) (((withTier_keepsTable ..).trans (withTier_keepsTable ..)).trans (pump_keepsTable ..))

theorem evictDone_keepsTable (s : State) (e : Entry) : s.KeepsTable (s.evictDone e) := by
  unfold evictDone
  split
  · exact .refl s
  · exact startReads_keepsTable ..

theorem readFailed_keepsTable (s : State) (r : T2Req) (code : Nat) : s.KeepsTable (s.readFailed r code) :=
  (failPage_keepsTable ..).trans (pump_keepsTable ..)

theorem wbLost_keepsTable (s : State) (e : Entry) (g : Nat) : s.KeepsTable (s.wbLost e g) := by
  unfold wbLost
  refine KeepsTable.trans ?_ (advisory_reports ..).keepsTable
  exact (withTier_keepsTable ..).trans (setReg_reports ..).keepsTable

theorem writeFailed_keepsTable (s : State) (r : T2Req) : s.KeepsTable (s.writeFailed r) := by
  refine .ite ((withTier_keepsTable ..).trans (pump_keepsTable ..)) (KeepsTable.trans ?_ (pump_keepsTable ..))
  have h := wbLost_keepsTable s (s.entry r.obj) r.granule
  exact (KeepsTable.trans (.ite (h.trans (withTier_keepsTable ..)) h) (evictDone_keepsTable ..)).trans (ptSettle_keepsTable ..)

theorem failPort_keepsTable (s : State) (p : Nat) : s.KeepsTable (s.failPort p) :=
  ((withTier_keepsTable ..).trans (.foldl (fun r _ s => readFailed_keepsTable s r _) _)).trans
    (.foldl (fun r _ s => writeFailed_keepsTable s r) _)

theorem reserveLost_keepsTable (s : State) (p : Nat) : s.KeepsTable (s.reserveLost p) :=
  (withTier_keepsTable ..).trans (failPort_keepsTable ..)

/-! ### The answers to requests -/

theorem pieceOver_keepsTable (s : State) (n e tag : Nat) : s.KeepsTable (s.pieceOver n e tag) := by
  unfold pieceOver
  exact (landAll_keepsTable ..).trans (onEng_keepsTable ..)

theorem released_keepsTable (s : State) (r : Request) : s.KeepsTable (s.released r) := by
  have hdrop : s.Reports (s.dropRequest r.tag) := rfl
  refine hdrop.keepsTable.trans ?_
  unfold released
  dsimp only
  cases r.owner with
  | piece n e => exact pieceOver_keepsTable ..
  | signal => exact onEng_keepsTable ..
  | awl => exact onEng_keepsTable ..
  | command => exact .refl _
  | control => exact ⟨rfl, fun _ _ _ => rfl⟩

theorem pieceRefused_keepsTable (s : State) (n e iid code : Nat) : s.KeepsTable (s.pieceRefused n e iid code) := by
  unfold pieceRefused
  split
  · exact .refl s
  · exact (onEng_keepsTable ..).trans (coreStop_keepsTable ..)

theorem refusedClass2_keepsTable (s : State) (own : Option Nat) (tag code : Nat) (quiet : Bool) :
    s.KeepsTable (s.refusedClass2 own tag code quiet) := by
  have hlog : s.Reports (if quiet then s else match own.bind s.flight? with
      | some f => s.logError code f.queue f.scope f.tagWord
      | none => s.logError code 0 false 0#32) := by
    refine .ite (.refl s) ?_
    split <;> exact logError_reports ..
  have h := hlog.keepsTable.trans (startDiscard_keepsTable _ code own none)
  unfold refusedClass2
  dsimp only
  split
  · exact h.trans (onFlight_reports ..).keepsTable
  · exact h

theorem endBranch_keepsTable (s : State) (f : Flight) (b : Branch) (error adv : Nat) (unit detail : Word) :
    s.KeepsTable (s.endBranch f b error adv unit detail) := by
  have hdrop : s.Reports (s.dropRequest b.tag) := rfl
  have h := hdrop.trans (onFlight_reports _ f.id fun g => g.gather b error adv unit detail)
  exact .ite h.keepsTable ((h.trans (tellEnd_reports ..)).keepsTable.trans (endPart_keepsTable ..))

theorem refusedClass1_keepsTable (s : State) (r : Request) (code : Nat) (unit : Word) : s.KeepsTable (s.refusedClass1 r code unit) := by
  unfold refusedClass1
  cases r.owner with
  | piece => exact pieceRefused_keepsTable ..
  | signal => exact pieceRefused_keepsTable ..
  | awl => exact .ite (coreStop_keepsTable ..) (.refl s)
  | command id =>
    dsimp only
    split
    · exact endBranch_keepsTable ..
    · exact endCommand_keepsTable ..
  | control => exact .refl s

theorem refused_keepsTable (s : State) (r : Request) (code : Nat) (unit : Word) (quiet : Bool) :
    s.KeepsTable (s.refused r code unit quiet) :=
  .ite ((released_keepsTable ..).trans (refusedClass2_keepsTable ..)) ((released_keepsTable ..).trans (refusedClass1_keepsTable ..))

/-! ### Ports that come and go (R361 to R363, R369, R373) -/

theorem setPortState_reports (s : State) (p n : Nat) : s.Reports (s.setPortState p n) := rfl

theorem train_reports (s : State) (p : Nat) : s.Reports (s.train p) := rfl

theorem leavePort_reports (s : State) (p : Nat) (lost : Bool) : s.Reports (s.leavePort p lost) :=
  (onPort_reports ..).trans (.foldl (fun _ _ => setReg_reports ..) _ _)

theorem laneLost_reports (s : State) (code more id : Nat) : s.Reports (s.laneLost code more id) := by
  refine Reports.trans ?_ (onFlight_reports ..)
  split <;> exact (recordCode_reports ..).trans (logError_reports ..)

theorem lanesLost_reports (s : State) (p : Nat) : s.Reports (s.lanesLost p) := by
  refine .foldl (fun s l => ?_) _ s
  have hcirc : s.Reports (match s.circRun? l with
      | some r => s.laneLost eCircLinkLost (l * 2 ^ 16) r.flight
      | none => s) := by
    split
    · exact laneLost_reports ..
    · exact .refl s
  have hmerges (u : State) (rs : List MergeRun) : u.Reports (rs.foldl (fun s r => s.laneLost eCircLinkLost (l * 2 ^ 16) r.flight) u) :=
    .foldl (fun _ _ => laneLost_reports ..) rs u
  dsimp only
  split
  · exact (hcirc.trans (hmerges _ _)).trans (laneLost_reports ..)
  · exact hcirc.trans (hmerges _ _)

theorem serve_keepsTable (s : State) (p : Nat) : s.KeepsTable (s.serve p) := by
  refine .ite (.refl s) (.ite (.ite (.refl s) (KeepsTable.trans ?_ (drainPort_reports ..).keepsTable))
    (setPortState_reports ..).keepsTable)
  have h := (setPortState_reports s p 2).keepsTable
  exact .ite (h.trans ((withTier_keepsTable ..).trans (sendRes_reports ..).keepsTable)) h

theorem setPlanStat_reports (s : State) (p : Nat) (w : Word) : s.Reports (s.setPlanStat p w) := by
  have h := (setReg_reports s (pageLink p + 0x50) w).trans (onPort_reports _ p fun x => { x with changed := true })
  exact .ite (.refl s) (.ite (h.trans (advisory_reports ..)) h)

theorem planCheck_keepsTable (s : State) : s.KeepsTable s.planCheck :=
  (Reports.foldl (fun _ _ => .ite (setPlanStat_reports ..) (setReg_reports ..)) _ s).keepsTable.trans
    (.foldl (fun p _ s => serve_keepsTable s p) _)

theorem planCheckCommit_keepsTable (s : State) : s.KeepsTable s.planCheckCommit :=
  (planCheck_keepsTable s).trans
    (.foldl (fun _ _ s => .ite ((onPort_reports ..).keepsTable.trans (serve_keepsTable ..)) (.refl s)) _)

theorem refuseHeld_keepsTable (s : State) (code : Nat) (m : LinkMsg) : s.KeepsTable (s.refuseHeld code m) := by
  refine .ite ?_ (sendMsg_reports ..).keepsTable
  split
  · exact refused_keepsTable ..
  · exact .refl s

theorem startTraining_reports (s : State) (p : Nat) (lost : Bool) : s.Reports (s.startTraining p lost) :=
  (leavePort_reports ..).trans (train_reports ..)

theorem losePort_keepsTable (s : State) (p : Nat) : s.KeepsTable (s.losePort p) := by
  have h : s.KeepsTable ((((s.bump (pageLink p + 0x6C)).lanesLost p).startTraining p true).class2 (eLink p 1) 0 none) :=
    (((bump_reports ..).trans (lanesLost_reports ..)).trans (startTraining_reports ..)).keepsTable.trans (class2_keepsTable ..)
  unfold losePort
  refine KeepsTable.trans (.ite (h.trans ?_) (h.trans (reserveLost_keepsTable ..))) (planCheck_keepsTable _)
  exact .foldl (fun m _ s => refuseHeld_keepsTable ..) _

end State
end Sys2Proof.Machine
end

section
/-! SUPPORT. A new placement table (R459): its bytes, and how the end of a wipe and a commit that moves PT_BASE come to hold it. -/

namespace Sys2Proof.Machine

/-! ### A free entry -/

/-- The bytes of free entry i with generation 1. -/
def freeEntry (i : Nat) : List Byte := [BitVec.ofNat 8 i, BitVec.ofNat 8 (i / 256), 1#8] ++ List.replicate 61 0#8

theorem freeEntry_policy (i j : Nat) : (Entry.ofBytes j (freeEntry i)).policy = 0 := rfl

theorem freeEntry_gen (i j : Nat) : (Entry.ofBytes j (freeEntry i)).gen = 1 := rfl

/-- The handle of a free entry: its index and generation 1. -/
theorem freeEntry_handle {i : Nat} (hi : i < 65536) : field (freeEntry i) 0 4 = i + 2 ^ 16 := by
  have hbytes : field (freeEntry i) 0 4 = (BitVec.ofNat 8 i).toNat + 256 * ((BitVec.ofNat 8 (i / 256)).toNat + 256 * 1) := rfl
  rw [hbytes, BitVec.toNat_ofNat, BitVec.toNat_ofNat]
  omega

/-- Byte j of entry i of the free table at b, where that table is the one listed first. -/
theorem t1Default_head {b i j : Nat} (rest : List Nat) (hi : i < 65536) (hj : j < (freeEntry i).length) :
    t1Default (b :: rest) (b + 64 * i + j) = (freeEntry i)[j] := by
  have hj64 : j < 64 := hj
  have hin : decide (b ≤ b + 64 * i + j ∧ b + 64 * i + j < b + 0x400000) = true := decide_eq_true (by omega)
  have hindex : (b + 64 * i + j - b) / 64 = i := by omega
  have hbyte : (b + 64 * i + j - b) % 64 = j := by omega
  rw [t1Default, List.find?_cons_of_pos (by exact hin)]
  dsimp only
  rw [hindex, hbyte]
  match j with
  | 0 => rfl
  | 1 => rfl
  | 2 => rfl
  | j + 3 => exact (List.getElem_replicate (show j < 61 by omega)).symm

namespace State

/-! ### A free table -/

/-- Every entry of the placement table at PT_BASE is free and has generation 1 (R459). -/
def FreeTable (s : State) : Prop := ∀ i, i < 65536 → s.t1 (s.ptBase + 64 * i) 64 = freeEntry i

/-- A state whose list of free tables begins with the one at PT_BASE, and that lists no byte there. -/
theorem freeTable_of_head {s : State} {t : Tab Byte} {rest : List Nat} (htables : s.mem.tables = s.ptBase :: rest)
    (ht1 : s.mem.t1 = restrict (fun k => decide (k < s.ptBase ∨ s.ptBase + 0x400000 ≤ k)) t) : s.FreeTable := by
  intro i hi
  rw [State.t1, lookList_eq_map, htables, ht1]
  refine List.ext_getElem (by simp [freeEntry]) fun j hj hj' => ?_
  have hj64 : j < 64 := hj'
  have hin : decide (s.ptBase + 64 * i + j < s.ptBase ∨ s.ptBase + 0x400000 ≤ s.ptBase + 64 * i + j) = false := decide_eq_false (by omega)
  rw [List.getElem_map, List.getElem_range, look_restrict, hin, if_neg Bool.false_ne_true]
  exact t1Default_head rest hi hj'

theorem FreeTable.entry {s : State} (h : s.FreeTable) {i : Nat} (hi : i < 65536) :
    (s.entry i).policy = 0 ∧ (s.entry i).gen = 1 ∧ field (s.t1 (s.ptBase + 64 * i) 4) 0 4 = i + 2 ^ 16 := by
  have hentry : s.entry i = Entry.ofBytes i (freeEntry i) := congrArg (Entry.ofBytes i) (h i hi)
  have hhandle : s.t1 (s.ptBase + 64 * i) 4 = (freeEntry i).take 4 := congrArg (List.take 4) (h i hi)
  rw [hentry, hhandle]
  exact ⟨freeEntry_policy .., freeEntry_gen .., freeEntry_handle hi⟩

theorem KeepsTable.freeTable {s t : State} (h : s.KeepsTable t) (hs : s.FreeTable) : t.FreeTable := by
  have hbase : t.ptBase = s.ptBase := by
    simp only [ptBase, stg2]
    rw [h.stg _ (by decide) (by decide), h.stg _ (by decide) (by decide)]
  intro i hi
  rw [hbase, State.t1, h.mem]
  exact hs i hi

/-- The end of a wipe leaves a free table. -/
theorem endWipe_freeTable (s : State) : s.endWipe.FreeTable := freeTable_of_head rfl rfl

theorem initTable_freeTable {s : State} (h : s.mem.wiping = false) : s.initTable.FreeTable := by
  unfold initTable
  rw [h]
  exact freeTable_of_head rfl rfl

theorem initTable_stg (s : State) (o : Nat) : s.initTable.stg o = s.stg o := by
  unfold initTable
  dsimp only
  split <;> rfl

/-! ### The apply of a commit (R493 step 7, R495) -/

theorem shadow_copyWord (s : State) (o a : Nat) : (s.copyWord o).shadow a = s.shadow a := by
  rw [copyWord, shadow_setActive]
  split
  · next h => rw [h]
  · rfl

theorem stg_copyWords (s : State) (os : List Nat) (a : Nat) :
    (os.foldl copyWord s).stg a = if a ∈ os then s.shadow a else s.stg a := by
  induction os generalizing s with
  | nil => rfl
  | cons o os ih =>
    rw [List.foldl_cons, ih, shadow_copyWord, copyWord, stg_setActive]
    by_cases hmem : a ∈ os
    · simp [hmem]
    · by_cases ho : a = o
      · simp [ho]
      · simp [hmem, ho]

theorem copyWords_mem (s : State) (os : List Nat) : (os.foldl copyWord s).mem = s.mem := 
  foldl_keeps State.mem (f := copyWord) (fun _ _ => rfl) os s

/-- A staged word off the memory page. -/
theorem setActive_keepsTable (s : State) {a : Nat} (v : Word) (ha : a < 0x0500000 ∨ 0x0501000 ≤ a) : s.KeepsTable (s.setActive a v) where
  mem := rfl
  stg o hlo hhi := by
    rw [stg_setActive, if_neg]
    omega

theorem nextEpoch_keepsTable (s : State) {o : Nat} (written : List Nat) (ho : o < 0x0500000 ∨ 0x0501000 ≤ o) :
    s.KeepsTable (s.nextEpoch o written) := .ite (.refl s) (setActive_keepsTable s _ ho)

/-- A change of an array's entries is found among the entries that the array has. -/
theorem changed_lt {s : State} {b lo size n i : Nat} (h : i ∈ s.changed b lo size n) : i < n :=
  List.mem_range.mp (List.mem_filter.mp h).1

theorem changedGroups_lt {s : State} {bs : List Nat} {e : Nat} (h : e ∈ s.changedGroups bs) : e < 256 := by
  unfold changedGroups at h
  split at h
  · exact changed_lt h
  · cases h

theorem applyGroups_keepsTable (s : State) {es : List Nat} (written : List Nat) (hes : ∀ e ∈ es, e < 256) :
    s.KeepsTable (s.applyGroups es written) := by
  refine .foldl (fun e he s => ?_) s
  have hword : 0x2000 + 32 * e + 20 < 0x0500000 := by
    have := hes e he
    omega
  exact (nextEpoch_keepsTable s written (.inl hword)).trans ⟨rfl, fun _ _ _ => rfl⟩

theorem applyLaces_keepsTable (s : State) (ls written : List Nat) :
    s.KeepsTable (s.applyLaces ls written) := by
  refine .foldl (fun l _ s => ?_) s
  have hword : 0x0501000 ≤ pageCirc + 0x100 + 32 * l + 28 := by
    unfold pageCirc
    omega
  exact (nextEpoch_keepsTable s written (.inr hword)).trans (withColl_keepsTable ..)

theorem changeToward_keepsTable (s : State) (b : Nat) : s.KeepsTable (s.changeToward b) :=
  .ite (.refl s) (.ite ⟨rfl, fun _ _ _ => rfl⟩ ⟨rfl, fun _ _ _ => rfl⟩)

theorem applyPower_keepsTable (s : State) : s.KeepsTable s.applyPower := .ite (changeToward_keepsTable ..) (.refl s)

theorem setChipCtr_keepsTable (s : State) (i v : Nat) : s.KeepsTable (s.setChipCtr i v) := ⟨rfl, fun _ _ _ => rfl⟩

theorem applyClear_keepsTable (s : State) : s.KeepsTable s.applyClear := by
  refine .foldl (fun w hw s => .ite (.refl s) (KeepsTable.trans ?_ (setActive_keepsTable _ _ (.inl ?_)))) s
  · exact .foldl (fun k _ s => .ite (setChipCtr_keepsTable ..) (.refl s)) s
  · have := List.mem_range.mp hw
    unfold pageSync
    omega

theorem applyReserve_keepsTable (s : State) (was : List Nat) : s.KeepsTable (s.applyReserve was) :=
  .foldl (fun p _ s => failPort_keepsTable s p) s

theorem enableQueue_reports (s : State) (q : Nat) : s.Reports (s.enableQueue q) := rfl

theorem onCore_keepsTable (s : State) (n : Nat) (f : Core → Core) : s.KeepsTable (s.onCore n f) := withCores_keepsTable ..

theorem sfuSwap_keepsTable (s : State) (n : Nat) : s.KeepsTable (s.sfuSwap n) := by
  have hswap (u : State) (v : Word) : u.KeepsTable ((u.setActive (pageCore n + 0x2100) v).bump (pageCore n + 0x2010)) := by
    refine (setActive_keepsTable u v (.inr ?_)).trans (bump_reports ..).keepsTable
    unfold pageCore
    omega
  unfold sfuSwap
  refine .ite (.refl s) ?_
  dsimp only
  split
  · exact ((onCore_keepsTable ..).thenIf (hswap _ _)).trans (advisory_reports ..).keepsTable
  · exact (onCore_keepsTable ..).thenIf (hswap _ _)

theorem applyPort_keepsTable (s : State) (p : Nat) (was : Bool) : s.KeepsTable (s.applyPort p was) := by
  refine .ite (KeepsTable.trans ?_ ((setReg_reports ..).trans (setReg_reports ..)).keepsTable)
    (.ite (train_reports ..).keepsTable (.refl s))
  have h : s.KeepsTable (if !(s.port p).replay.isEmpty || (s.port p).msgs.any fun m => !m.flits.isEmpty then s.losePort p
      else s.leavePort p false) := .ite (losePort_keepsTable ..) (leavePort_reports ..).keepsTable
  exact .ite (h.trans (reserveLost_keepsTable ..)) h

theorem applyPlan_reports (s : State) : s.Reports s.applyPlan :=
  .ite (.refl s) ((setReg_reports ..).trans (.foldl (fun _ _ => onPort_reports ..) _ _))

theorem cleanBlocks_keepsTable (s : State) (bs : List Nat) : s.KeepsTable (s.cleanBlocks bs) := ⟨rfl, fun _ _ _ => rfl⟩

/-- What an apply does before it comes to the placement table, once the written words are in force. -/
def beforeTable (s : State) (bs os es : List Nat) : State :=
  let s := s.applyGroups es os
  let s := if bs.contains 1 then s.applyPower else s
  if bs.contains 4 then s.applyClear else s

/-- What it does after that, with what stood before the apply: the reserve ports, the ports' EN and the queues that were disabled. -/
def afterTable (s : State) (bs os ls res : List Nat) (were : List Bool) (qs : List Nat) : State :=
  let s := if bs.contains 5 then s.applyReserve res else s
  let s := s.applyLaces ls os
  let s := if bs.contains 0x0A then (qs.filter s.cqEn).foldl enableQueue s else s
  let s := allCores.foldl (fun s n => if bs.contains (0x10 + n) then s.sfuSwap n else s) s
  let s := (were.zipIdx).foldl (fun s (was, p) => if bs.contains (0x20 + p) then s.applyPort p was else s) s
  let s := if bs.contains 0x3F then s.applyPlan else s
  let s := if bs.contains 0x3F || (allPorts.any fun p => bs.contains (0x20 + p)) then s.planCheckCommit else s
  let s := bs.foldl (fun s b => s.perf b 3 1) s
  let s := { s with commit := { s.commit with
    applied := bs.foldl (fun t b => store noCount t b ((look noCount t b + 1) % 2 ^ 16)) s.commit.applied } }
  (s.commitOk bs).bump 0x6C

/-- The apply, with the written words that it puts in force and what it does before and after the table. -/
theorem commitApply_eq (s : State) : s.commitApply =
    let bs := s.commit.pending
    let os := (bs.map s.writtenOf).flatten
    let u := ((os.foldl copyWord s).cleanBlocks bs).beforeTable bs os (s.changedGroups bs)
    (if bs.contains 5 && s.ptBaseWritten then u.initTable else u).afterTable bs os (s.changedLaces bs) s.resEnabled
      (allPorts.map s.portEn) ((List.range 64).filter fun q => !s.cqEn q) := rfl

theorem beforeTable_keepsTable (s : State) (bs os : List Nat) {es : List Nat} (hes : ∀ e ∈ es, e < 256) :
    s.KeepsTable (s.beforeTable bs os es) :=
  ((applyGroups_keepsTable s os hes).thenIf (applyPower_keepsTable _)).thenIf (applyClear_keepsTable _)

theorem afterTable_keepsTable (s : State) (bs os ls res : List Nat) (were : List Bool) (qs : List Nat) :
    s.KeepsTable (s.afterTable bs os ls res were qs) := by
  have hqueues (s : State) : s.KeepsTable (if bs.contains 0x0A then (qs.filter s.cqEn).foldl enableQueue s else s) :=
    .ite (Reports.foldl enableQueue_reports _ s).keepsTable (.refl s)
  have hcores (s : State) : s.KeepsTable (allCores.foldl (fun s n => if bs.contains (0x10 + n) then s.sfuSwap n else s) s) :=
    .foldl (fun n _ s => .ite (sfuSwap_keepsTable s n) (.refl s)) s
  have hports (s : State) : s.KeepsTable
      ((were.zipIdx).foldl (fun s (was, p) => if bs.contains (0x20 + p) then s.applyPort p was else s) s) :=
    .foldl (fun x _ s => .ite (applyPort_keepsTable s x.2 x.1) (.refl s)) s
  have hcount (s : State) : s.KeepsTable (bs.foldl (fun s b => s.perf b 3 1) s) := (Reports.foldl (fun _ _ => perf_reports ..) bs s).keepsTable
  have hlaces := ((KeepsTable.refl s).thenIf (c := bs.contains 5) (applyReserve_keepsTable s res)).trans
    (applyLaces_keepsTable _ ls os)
  have hplan := (((hlaces.trans (hqueues _)).trans (hcores _)).trans (hports _)).thenIf (c := bs.contains 0x3F)
    (applyPlan_reports _).keepsTable
  have hcheck := hplan.thenIf (c := bs.contains 0x3F || (allPorts.any fun p => bs.contains (0x20 + p))) (planCheckCommit_keepsTable _)
  exact ((hcheck.trans (hcount _)).trans ⟨rfl, fun _ _ _ => rfl⟩)

/-- An apply that changes PT_BASE puts the written words in force, makes the new table, and leaves it alone from then on. -/
theorem commitApply_makesTable {s : State} (hblock : 5 ∈ s.commit.pending) (hwritten : s.ptBaseWritten = true) :
    ∃ u : State, ((s.commit.pending.map s.writtenOf).flatten.foldl copyWord s).KeepsTable u ∧ u.initTable.KeepsTable s.commitApply := by
  have hpt : (s.commit.pending.contains 5 && s.ptBaseWritten) = true := by
    rw [hwritten, Bool.and_true, List.contains_iff_mem]
    exact hblock
  rw [commitApply_eq]
  dsimp only
  rw [hpt, if_pos rfl]
  exact ⟨_, (cleanBlocks_keepsTable ..).trans (beforeTable_keepsTable _ _ _ fun _ => changedGroups_lt),
    afterTable_keepsTable ..⟩

/-- The offsets that a block of staged words names lie on its page: block 5 is the memory page (R500). -/
theorem offsetBlock_memory {o : Nat} (h : offsetBlock o = some 5) : 0x0500000 ≤ o ∧ o < 0x0501000 := by
  unfold offsetBlock at h
  grind

theorem writtenOf_memory {s : State} {o : Nat} (h : o ∈ s.writtenOf 5) : 0x0500000 ≤ o ∧ o < 0x0501000 := by
  obtain ⟨x, hx, rfl⟩ := List.mem_map.mp h
  exact offsetBlock_memory (beq_iff_eq.mp (List.mem_filter.mp hx).2)

section
variable {s : State} (hblock : 5 ∈ s.commit.pending) (hwritten : s.ptBaseWritten = true)
include hblock hwritten

theorem commitApply_freeTable (hwiping : s.mem.wiping = false) : s.commitApply.FreeTable := by
  obtain ⟨u, hu, ht⟩ := commitApply_makesTable hblock hwritten
  refine ht.freeTable (initTable_freeTable ?_)
  rw [hu.mem, copyWords_mem]
  exact hwiping

theorem commitApply_stg_memory {o : Nat} (ho : o ∈ s.writtenOf 5) : s.commitApply.stg o = s.shadow o := by
  obtain ⟨u, hu, ht⟩ := commitApply_makesTable hblock hwritten
  obtain ⟨hlo, hhi⟩ := writtenOf_memory ho
  have hmem : o ∈ (s.commit.pending.map s.writtenOf).flatten :=
    List.mem_flatten.mpr ⟨_, List.mem_map.mpr ⟨5, hblock, rfl⟩, ho⟩
  rw [ht.stg o hlo hhi, initTable_stg, hu.stg o hlo hhi, stg_copyWords, if_pos hmem]

end

end State

/-! ### The two ways to a new table -/

theorem exec_t1WipeEnd {s : State} (hwiping : s.mem.wiping = true) (hfatal : s.fatal = false) : exec .t1WipeEnd s =
    .next (s.mem.held.foldl (fun s i => if s.mem.wiping then s.holdAccess i else s.perform i)
      { s.endWipe with mem := { s.endWipe.mem with held := [] } }) := by
  simp only [exec, execT1WipeEnd, hwiping, Bool.not_true, Bool.false_eq_true, if_false, State.live_of_not_fatal _ hfatal]

theorem exec_commitApply {s : State} (hready : s.commitReady = true) (hfatal : s.fatal = false) :
    exec .commitApply s = .next s.commitApply := by
  simp only [exec, execCommitApply, hready, hfatal, Bool.not_false, Bool.and_true, if_true]

/-- Settles O60: both the end of a wipe and an apply that changes PT_BASE list the free table first and forget every byte over it, and what
the apply still does leaves the table and PT_BASE alone. -/
theorem placementTableStartsFree : Obligations.PlacementTableStartsFree := by
  unfold Obligations.PlacementTableStartsFree
  intro s hfatal
  refine ⟨?_, ?_, ?_⟩
  · intro hwiping
    have hfree : { s.endWipe with mem := { s.endWipe.mem with held := [] } }.FreeTable := s.endWipe_freeTable
    exact ⟨_, exec_t1WipeEnd hwiping hfatal, rfl, rfl, fun i hi => hfree.entry hi⟩
  · intro hready hwiping hblock hwritten
    exact ⟨_, exec_commitApply hready hfatal, fun o ho => State.commitApply_stg_memory hblock hwritten ho,
      fun i hi => (State.commitApply_freeTable hblock hwritten hwiping).entry hi⟩
  · omega

end Sys2Proof.Machine
end

section
/-! SUPPORT. LC_TRANSITION (R479, R480): what each request needs, how the token is read, and the two ways on: the discard, or a refusal with
LC_DENIED. -/

namespace Sys2Proof.Machine

namespace State

/-! ### The table of R479 -/

variable {s : State} {n : Nat}

theorem lcNeeds_free (h : (n = 4 ∧ s.sec.lc ≠ 4) ∨ (Config.isVariantE = false ∧ s.sec.lc = 1 ∧ n = 2 ∧ s.sec.provisioned = true)) :
    s.lcNeeds n = some false := by
  obtain ⟨rfl, hlc⟩ | ⟨hvariant, hlc, rfl, hprov⟩ := h
  · simp [lcNeeds, hlc]
  · simp [lcNeeds, hvariant, hlc, hprov]

theorem lcNeeds_token (h : Config.isVariantE = false ∧ ((s.sec.lc = 0 ∧ n = 1) ∨ (s.sec.lc = 2 ∧ n = 3))) : s.lcNeeds n = some true := by
  obtain ⟨hvariant, ⟨hlc, rfl⟩ | ⟨hlc, rfl⟩⟩ := h <;> simp [lcNeeds, hvariant, hlc]

theorem lcNeeds_none
    (hfree : ¬ ((n = 4 ∧ s.sec.lc ≠ 4) ∨ (Config.isVariantE = false ∧ s.sec.lc = 1 ∧ n = 2 ∧ s.sec.provisioned = true)))
    (htoken : ¬ (Config.isVariantE = false ∧ ((s.sec.lc = 0 ∧ n = 1) ∨ (s.sec.lc = 2 ∧ n = 3)))) : s.lcNeeds n = none := by
  unfold lcNeeds
  dsimp only
  split_ifs with hretired htarget hvariant htest hprovision hprov hdeployed
  · rfl
  · exact absurd (.inl ⟨htarget, hretired⟩) hfree
  · rfl
  · exact absurd ⟨Bool.eq_false_iff.mpr hvariant, .inl htest⟩ htoken
  · exact absurd (.inr ⟨Bool.eq_false_iff.mpr hvariant, hprovision.1, hprovision.2, hprov⟩) hfree
  · rfl
  · exact absurd ⟨Bool.eq_false_iff.mpr hvariant, .inr hdeployed⟩ htoken
  · rfl

/-! ### The write of MBOX_OP and the token -/

/-- The mailbox has taken a transition, which has not begun (R477). -/
def askTransition (s : State) (n : Nat) : State := s.setMbox ⟨3, n, s.mboxAddr, none, none⟩

theorem exec_lcTransition {s : State} (n : Fin 8) (hwiping : s.mem.wiping = false) (hmbox : s.sec.mbox = none) (hfatal : s.fatal = false) :
    exec (.lcTransition n) s = .next ((s.askTransition n).lcStart n s.mboxAddr) := by
  have hword : (BitVec.ofNat 32 (3 + n.val * 2 ^ 8)).toNat = 3 + n.val * 2 ^ 8 := by
    rw [BitVec.toNat_ofNat]
    omega
  have hop : (3 + n.val * 2 ^ 8) % 8 = 3 := by omega
  have htarget : (3 + n.val * 2 ^ 8) / 2 ^ 8 % 8 = n.val := by omega
  have hwiping' : (s.setMbox ⟨3, n.val, s.mboxAddr, none, none⟩).mem.wiping = false := hwiping
  simp only [exec, execLcTransition, mboxWrite, hword, hop, htarget, hmbox, hfatal, hwiping', Option.isSome_none, Bool.false_eq_true,
    if_false, if_true, Nat.reduceEqDiff, Nat.reduceLT, or_self, askTransition]

theorem askTransition_sec (s : State) (n : Nat) :
    (s.askTransition n).sec = { s.sec with mbox := some ⟨3, n, s.mboxAddr, none, none⟩ } := rfl

theorem askTransition_disc (s : State) (n : Nat) : (s.askTransition n).disc = s.disc := rfl

theorem askTransition_t1Seen (s : State) (n o k : Nat) : (s.askTransition n).t1Seen o k = s.t1Seen o k := rfl

theorem askTransition_poisonIn (s : State) (n o k : Nat) : (s.askTransition n).poisonIn o k = s.poisonIn o k := rfl

/-- A token passes by the nonce in force. -/
theorem tokenOk_of_nonce {s t : State} (h : t.sec.nonce = s.sec.nonce) (kind : Nat) (b : List Byte) : t.tokenOk kind b = s.tokenOk kind b := by
  unfold tokenOk nonce
  rw [h]

theorem askTransition_tokenOk (s : State) (n kind : Nat) (b : List Byte) : (s.askTransition n).tokenOk kind b = s.tokenOk kind b :=
  tokenOk_of_nonce (by rw [askTransition_sec]) kind b

/-- A token that lies whole in T1, without a poisoned word, is read as T1 shows it. -/
theorem readToken_clean {a : Nat} (halign : a % 64 = 0) (hin : a + tokenBytes ≤ t1Bytes) (hclean : s.poisonIn a tokenBytes = none) :
    s.readToken a = (s.bump64 (pageMem + 0xD0) tokenBytes, .ok (s.t1Seen a tokenBytes)) := by
  simp only [readToken, readT1, hclean, halign, hin, and_self, decide_true, Bool.not_true, Bool.false_eq_true, if_false]

/-! ### A discard begins -/

theorem Reports.disc {s t : State} (h : s.Reports t) : t.disc = s.disc := by
  unfold Reports at h
  rw [h]

theorem startDiscard_busy (s : State) (code : Nat) (own silent : Option Nat) : (s.startDiscard code own silent).disc.busy = true := by
  unfold startDiscard
  split
  · next h => exact h
  · exact congrArg Discard.busy (Reports.foldl (fun _ _ => toMembers_reports ..) _ _).disc

theorem startDiscard_sec (s : State) (code : Nat) (own silent : Option Nat) : (s.startDiscard code own silent).sec = s.sec :=
  (startDiscard_stays ..).sec

theorem freshNonce_sec (s : State) : s.freshNonce.sec = { s.sec with nonce := s.sec.draws, draws := s.sec.draws + 1 } := rfl

/-! ### A refusal -/

/-- The log's ring and its head lie below 0x600 (R450). -/
theorem logError_reg (s : State) (code q : Nat) (b : Bool) (w : Word) {a : Nat} (ha : 0x600 ≤ a) :
    (s.logError code q b w).reg a = s.reg a := by
  have hring : (s.reg 0x200).toNat % 32 < 32 := Nat.mod_lt _ (by decide)
  unfold logError
  dsimp only
  split
  · rfl
  · simp only [reg_setReg]
    iterate 5 rw [if_neg (by omega)]

theorem mboxDenied_disc (s : State) (r : Nat) : (s.mboxDenied r).disc = s.disc := (advisory_reports s 0x4088 0 none).disc

theorem mboxDenied_sec (s : State) (r : Nat) :
    (s.mboxDenied r).sec = { s.sec with mbox := s.sec.mbox.map fun m => { m with result := some r } } := by
  have hsec : (s.secAdvise 8).sec = s.sec := (advisory_stays ..).sec
  rw [mboxDenied, onSec, hsec]

/-- A refusal sets the bit of LC_DENIED, which is code 8 of the security block (R484). -/
theorem mboxDenied_lcDenied (s : State) (r : Nat) : ((s.mboxDenied r).reg 0x818).getLsbD 7 = true := by
  obtain ⟨u, hu⟩ : ∃ u : State, s.recordCode 0x4088 0 = (u.setReg 0x818 (u.reg 0x818 ||| 128#32)).send (.interrupt pageGlobal) := ⟨_, rfl⟩
  have hreg : (s.mboxDenied r).reg 0x818 = u.reg 0x818 ||| 128#32 := by
    change ((s.recordCode 0x4088 0).logError 0x4088 0 false 0#32).reg 0x818 = _
    rw [logError_reg _ _ _ _ _ (by decide), hu]
    exact (reg_setReg ..).trans (if_pos rfl)
  rw [hreg, BitVec.getLsbD_or]
  exact Bool.or_true _

/-! ### The ways of a transition -/

theorem lcStart_free {a : Nat} (h : s.lcNeeds n = some false) : s.lcStart n a = s.startDiscard 0 none none := by
  simp only [lcStart, h]

theorem lcStart_denied {a : Nat} (h : s.lcNeeds n = none) : s.lcStart n a = s.mboxDenied 3 := by
  simp only [lcStart, h]

section
variable {a : Nat} (hneeds : s.lcNeeds n = some true) (halign : a % 64 = 0) (hin : a + tokenBytes ≤ t1Bytes)
  (hclean : s.poisonIn a tokenBytes = none)
include hneeds halign hin hclean

theorem lcStart_token : s.lcStart n a =
    if s.tokenOk 2 (s.t1Seen a tokenBytes) ∧ field (s.t1Seen a tokenBytes) 5 1 = n then
      (s.bump64 (pageMem + 0xD0) tokenBytes).freshNonce.startDiscard 0 none none
    else (s.bump64 (pageMem + 0xD0) tokenBytes).mboxDenied 2 := by
  have hok := tokenOk_of_nonce (s := s) (t := s.bump64 (pageMem + 0xD0) tokenBytes) (by rw [bump64_sec]) 2 (s.t1Seen a tokenBytes)
  simp only [lcStart, hneeds, readToken_clean halign hin hclean, hok]

theorem lcStart_goodToken (hgood : s.tokenOk 2 (s.t1Seen a tokenBytes) = true ∧ field (s.t1Seen a tokenBytes) 5 1 = n) :
    (s.lcStart n a).disc.busy = true ∧ (s.lcStart n a).sec = { s.sec with nonce := s.sec.draws, draws := s.sec.draws + 1 } := by
  rw [lcStart_token hneeds halign hin hclean, if_pos hgood]
  refine ⟨startDiscard_busy .., ?_⟩
  rw [startDiscard_sec, freshNonce_sec, bump64_sec]

theorem lcStart_badToken (hbad : ¬ (s.tokenOk 2 (s.t1Seen a tokenBytes) = true ∧ field (s.t1Seen a tokenBytes) 5 1 = n)) :
    (s.lcStart n a).disc = s.disc ∧
      (s.lcStart n a).sec = { s.sec with mbox := s.sec.mbox.map fun m => { m with result := some 2 } } := by
  rw [lcStart_token hneeds halign hin hclean, if_neg hbad, mboxDenied_disc, mboxDenied_sec, bump64_sec, bump64_disc]
  exact ⟨rfl, rfl⟩

end

end State

/-- Settles O59: `State.lcNeeds` is the table of R479, and a transition goes on as it says: to the discard, to the token, or to the refusal. -/
theorem lifeCycleTransitions : Obligations.LifeCycleTransitions := by
  unfold Obligations.LifeCycleTransitions
  intro n s hwiping hmbox hbusy hfatal
  have hexec := State.exec_lcTransition n hwiping hmbox hfatal
  have hidle : (s.askTransition n).disc.busy = false := by rw [State.askTransition_disc, hbusy]
  refine ⟨?_, ?_, ?_⟩
  · intro hfree
    have hneeds : (s.askTransition n).lcNeeds n = some false := State.lcNeeds_free hfree
    refine ⟨_, hexec, ?_⟩
    rw [State.lcStart_free hneeds, State.startDiscard_sec, State.startDiscard_busy]
    exact ⟨rfl, rfl, rfl⟩
  · intro htoken halign hin hclean good
    have hneeds : (s.askTransition n).lcNeeds n = some true := State.lcNeeds_token htoken
    have hclean' := (s.askTransition_poisonIn n s.mboxAddr tokenBytes).trans hclean
    refine ⟨_, hexec, ?_⟩
    by_cases hgood : good
    · obtain ⟨hdisc, hsec⟩ := State.lcStart_goodToken hneeds halign hin hclean'
        (by rw [State.askTransition_t1Seen, State.askTransition_tokenOk]; exact hgood)
      rw [hdisc, hsec, decide_eq_true hgood, if_pos hgood]
      exact ⟨rfl, rfl, rfl⟩
    · obtain ⟨hdisc, hsec⟩ := State.lcStart_badToken hneeds halign hin hclean'
        (by rw [State.askTransition_t1Seen, State.askTransition_tokenOk]; exact hgood)
      rw [hdisc, hsec, decide_eq_false hgood, if_neg hgood]
      exact ⟨hidle, rfl, rfl⟩
  · intro hfree htoken
    have hneeds : (s.askTransition n).lcNeeds n = none := State.lcNeeds_none hfree htoken
    refine ⟨_, hexec, ?_⟩
    rw [State.lcStart_denied hneeds, State.mboxDenied_disc, State.mboxDenied_sec]
    exact ⟨hidle, rfl, rfl, State.mboxDenied_lcDenied ..⟩

end Sys2Proof.Machine
end
